-- ==== Sys2Proof/Word.lean ====
section
/-!
DEFINITION. Word.lean: the words of the machine and their plainest arithmetic (R4, R222).
-/
namespace Sys2Proof

/-- One byte of memory. -/
abbrev Byte := BitVec 8
/-- A 16-bit value: index registers, phases, origins, tags. -/
abbrev Half := BitVec 16
/-- A 32-bit vector register (R203). -/
abbrev Word := BitVec 32
/-- A 64-bit value: a register pair or a device register. -/
abbrev DWord := BitVec 64
/-- A program address (R110): 48 bits. -/
abbrev Addr := BitVec 48
/-- An instruction of at most 128 bits (R279), bit 0 least significant. -/
abbrev Code := BitVec 128

end Sys2Proof
end

