-- ==== Sys2Proof/Syntax.lean ====
section
/-!
DEFINITION. Syntax.lean: every row of spec/opcode_table.json as a constructor of `Instr`.
The 148 opcodes of R288 carry the fields that R281 gives every instruction; the events carry what the event names.
-/
namespace Sys2Proof

/-- LEN of R279 (code 11 is refused by the decoder). -/
inductive Len where
  | s   -- 64 bits
  | m   -- 96 bits: IMM32
  | l   -- 128 bits: IMM32 and EXT32
deriving DecidableEq, Repr

/-- Length in bytes (R279). -/
def Len.bytes : Len → Nat
  | .s => 8
  | .m => 12
  | .l => 16

/-- The fields of R281, with the trailing words of R279 (zero where the form has none). -/
structure Fields where
  len   : Len
  gp    : BitVec 3
  gn    : Bool
  stall : BitVec 4
  hold  : BitVec 2
  fe    : BitVec 3
  dst   : BitVec 8
  sa    : BitVec 8
  sb    : BitVec 8
  sc    : BitVec 8
  mod   : BitVec 6
  imm   : Word
  ext   : Word
deriving DecidableEq, Repr

/-- The function a doorbell write comes through (R32, R45). -/
inductive DoorFn where
  | pf0
  | pf1
  | vf (n : Nat)   -- virtual function n of PF0, 1 to 31
deriving DecidableEq, Repr

/-- The window of the device through which the outside writes a register (R20, R32, R45). -/
inductive RegPort where
  | bar0 (d : DoorFn)   -- doorbell slots
  | bar2 (d : DoorFn)   -- the die register blocks, or a virtual function's event rings
deriving DecidableEq, Repr

/-- Where such a write goes: the window, and the byte offset in it. -/
structure RegPlace where
  port : RegPort
  off  : Nat
deriving DecidableEq, Repr

/-- What the outside supplies at an interval boundary: what the spec calls the governor's own choice or a measurement
(R89, R94, R98, R101). -/
structure GovInput where
  uncore   : Nat                       -- uncore figures and HBM and link estimates, averaged over the interval, in 1/256 W (R89)
  settings : List (Nat × Nat × Nat)    -- cluster, VCODE, FCODE chosen (R94)
  ratios   : List (Nat × Nat × Nat)    -- cluster, slice, ratio chosen (R94)
  rates    : List (Nat × Nat)          -- leader cluster, RATE of its pair (R101)
deriving DecidableEq, Repr

/-- What boot finds outside the registers (R54): what the training gives, and, the first time, what the package flash holds. -/
structure BootInput where
  trained  : Bool                      -- stage 2 succeeded
  image    : List Byte                 -- the flash image, header first (R55)
  spares   : List (Option Nat × List Nat × List Nat × List Nat)   -- what the repair record says, by die: spare pair's
                                       -- logical pair, pairs offline, slice map, channels on spares (R15 to R17)
deriving DecidableEq, Repr

/-- A reduction transaction of R26. -/
structure RedTx where
  win    : BitVec 4
  epoch  : BitVec 16
  op     : BitVec 4
  ccount : BitVec 12
  offset : BitVec 28
  data   : List Word                   -- NELEM elements, 1 to 16
deriving DecidableEq, Repr

/-- A memory with a code of its own (R147). -/
inductive SoftPlace where
  | l1 (cl : Nat)
  | l2
  | rdc (die : Nat)
  | scratch (cl slot : Nat)
  | acc (cl slot : Nat)
deriving DecidableEq, Repr

/-- What the scrubber finds in an HBM sector (R145), or what goes wrong in a memory: symbols of the sector that stay unread,
or bits of a word (R147). `bad`: beyond correction. -/
inductive SectorState where
  | clean
  | corrected
  | uncorrectable
  | decay (bad : Bool)
  | soft (place : SoftPlace) (bad : Bool)
deriving DecidableEq, Repr

/-- Every row of spec/opcode_table.json. -/
inductive Instr where
  -- group 0, integer (R321)
  | iadd (f : Fields)
  | isub (f : Fields)
  | imul (f : Fields)
  | imulh (f : Fields)
  | imad (f : Fields)
  | imadw (f : Fields)
  | idiv (f : Fields)
  | irem (f : Fields)
  | imin (f : Fields)
  | imax (f : Fields)
  | iabs (f : Fields)
  | ineg (f : Fields)
  | iaddc (f : Fields)
  | isubb (f : Fields)
  | iset (f : Fields)
  | lea (f : Fields)
  | idp4 (f : Fields)
  -- group 1, logic and bit (R325)
  | bop (f : Fields)
  | shl (f : Fields)
  | shr (f : Fields)
  | shra (f : Fields)
  | rot (f : Fields)
  | xtr (f : Fields)
  | ins (f : Fields)
  | ones (f : Fields)
  | clz (f : Fields)
  | ctz (f : Fields)
  | flip (f : Fields)
  | bsel (f : Fields)
  -- group 2, FP32 (R329)
  | fadd (f : Fields)
  | fmul (f : Fields)
  | ffma (f : Fields)
  | fmin (f : Fields)
  | fmax (f : Fields)
  | fset (f : Fields)
  | fclass (f : Fields)
  | frnd (f : Fields)
  | frcp (f : Fields)
  | frsq (f : Fields)
  | fsqrt (f : Fields)
  | fdiv (f : Fields)
  | fexp2 (f : Fields)
  | flog2 (f : Fields)
  | fsin (f : Fields)
  | fcos (f : Fields)
  | ftanh (f : Fields)
  -- group 3, FP64 and packed 16-bit (R336 to R338)
  | dadd (f : Fields)
  | dmul (f : Fields)
  | dfma (f : Fields)
  | dmin (f : Fields)
  | dmax (f : Fields)
  | dset (f : Fields)
  | ddiv (f : Fields)
  | dsqrt (f : Fields)
  | pkadd (f : Fields)
  | pkmul (f : Fields)
  | pkfma (f : Fields)
  | pkmin (f : Fields)
  | pkmax (f : Fields)
  | fdot2 (f : Fields)
  -- group 4, conversions (R339 to R343)
  | cvt (f : Fields)
  | mxq (f : Fields)
  | mxdq (f : Fields)
  -- group 5, moves and predicates (R346)
  | mov (f : Fields)
  | movi (f : Fields)
  | sel (f : Fields)
  | s2v (f : Fields)
  | pset (f : Fields)
  | plop (f : Fields)
  | p2v (f : Fields)
  | v2p (f : Fields)
  | vxld (f : Fields)
  | vxst (f : Fields)
  -- group 6, control flow (R351)
  | bra (f : Fields)
  | brx (f : Fields)
  | call (f : Fields)
  | callx (f : Fields)
  | ret (f : Fields)
  | lpad (f : Fields)
  | jmark (f : Fields)
  | jwait (f : Fields)
  | fork (f : Fields)
  | endf (f : Fields)          -- END
  | yieldc (f : Fields)        -- YIELD
  | sleep (f : Fields)
  | csync (f : Fields)
  | join (f : Fields)
  | leave (f : Fields)
  | barArrive (f : Fields)
  | barWait (f : Fields)
  | barSync (f : Fields)
  | gbarArrive (f : Fields)
  | gbarWait (f : Fields)
  -- group 7, cross-lane (R364)
  | shfl (f : Fields)
  | shflx (f : Fields)
  | ballot (f : Fields)
  | vote (f : Fields)
  | redx (f : Fields)
  | scanx (f : Fields)
  | cdet (f : Fields)
  | segred (f : Fields)
  | matchx (f : Fields)
  | elect (f : Fields)
  -- group 8, loads and stores (R374, R377, R378)
  | ld (f : Fields)
  | st (f : Fields)
  | ldl (f : Fields)
  | pref (f : Fields)
  -- group 9, atomics and phase (R379, R386, R389)
  | atom (f : Fields)
  | atomc (f : Fields)
  | red (f : Fields)
  | phaseRel (f : Fields)
  | phaseAcq (f : Fields)
  | phaseFull (f : Fields)
  | privalias (f : Fields)
  -- group A, caddy (R390)
  | hclaim (f : Fields)
  | hfree (f : Fields)
  | hclr (f : Fields)
  | hins (f : Fields)
  | hprb (f : Fields)
  | hdel (f : Fields)
  | hacc (f : Fields)
  | hdrn (f : Fields)
  | hstat (f : Fields)
  -- group B, matrix (R401)
  | mma (f : Fields)
  | accz (f : Fields)
  | accld (f : Fields)
  | accst (f : Fields)
  -- group C, engines and timelines (R409, R412)
  | tcopy (f : Fields)
  | tfill (f : Fields)
  | tlsig (f : Fields)
  | tlwait (f : Fields)
  | tlqry (f : Fields)
  -- group D, tasks and deadlines (R416)
  | tspawn (f : Fields)
  | dlstep (f : Fields)
  | dlend (f : Fields)
  | dlqry (f : Fields)
  -- group E, system (R420 to R426)
  | nop (f : Fields)
  | srd (f : Fields)
  | swr (f : Fields)
  | trap (f : Fields)
  | tret (f : Fields)
  | tabort (f : Fields)
  | pclr (f : Fields)
  | icinv (f : Fields)
  | fencei (f : Fields)
  | bkpt (f : Fields)
  | wfi (f : Fields)
  | perfrd (f : Fields)
  -- group F (R289): the instruction as fetched, none of its fields checked
  | extensionOpcode (len : Len) (slot : BitVec 6) (rest : BitVec 116)
  -- packets (R38 to R40): the packet at the head of queue q
  | packetNop (q : Nat)
  | packetSkip (q : Nat)
  | fence (q : Nat)
  | launchTask (q : Nat)
  | graphSubmit (q : Nat)
  | taskCtrlResume (q : Nat)
  | taskCtrlRelease (q : Nat)
  | taskCtrlCancelChain (q : Nat)
  | copy (q : Nat)
  | tlSignal (q : Nat)
  | tlWait (q : Nat)
  | stepDeclare (q : Nat)
  | memAttr (q : Nat)
  | fenceComplete (q : Nat)
  | tlWaitComplete (q : Nat)
  | tlSignalFire (q : Nat)
  | memAttrComplete (q : Nat)
  -- doorbells and queue control (R33, R34, R45)
  | qtail (d : DoorFn) (q : Nat) (v : Word)
  | qctlEnable (d : DoorFn) (q : Nat)
  | qctlDisable (d : DoorFn) (q : Nat)
  | qctlReset (d : DoorFn) (q : Nat) (enable : Bool)
  | functionLevelReset (d : DoorFn)
  | vfAssignWrite (n : Nat) (ev : Bool) (v : DWord)
  -- tasks and dispatch (R64, R68, R69, R74, R249)
  | taskDone (seq : Nat)
  | condEvaluate (seq : Nat)
  | loopIteration (seq : Nat)
  | teamPlacement (latency : Bool) (cl : Nat)
  | teamResourceRelease (cl slot : Nat)
  -- cohorts (R181, R184, R359, R360)
  | cohortFormation (cl : Nat)
  | splitThresholdExpiry (cl id : Nat)
  | sleepWake (cl id : Nat)
  | yieldRelease (cl id : Nat)
  -- global barriers (R198, R200)
  | gbarDieForward (die b : Nat)
  | gbarD0Arrival (die b : Nat)
  | gbarRelease (die b : Nat)
  | gbCtlWrite (b off size : Nat) (v : DWord)
  -- arrivals (R207, R375, R391, R388): the k-th outstanding result of the cluster
  | loadDataArrival (cl k : Nat)
  | variableResultArrival (cl k : Nat)
  | caddyResultArrival (cl k : Nat)
  | phaseCompletion (cl k : Nat)
  -- matrix and engines (R239, R247, R411, R119)
  | matrixOpStart (leader : Nat)
  | matrixOpRetire (leader : Nat)
  | transferRetire (k : Nat)
  | transferAbort (k : Nat)
  -- timelines (R407)
  | tlValueWrite (die k : Nat) (v : DWord)
  | tlErrvWrite (die k : Nat) (v : DWord)
  -- governor (R84 to R101)
  | intervalBoundary (g : GovInput)
  | stepDeadline (slot : Nat)
  | clockSwitch (cl : Nat)
  | sliceRatioChange (cl slice ratio : Nat)
  | currentSample (die cl : Nat) (cur : Half)   -- a die and its local cluster
  | budgetRefill (leader : Nat)
  | clThrottleWrite (cl : Nat) (v : Word)
  -- address spaces (R107, R108)
  | ascmdQuery (asid : BitVec 10)
  | ascmdActivate (asid : BitVec 10)
  | ascmdBump (asid : BitVec 10)
  | ascmdRetire (asid : BitVec 10)
  | bumpComplete (k : Nat)
  | retireComplete
  | rplDone (v : DWord)
  | pageWalkComplete (agent asid vpn : Nat)
  | migGo (v : Word)
  | migrationComplete
  -- caches (R127, R136, R145)
  | l1Eviction (cl line : Nat)
  | replUpdateApply (die : Nat)
  | patrolScrub (sector : Nat) (found : SectorState)
  -- pre-emption and context (R270 to R278)
  | preemptRequest (cl : Nat) (slots : List Nat)
  | contextSave (cl slot : Nat)
  | teamRestore (k cl : Nat)
  | accTileSave (k : Nat)
  -- sparing (R15 to R17)
  | clusterRetire (die loc : Nat)
  | l2SliceRetire (die slice : Nat)
  | hbmChannelSpare (die channel : Nat)
  | hbmChannelSpareComplete (die channel : Nat)
  -- links (R10, R21 to R24)
  | meshEdgeLaneLoss (edge : Nat)
  | meshEdgeFailure (edge : Nat)
  | meshFlitRetry (edge : Nat)
  | pcieLinkDown (fn : Bool)
  | pcieLinkUp (fn : Bool)
  | ryndiPortLaneLoss (port : Nat)
  | ryndiPortLinkDown (port : Nat)
  | ryndiFlitReceive (port vc : Nat) (crcOk : Bool) (slots : List (List Byte))
  | fabricReductionArrival (tx : RedTx)
  | peerWriteArrival (pa : Nat) (bytes : List Byte)
  | bar4Write (fn : Bool) (pa : Nat) (bytes : List Byte)
  -- boot, attestation, management core (R48 to R56, R459, R424)
  | packageReset (b : BootInput)
  | bootctlGo (v : Word)
  | attgo (v : Word)
  | attestationComplete
  | certData
  | mcInterruptEntry
  | thermalAlert (die n : Nat) (temp : Half)
  | mcHbeat (v : Word)
  | heartbeatExpiry
  | errlogW3 (v : DWord)
  | dbgBkResume (cl : Nat) (v : DWord)
  | registerWrite (place : RegPlace) (size : Nat) (v : DWord)
  | ryndiPortReturnToService (port : Nat)
  | tempFallBelowLo (die : Nat) (temps : List (Nat × Option Half))
  | l2SliceRemap (die slice : Nat)
  | copyComplete (seq : Nat)
deriving DecidableEq, Repr

/-- What the package's agents may do next: a slice of a cluster issues, or an event comes about (log entry 1). -/
inductive Turn where
  | issue (cl slice : Nat)
  | event (i : Instr)
deriving DecidableEq, Repr, Inhabited

end Sys2Proof
end

