-- ==== Sys2Proof/Config.lean ====
section
/-!
DEFINITION. Config.lean: what the package's makers or its surroundings fix and the spec does not state, as constants
with no body. Nothing can be proved of their values; a statement that mentions one holds for every value.
-/
namespace Sys2Proof.Config

/-- The turn taken when nothing is waiting on the agenda: which agent moves next (log entry 1). -/
opaque freeTurn : Nat → Turn
/-- Nanoseconds of package time that pass at a step (log entry 2). -/
opaque elapsed : Nat → Nat
/-- Cycles of a cluster's own clock that pass at a step (log entry 2). -/
opaque cycles : Nat → Nat → Nat
/-- Bits returned by an approximate function for an APX class and a source (R234; log entry 7). -/
opaque approx : (fn : Nat) → (apx : Nat) → Word → Word
/-- Upper half of a 64-bit packed B of CVT given by a 32-bit immediate, which R284 does not state (log entry 12). -/
opaque immUpper : Word → Word
/-- The place of a beat among those an operand path streams (R100: the order of beats is not given; log entry 8). -/
opaque beatKey : (operation beat : Nat) → Nat
/-- Elements of MMAs streamed in a step ahead of retirement: leader, number, part, row and place (R243; log entry 48). -/
opaque streamed : (now : Nat) → List (Nat × Nat × Nat × Nat × Nat)
/-- Elements that transfers move in a step ahead of retirement: the transfer's place among those in flight, and the element
(R411; log entry 48). -/
opaque moves : (now : Nat) → List (Nat × Nat)
/-- The charge less 1 of an MMA whose fetch aborts, modulo 97: the beats streamed before are not given (R100; log entry 8). -/
opaque abortCharge : Nat → Nat
/-- Whether a register that holds one value in every fibre that reads it is stored once, tagged uniform (R192, R211; log entry 9). -/
opaque uniformTag : (now reg : Nat) → Bool
/-- The governor's estimate in W of the package power under a setting of the clusters (R93, R94; log entry 109). -/
opaque powerAt : List (Nat × Nat) → Nat
/-- The entry a full cache or translation buffer gives up (R125, R127; log entry 110). -/
opaque victim : Nat → Nat
/-- Whether the home directory grants a privatised copy now (R135; log entry 122). -/
opaque grant : Nat → Bool
/-- What a peer has set for the reduction window an address of it lies in: WIN, EPOCH, OP and the element offset, when it is
open (R26; log entry 44). -/
opaque peerWindow : (pa now : Nat) → Option (BitVec 4 × BitVec 16 × BitVec 4 × BitVec 28)
/-- The vector of the event that PF1 posts when D0's link goes down (R21; log entry 95). -/
opaque linkDownVector : Nat
/-- The repair record's bytes for what it says of the dies (R18, R56; log entry 5). -/
opaque repairRecord : List (Option Nat × List Nat × List Nat × List Nat) → List Byte
/-- CL_PWR.DIODE fused in a cluster (R103; log entry 5). -/
opaque diode : Nat → BitVec 4
/-- Lowest VCODE fused for a cluster at an FCODE (R83; log entry 5). -/
opaque minVcode : (cl fcode : Nat) → BitVec 7
/-- DER bytes of the RSA (false) or SLH-DSA (true) certificate (R56; log entry 5). -/
opaque certificate : Bool → List Byte
/-- Whether both signatures of an image verify against the fused keys (R54; log entry 5). -/
opaque imageVerifies : List Byte → Bool
/-- The minimum SVN in the fuses (R54; log entry 5). -/
opaque minSvn : Nat
/-- SHA-256 (R56; log entry 5): 32 bytes. -/
opaque sha256 : List Byte → Vector Byte 32
/-- The package's RSA-3072 signature of a message, 384 bytes (R56; log entry 5). -/
opaque signRsa : List Byte → Vector Byte 384
/-- The package's SLH-DSA signature of a message, 29,792 bytes (R56; log entry 5). -/
opaque signSlh : List Byte → Vector Byte 29792
/-- Which page of the last 64 KiB of the core's SRAM holds the first of the boot ROM's tables (R456; log entry 10). -/
opaque bootRoot : Nat
/-- Whether VF Enable is set in PF0's SR-IOV capability, which lies in configuration space (R45; log entry 11). -/
opaque vfEnable : Nat → Bool

end Sys2Proof.Config
end

