-- ==== Sys2Proof/Machine/State.lean ====
section
/-!
DEFINITION. Machine/State.lean: the state of the package as plain data, the reasons a step can stop, and the state
right after package reset. INVENTORY.md's '## State' names the rule of each field.
-/
namespace Sys2Proof.Machine

/-- A sparse table: keys strictly rising, no entry equal to the table's default (Machine/Tab.lean). -/
abbrev Tab (α : Type) := List (Nat × α)

/-- Bytes by address in the one canonical form; an unlisted byte reads 0 (log entry 3). -/
abbrev Memory := List Host.Cell

/-- One vector register of a fibre: value, full bit, poison bit (R203, R207, R213). A poisoned one stores 0x7FC0_0000 | origin
(R215). -/
structure VReg where
  val  : Word
  full : Bool
  pois : Bool
deriving DecidableEq, Repr

/-- A predicate and, when poisoned, its origin (R204, R215). -/
structure Pred where
  val  : Bool
  pois : Option Half
deriving DecidableEq, Repr

/-- Where a result goes (R213, R214): a vector register, a predicate or an index register, with what it becomes. -/
inductive Dst where
  | v (n : Nat) (r : VReg)
  | p (n : Nat) (r : Pred)
  | x (n : Nat) (r : Half)
deriving DecidableEq, Repr

/-- Why a fibre is parked (R180, R275). -/
inductive Wait where
  | none
  | join (j : Nat)
  | bar (s : Nat)
  | gbar (b : Nat) (v : Half)
  | csync (s : Nat)
  | d6 (regs : List Nat)
  | sleep (t : Nat)
deriving DecidableEq, Repr

/-- How a fibre came to the pool, for the formation rules (R181, R184, R186, R188). -/
inductive Rel where
  | plain
  | join (id : Nat) (aligned : Bool)
  | csync (s id : Nat)
  | bar (s id : Nat)
deriving DecidableEq, Repr

/-- The trap record of R267. -/
structure TrapRec where
  pc      : Addr
  sub     : Byte
  cause   : Byte
  origin  : Half
  npos    : BitVec 7
  pos     : BitVec 6
  aligned : Bool
  pol     : Bool
  w       : Bool
  fpmode  : Word
  iw      : Code
  mask    : DWord
  info    : DWord
  time    : DWord
deriving DecidableEq, Repr

/-- The architectural state of a fibre (R172), its formation bookkeeping and its pending phase mark (R388). -/
structure Fibre where
  live    : Bool
  pc      : Addr
  tm      : Bool
  v       : List VReg
  p       : List Pred            -- p0 to p6
  x       : List Half            -- x0 to x3
  rs      : List Addr            -- RS0 first (R355)
  rssp    : Nat
  sets    : BitVec 16
  lph     : List Half            -- local phases of sets 0 to 15
  jmask   : BitVec 16
  gen     : Word
  trec    : Option TrapRec
  wait    : Wait
  base    : Nat                  -- window base row (R206)
  entered : Nat                  -- cycle it entered the pool
  rel     : Rel
  phase   : Bool
  repl    : Nat                  -- number of its last REPL update (R155)
  saw     : Nat                  -- highest REPL number that a read of it may have returned (R150, R155, R162)
deriving DecidableEq, Repr

/-- A pending fixed-latency result: the distance at which it lands (R292, R293). -/
structure Late where
  land  : Nat
  fibre : Nat
  dst   : Dst
deriving DecidableEq, Repr

/-- Why a cohort is held back from issue without dissolving (R359, R360, R424). -/
inductive Hold where
  | none
  | sleep (t : Nat)
  | yielded (t : Nat)            -- issued its YIELD in cycle t
  | bkpt
  | resumed                      -- released by RESUME: its BKPT issues as a NOP
deriving DecidableEq, Repr

/-- What an outstanding variable-latency result will bring (R207). -/
inductive Payload where
  | bits (regs : List VReg) (flags : BitVec 7)
  | load (va n : Nat) (signed : Bool)
  | old (va n : Nat) (signed : Bool) (regs : List VReg)   -- read at home and on its way: a load, or what an atomic returns; a save before its arrival reads the word again (R270, R276)
  | tlqry (ref : Half)
  | pref (va asid : Nat) (gen : Half) (pa : Nat) (repl : Bool)   -- a prefetch: its address in its space, and how it was translated (R106, R378)
deriving DecidableEq, Repr

/-- Which event delivers an outstanding result. -/
inductive PendKind where
  | load
  | arith
  | caddy
  | pref                         -- a sector asked for by PREF (R148), no destination
  | replay                       -- a load of a restored team's replay list (R277)
deriving DecidableEq, Repr

/-- One outstanding result of one fibre (R207, R276). -/
structure Pend where
  kind  : PendKind
  slot  : Nat
  fibre : Nat
  regs  : List Nat               -- destination registers, lowest first
  issue : Nat                    -- number of the issue, for shared origins (R217)
  pc    : Addr
  code  : Nat                    -- access code of R276
  pay   : Payload
deriving DecidableEq, Repr

/-- What a phase operation does to its variable in one fibre (R387). -/
structure PhaseVar where
  fibre : Nat
  va    : Nat
  read  : Bool                   -- returns the old value
  write : Bool
  add   : Bool
  value : DWord
  dst   : Nat
deriving DecidableEq, Repr

/-- A signal a TLSIG makes once its release is complete (R413). -/
structure PhaseSig where
  fibre : Nat
  ref   : Half
  value : DWord
  clr   : Bool
deriving DecidableEq, Repr

/-- A release or acquire in progress (R387, R388, R413, R423). -/
structure PhaseOp where
  slot   : Nat
  fibres : List Nat
  rel    : Bool
  acq    : Bool
  vars   : List PhaseVar
  sigs   : List PhaseSig
  inv    : List (Nat × Nat)      -- ICINV ranges
  pc     : Addr
deriving DecidableEq, Repr

/-- A clean sector held in an L1, an RDC or an instruction cache (R126): its number, the instant it was filled (R133: steps of
the package, which refine package time), its poison, whether its line is REPL, with the number its home had then applied (R136),
and its bytes. -/
structure Sector where
  no    : Nat
  time  : Nat
  pois  : Bool
  repl  : Bool
  num   : Nat
  bytes : List Byte
deriving DecidableEq, Repr

/-- A tensor record as snapshotted at issue (R122, R123). -/
structure TRec where
  base   : Nat
  fmt    : Nat
  padm   : Nat
  padv   : Word
  tiles  : List Nat              -- extents, one a dimension
  dims   : List Nat
  strides : List Nat             -- bytes, for dimensions 1 and up
deriving DecidableEq, Repr

/-- Where a matrix or transfer operand lies (R241, R242, R410). -/
inductive Operand where
  | tensor (r : TRec) (origin : List Nat)
  | scratch (off : Nat)
deriving DecidableEq, Repr

/-- The kinds of operation of a matrix queue (R401). -/
inductive MatKind where
  | mma
  | accz
  | accld
  | accst
deriving DecidableEq, Repr

/-- One operation of a team's matrix queue (R239, R402). -/
structure MatOp where
  num     : DWord
  kind    : MatKind
  tile    : Nat
  fmt     : Nat                  -- FMT or MF
  z       : Bool
  sr      : Bool
  fibre   : Nat
  pc      : Addr
  a       : Operand
  b       : Operand
  extra   : List TRec            -- A scales, B scales, A outliers (R241)
  pois    : Option Half          -- a poisoned source's origin (R400)
  started : Bool
  ahead   : List ((Nat × Nat × Nat) × Nat × Option (Nat × Nat × Nat))   -- elements of an MMA streamed so far: part, row and place; value and poison (R243)
  lost    : Bool                 -- one of them met a failed translation (R119, R243)
deriving DecidableEq, Repr

/-- A TCOPY or TFILL transfer in flight (R409 to R411). -/
structure Xfer where
  ref   : Half
  num   : DWord
  cl    : Nat
  slot  : Nat
  asid  : Nat
  seq   : Nat                    -- its task
  priv  : DWord × Word × Nat     -- PRIVBASE, PRIVSIZE, FIB of the team (R315)
  pc    : Addr
  dst   : Operand
  src   : Option Operand         -- none: a fill
  fill  : DWord
  shape : List Nat               -- extents; for a scratchpad run, its byte length
  fmt   : Nat
  pois  : Option Half            -- a poisoned fill pattern's origin (R400)
  dead  : Bool                   -- a handle, offset or coordinate was poisoned: no access (R400)
  moved : List Nat               -- elements moved so far (R119, R411)
  fresh : List Nat               -- where they went, by byte of memory or scratchpad, the poisoned ones apart (R146, R147)
deriving DecidableEq, Repr

/-- An engine instruction whose guarded fibres take their numbers one at a time (R402, R410): numbers taken, with the
poison of each, and the operations of the fibres that still wait for room. -/
structure Part where
  nums : List (Nat × DWord × Option Half)
  mats : List MatOp
  xfs  : List Xfer
deriving DecidableEq, Repr

/-- A cohort on a slice (R178). For a FIXED team it is cohort `fixed`, whose issuing path is derived (R191). -/
structure Cohort where
  id      : Nat
  team    : Nat                  -- team slot
  slice   : Nat
  slot    : Nat                  -- cohort slot of the slice, 0 to 15
  fixed   : Option Nat
  fibres  : List Nat             -- ascending fibre index: position order (R179)
  lanes   : List Nat             -- lane of each fibre in `fibres`
  aligned : Bool
  fset    : Nat                  -- formation set (R184)
  dist    : Nat                  -- distance units since formation (R291)
  rest    : Nat × Nat            -- cycle in which its last operand phase is over, and pipeline cycles to pass from there (R86, R193, R291)
  late    : List Late
  issued  : Nat                  -- number of its last issue (R178)
  hold    : Hold
  blocked : Option (Nat × Nat × List (Nat × Nat))   -- cycle since which empty registers hold it, SPLIT then, and they by fibre (R177, R184 D6)
  part    : Option Part          -- an engine instruction in the middle of its issue
deriving DecidableEq, Repr

/-- A standing caddy claim (R251). -/
structure Claim where
  b     : Nat
  kw64  : Bool
  vw64  : Bool
  op    : Nat
  sbase : Nat
  scap  : Nat
  a     : Nat                    -- append count
  slive : Nat                    -- live spill entries (R261)
deriving DecidableEq, Repr

/-- A set barrier (R195). -/
structure SetBar where
  p : Half
  a : Nat
deriving DecidableEq, Repr

/-- A join slot (R188). -/
structure JoinSlot where
  c      : Nat
  a      : Nat
  target : Addr
  byEnd  : Bool                  -- an END has lowered the count since the slot was last zero (R186, R190)
deriving DecidableEq, Repr

/-- A resident team (R173): resources, cohort attributes and team state. -/
structure Team where
  slot    : Nat
  mc      : Bool                 -- the management core's own fibre (R46)
  seq     : Nat                  -- SEQ of its task (0 for the core)
  tcb     : Nat
  index   : Nat                  -- team index within the task
  asid    : Nat
  fib     : Nat
  regs    : Nat
  etag    : Half
  trapv   : Addr
  frame   : Nat
  code    : Addr
  acc     : Nat
  scr     : Nat                  -- KiB
  caddy   : Nat                  -- units of 2 KiB
  w64     : Bool
  fixed   : Bool
  strictx : Bool
  fto     : BitVec 6
  split   : BitVec 4
  hls     : Nat                  -- HLB = 32 * hls
  bulk    : Bool
  step    : Word
  inter   : Bool                 -- interlocked mode (R295)
  fpmode  : Word
  fpstat  : Word
  fpset   : Nat × Word           -- a cycle and the FPSTAT flags set in it (R227)
  sysw    : List (Nat × Nat × Nat × DWord)   -- team register writes of a cycle, not yet in force: cycle, slice, number, value (R177, R227)
  privb   : DWord
  privs   : Word
  fibres  : List Fibre
  uni     : List (Nat × List Nat)   -- registers stored once, tagged uniform, with the fibres that share them (R211)
  bars    : List SetBar
  joins   : List JoinSlot
  gbar    : Tab Nat
  scratch : Tab Byte
  scrPois : List Nat             -- poisoned 8-byte words of the scratchpad (R147)
  tiles   : Tab Word             -- key: tile * 32768 + 128 * row + column
  accPois : Tab (Option Half)    -- key: 8-byte word of the tiles; value: its origin (R244)
  claim   : Option Claim
  matq    : List MatOp
  matLast : DWord                -- number of the last operation it has issued on its pair (R249)
  charge  : Nat                  -- charge of the last retired MMA of its queue (R102)
  halted  : Bool                 -- named by a pre-emption request (R270)
  pinned  : Bool                 -- pre-empted for its pair's retirement: it returns to the same cluster number (R15)
  ended   : Bool                 -- all fibres ended, resources held (R249)
  placedAt : Nat                 -- order of placement (R76)
deriving DecidableEq, Repr

/-- A dirty byte of an L1 and the space whose store made it (R127, R143). -/
structure DirtyByte where
  byte : Byte
  asid : Nat
deriving DecidableEq, Repr

/-- An entry of a slice's operand latch (R210): the cohort and the registers `reg` to `reg + n - 1` it holds, and the issues of
that cohort for which it still stays. -/
structure Latch where
  cohort : Nat
  reg    : Nat
  n      : Nat
  left   : Nat
deriving DecidableEq, Repr

/-- One cluster. Number 160 is the management core's own slice (R46). -/
structure Cluster where
  cycle   : Nat
  teams   : List Team
  cohorts : List Cohort
  pend    : List Pend
  phases  : List PhaseOp
  dirty   : Tab (Option DirtyByte)   -- dirty PHASE bytes of the L1, by PA (R127)
  dpois   : List Nat             -- sectors whose dirty bytes are poisoned (R147)
  clean   : List Sector
  acq     : Nat                  -- acquire time A, as an instant (R133)
  pref    : List (Nat × Nat)     -- prefetched sectors not yet demanded: sector and fill cycle (R148)
  icache  : List Sector          -- fetched instruction sectors (R126, R127, R423)
  imiss   : List Nat             -- lines whose instruction fetch has missed and waits (R127)
  rr      : Nat                  -- team slot the former served first (R181)
  nextId  : Nat                  -- numbers cohorts, releases and issues
  vfNext  : Option (Nat × Nat)   -- a setting the cluster is moving to: VCODE, FCODE (R84)
  skip    : Nat × Nat            -- SKIP in force and the cycle its numbering begins at (R99)
  skipTo  : Option (Nat × Nat)   -- SKIP written, in force from a cycle on (R99)
  ratioAt : List Nat             -- cycle of each slice's last ratio change (R85)
  ratioTo : List (Option Nat)    -- a ratio decided for each slice and not yet in force (R85, R94)
  used    : List Nat             -- number of issues of each slice since the last interval boundary (R85)
  latches : List (List Latch)    -- the operand latch of each slice, least recently filled entry first (R210)
  busy    : List (Option Nat)    -- cycle from which each slice may issue again (R128, R178, R193)
  turn    : Option (Nat × Nat)   -- the last cycle in which a slice issued, and the highest that did (R178, R397, R398)
  formed  : Option Nat           -- cycle the former served last (R181)
  sampled : Nat                  -- periods of 1 us whose current sample is taken (R88)
  refill  : Nat                  -- periods of 1 us whose budget refill is made (R101)
  power   : Nat × Nat            -- sum and number of the power samples of this interval (R89)
  clocks  : List (Nat × Nat)     -- package time and FCODE of each clock switch of the last five intervals, newest first (R93)
  shared  : List ((Nat × Nat × Nat) × Half)   -- origins of loads outstanding: cause, sector or page, and issue (R217)
  beats   : List Byte × List Byte   -- last beat on the A and the B operand path of the pair; none yet: zero (R100)
  accOld  : List (Tab Word × Tab (Option Half))   -- tiles of the pair that ended teams have freed, as they left them, until they are given to another (R249)
  xbar    : Nat                  -- the counter CF_XBAR (R194)
deriving DecidableEq, Repr

/-- A timeline counter (R405). -/
structure Timeline where
  value  : DWord
  issued : DWord
  errv   : DWord
  out    : List Nat              -- the set O
deriving DecidableEq, Repr

/-- STATE of QSTAT (R32). -/
inductive QState where
  | disabled
  | running
  | waiting
  | halted
deriving DecidableEq, Repr

/-- A queue (R30 to R34): registers and the descriptor as last read. -/
structure Queue where
  state  : QState
  enable : Bool
  err    : Byte
  dberr  : Bool
  head   : Word
  tail   : Word
  ring   : Nat
  evr    : Nat
  vec    : Nat
  vf     : Nat
  fn     : Bool
  asid   : Nat
  prio   : Nat
  bulk   : Bool
  size   : Nat
  wb     : Nat
  epoch  : Nat                   -- resets so far (R35)
  bell   : Nat                   -- number that the next waiting write had at its last doorbell (R160)
deriving DecidableEq, Repr

/-- What an accepted packet still waits for (R38, R40). -/
inductive PktWait where
  | fence
  | tasks (seqs : List Nat)
  | signal (ref : Half) (value : DWord)
  | wait (ref : Half) (value : DWord)
  | memattr (k : Nat)
deriving DecidableEq, Repr

/-- A packet accepted and not yet complete. -/
structure Pkt where
  ord   : Nat                    -- acceptance order
  q     : Nat
  epoch : Nat
  hdr   : DWord
  head  : Word                   -- head at which it was accepted
  asid  : Nat                    -- its queue's space then
  wait  : PktWait
deriving DecidableEq, Repr

/-- KIND of a TCB (R57), and a COPY packet's task (R40). -/
inductive TaskKind where
  | task
  | cond
  | loop
  | copy
deriving DecidableEq, Repr

/-- Task states (R63). -/
inductive TaskState where
  | pending
  | ready
  | running
  | done
  | faulted
  | cancelled
  | skipped
deriving DecidableEq, Repr

/-- A region descriptor (R59). -/
structure Region where
  rd    : Bool
  wr    : Bool
  base  : Nat
  pitch : Nat
  rows  : Nat
  rowb  : Nat
deriving DecidableEq, Repr

/-- What the front end captures of a TCB (R57, R58, R62). -/
structure Tcb where
  kind    : TaskKind
  prio    : Nat
  bulk    : Bool
  code    : Addr
  etag    : Half
  frame   : Nat
  join    : Nat
  trapv   : Addr
  caddy   : Nat
  scr     : Nat
  regs    : Nat
  initf   : Nat
  fib     : Nat
  teams   : Nat
  step    : Word
  fpm     : BitVec 12
  split   : Nat
  fto     : Nat
  strictx : Bool
  fixed   : Bool
  w64     : Bool
  acc     : Nat
  limit   : Nat
  conda   : Nat
  succ    : List Nat             -- TCB addresses of SUCC
  list2   : List Nat             -- TCB addresses of LIST2
  regions : List Region
deriving DecidableEq, Repr

/-- A COPY packet's transfer (R38, R40). -/
structure CopyJob where
  dst : Nat
  src : Nat
  len : Nat
  sig : DWord
  ref : Half
deriving DecidableEq, Repr

/-- A task, COPY or control node in the graph window (R62 to R71). -/
structure Task where
  seq     : Nat
  asid    : Nat
  tcba    : Nat
  tcb     : Tcb
  copy    : Option CopyJob
  queue   : Option Nat           -- where its events go (R43, R78)
  head    : Word                 -- for a COPY's records (R42)
  state   : TaskState
  count   : Nat                  -- predecessor count
  links   : List Nat             -- successors derived under R66, by seq
  succ    : List Nat             -- SUCC by seq
  list2   : List Nat             -- LIST2 by seq
  body    : Option Nat           -- the LOOP whose body holds it
  fcause  : Byte
  fteam   : Half
  readyAt : Nat
  placed  : Nat                  -- teams placed so far
  iter    : Nat
  armed   : Bool                 -- a LOOP whose iteration runs
  fault   : Option (Nat × Nat × Nat)   -- a fault of this nanosecond: cause, team, package time (R80)
  freed   : Bool                 -- RELEASE applied; its ended teams still hold resources (R81, R249)
deriving DecidableEq, Repr

/-- A write-back to a TCB, and the record it precedes, waiting for the TCB's page (R62); without one, a record of a queue
behind such a write-back (R44). -/
structure Notice where
  back  : Bool
  seqs  : List Nat               -- its task; or the tasks whose write-backs a record follows
  asid  : Nat
  tcba  : Nat
  ctl   : Option Nat             -- ITER of a LOOP, 0 for a COND; none: a TASK
  state : Nat
  cause : Nat
  team  : Nat
  event : Option (Option Nat × Nat × Nat × Nat × Nat × Bool)   -- queue, SRC, CODE, INFO0, INFO1, INTR
deriving DecidableEq, Repr

/-- An address space (R105 to R107). -/
structure Space where
  live     : Bool
  gen      : Half
  root     : Nat
  hse      : Bool
  recbase  : Nat
  rgenbase : Nat
  retiring : Bool
deriving DecidableEq, Repr

/-- Who asked for a bump (R108). -/
inductive BumpFor where
  | ascmd
  | memattr (k : Nat)
  | migration
deriving DecidableEq, Repr

/-- A TLB entry (R106, R112): pages of 2^bits bytes. -/
structure TlbEntry where
  agent : Nat                    -- cluster, or 161 + die for engines
  asid  : Nat
  vpn   : Nat                    -- VA >> bits
  bits  : Nat
  gen   : Half
  pte   : DWord
  loc   : Nat                    -- PA of the leaf entry of its first 4 KiB page
  acc   : Nat                    -- ACCESSED and DIRTY by 4 KiB page of a 64 KiB entry, bit 0 otherwise (R113)
  dirty : Nat
deriving DecidableEq, Repr

/-- A migration in progress (R120): `second` once the first bump is over. -/
structure Migration where
  asid   : Nat
  vpn    : Nat
  frame  : Nat
  count  : Nat
  begun  : Bool                  -- its checks are made, which wait with the lines of its tables (R16, R29)
  second : Bool
deriving DecidableEq, Repr

/-- A MEM_ATTR in progress (R144). -/
structure MemAttr where
  k      : Nat
  asid   : Nat
  base   : Nat
  pages  : Nat
  cls    : Nat
  second : Bool
deriving DecidableEq, Repr

/-- A global barrier object (R198 to R200). -/
structure GBar where
  asid   : Nat
  phase  : Half
  count  : Half
  expect : Half
  sums   : List Nat              -- team arrivals summed at each die
  flight : List Nat              -- sums on their way to D0, by die
  dphase : List Half             -- phase each die has been told
deriving DecidableEq, Repr

/-- An active step (R90, R93, R104). -/
structure Step where
  slot     : Nat
  id       : Word
  ref      : Half
  n        : DWord
  t        : DWord
  e        : Word
  queue    : Option Nat
  asid     : Option Nat
  proj     : DWord
  risk     : Bool
  declared : Nat                 -- package time
  samples  : List (Nat × DWord)  -- counter value at the declaration and at boundaries, newest first
  used     : Nat                 -- cycles used by attributed clusters since the declaration (R93)
deriving DecidableEq, Repr

/-- One element of a die's reduction partial (R141). -/
structure Partial where
  die : Nat
  pa  : Nat
  op  : Nat
  val : DWord
  asids : List Nat               -- spaces whose REDs it holds (R108)
deriving DecidableEq, Repr

/-- A numbered REPL update not yet applied by every die (R136). -/
structure ReplUpd where
  num   : Nat
  cells : List Host.Cell
deriving DecidableEq, Repr

/-- The REPL sequencer (R136, R162). -/
structure Repl where
  next    : Nat
  pend    : List ReplUpd
  applied : List Nat             -- highest number applied, by die
deriving DecidableEq, Repr

/-- Scope state of a synchronisation variable (R138). -/
inductive SvScope where
  | wide
  | die (d : Nat)
  | cluster (c : Nat)
deriving DecidableEq, Repr

/-- A synchronisation-variable entry (R138): the clusters and dies that have touched the word, and the run of operations
from one cluster and from one die. In state CLUSTER the word's value lies in that cluster's L1 (log entry 122). -/
structure SvEntry where
  word  : Nat                    -- PA >> 3
  scope : SvScope
  cl    : Nat                    -- cluster of the last operation
  nCl   : Nat
  nDie  : Nat
  cls   : List Nat
  dies  : List Nat
deriving DecidableEq, Repr

/-- A LIVE line that clusters have accessed (R135): the byte mask of each, the cluster that holds a privatised copy, and the
bytes it has modified there (log entry 122). -/
structure DirLine where
  line  : Nat
  masks : List (Nat × List Nat)
  owner : Option Nat
  dirty : List Nat
deriving DecidableEq, Repr

/-- A write that waits at its home for a reduction window or a draining slice (R16, R29): its place in the order of such writes,
the function whose BAR4 it came through (R160), and the byte. -/
structure Stall where
  no : Nat
  fn : Option Bool
  pa : Nat
  b  : Byte
deriving DecidableEq, Repr

/-- A line the tile fetch unit has pinned in its home L2 for an MMA: leader, number and line (R243). -/
structure Pin where
  cl   : Nat
  num  : DWord
  line : Nat
deriving DecidableEq, Repr

/-- A reduction transaction on its way to a peer (R26): the port it takes, HOME, WIN, EPOCH, OP, CCOUNT, OFFSET and DATA. -/
structure SentRed where
  port   : Nat
  home   : BitVec 11
  win    : BitVec 4
  epoch  : BitVec 16
  op     : BitVec 4
  ccount : BitVec 12
  offset : BitVec 28
  data   : List Word
deriving DecidableEq, Repr

/-- A Ryndi port or mesh edge (R10, R22). -/
inductive LinkState where
  | full
  | half
  | down
deriving DecidableEq, Repr

/-- Spares of one die (R15 to R17). -/
structure Spares where
  pair     : Option Nat          -- logical pair carried by physical pair 20
  offline  : List Nat            -- logical pairs offline
  slices   : List Nat            -- physical slice of each logical slice
  used     : Bool                -- the spare slice has been taken (R16, R18)
  draining : List Nat            -- logical slices whose writeback runs
  copying  : List Nat            -- channels being copied
  spared   : List Nat            -- channels on their stack's spare
deriving DecidableEq, Repr

/-- A saved team (R273 to R278). -/
structure SavedTeam where
  die      : Nat
  slot     : Nat                 -- pool slot
  team     : Team
  replay   : List Pend
  accSaved : Bool
  leader   : Nat                 -- leader whose accumulator memory holds unsaved tiles
  pin      : Option Nat          -- the cluster it must return to (R15)
deriving DecidableEq, Repr

/-- Boot and attestation (R54 to R56). -/
structure Boot where
  image  : List Byte             -- the verified, running image
  flash  : Option (List Byte)    -- the firmware image in the package flash, once a boot has read it
  record : List Spares           -- the repair record, from a package reset to stage 1 (R18, R54)
  cand   : List Byte             -- the image being verified
  recov  : Bool                  -- it is a recovery image
  trained : Bool                 -- what stage 2 will find
  stage  : Nat                   -- stage of the boot ROM that runs, 1 to 4; 0: none
  waits  : Bool                  -- stage 3 failed and recovery is awaited
  att    : Option (Nat × List Byte)   -- buffer and nonce of the report being made
deriving DecidableEq, Repr

/-- The management core (R46 to R51). -/
structure McCore where
  running : Bool
  d1      : Bool                 -- the D1 core is active
  wfi     : Bool
  raise   : Bool                 -- ERR_UNCORRECTED to raise once MC_VBASE is written (R51)
  root    : DWord                -- MC_ROOT
  beat    : Nat                  -- start of the heartbeat period
deriving DecidableEq, Repr

/-- A risk handler's launch: space, TCB, the queue of its events, and the record for its FRAME (R96). -/
structure RiskLaunch where
  asid   : Nat
  tcb    : Nat
  queue  : Option Nat
  record : List Byte
deriving DecidableEq, Repr

/-- The package. -/
structure State where
  ptime    : Nat
  agenda   : List Turn
  cur      : Option (Nat × Nat)  -- cluster and cohort number now issuing
  free     : Nat
  mem      : Memory              -- by PA; SRAM of management core d lies at 2^52 + 2^21 * d
  pois     : List Nat            -- poisoned 64-byte sectors, ascending
  regs     : Tab DWord           -- device registers by offset in the register space
  tl       : Tab Timeline        -- key: die * 4096 + k
  queues   : Tab Queue
  pkts     : List Pkt
  pktNext  : Nat
  tasks    : List Task
  seqNext  : Nat
  notices  : List Notice
  placeNo  : Nat
  spaces   : Tab Space
  bumps    : List (Nat × BumpFor)
  tlb      : List TlbEntry
  replays  : List (Nat × Nat)    -- ASID, VPN
  mig      : Option Migration
  memattr  : List MemAttr
  gbars    : Tab GBar
  steps    : List Step
  limitRun : Nat                 -- boundaries in a row over the limit at FCODE 0 (R98)
  lastInt  : Nat                 -- package time of the last interval boundary
  handlers : List RiskLaunch     -- risk handlers that wait for the graph window or for a page (R96, R114)
  rrQueue  : List Nat            -- queue served last of each class and priority: 8 * class + priority (R36)
  rdc      : List (List Sector)  -- by die
  partials : List Partial
  repl     : Repl
  svt      : List SvEntry
  dir      : List DirLine        -- the home directories (R135)
  stalled  : List Stall          -- writes that wait at their home, oldest first (R16, R29)
  stallNo  : Nat                 -- number of the next of them
  l2       : Tab Nat             -- what the L2s hold, by sector: 1 a clean copy, 2 a modified one (R126)
  pins     : List Pin            -- lines pinned in them (R243)
  errs     : List (Nat × Bool)   -- sectors found in error by a read whose record is still to be made; true: beyond correction (R145)
  sent     : List SentRed        -- reduction transactions sent to peers, oldest first (R26)
  latent   : List (Nat × Nat)    -- HBM sectors whose stored symbols are wrong: 0 correctable, 1 beyond correction, 2 the poison codeword under a copy in the L2 (R145)
  hs       : List Nat            -- line requests counted, by die (R124)
  fabric   : Tab Nat             -- key: window * 2^28 + element; contributions (R28)
  pcie     : List Bool           -- link of PF0, PF1 up; trained by stage 2 of the boot (R21, R54)
  ports    : List LinkState      -- LK0 to LK11, trained by stage 4 (R22, R54)
  edges    : List LinkState      -- D0-D1, D2-D3, D0-D2, D1-D3
  spares   : List Spares         -- by die
  saved    : List SavedTeam
  restoring : List (Nat × Nat × Nat × Nat)   -- pool slots of restored teams whose replay lists are not read yet: die, slot, cluster, team slot (R277)
  xfers    : List Xfer
  sigs     : List (Nat × DWord × List Nat)   -- signals that wait for numbers (R406): counter key, value, and the fibre or queue they come from
  clusters : List Cluster        -- 160, then the management core's
  boot     : Boot
  core     : McCore
  msi      : List (Bool × Nat)   -- vectors raised: function, vector, oldest first
  alerts   : List Bool           -- THERMAL_ALERT armed, by die (R52)
deriving DecidableEq, Repr

/-- Why a step stops. No meaning of this model answers one: every event of the spec has an effect, and an event whose
condition does not hold leaves the state as it is (log entry 6). -/
inductive Fault where
  /-- Raised by nobody; it would be safe (the machine stops where the hardware goes on). -/
  | wedged
deriving DecidableEq, Repr

/-- Why an instruction has no meaning. -/
inductive Refusal where
  /-- Raised by an arm of `exec` not written yet; safe. No arm raises it now. -/
  | notModelled (mnemonic : String)
deriving DecidableEq, Repr

/-- A cluster with no team (R173) and empty caches. -/
def Cluster.reset : Cluster where
  cycle := 0
  teams := []
  cohorts := []
  pend := []
  phases := []
  dirty := []
  dpois := []
  clean := []
  acq := 0
  pref := []
  icache := []
  imiss := []
  rr := 0
  nextId := 0
  vfNext := none
  skip := (0, 0)
  skipTo := none
  ratioAt := List.replicate 6 0
  ratioTo := List.replicate 6 none
  used := List.replicate 6 0
  latches := List.replicate 6 []
  busy := List.replicate 6 none
  turn := none
  formed := none
  sampled := 0
  refill := 0
  power := (0, 0)
  clocks := [(0, 64)]
  shared := []
  beats := ([], [])
  accOld := []
  xbar := 0

/-- A die's spares at reset: identity maps, nothing in use (R15, R16). -/
def Spares.reset : Spares where
  pair := none
  offline := []
  slices := List.range 24
  used := false
  draining := []
  copying := []
  spared := []

/-- The package right after reset: registers at the Reset column of their tables, HBM and SRAM with nothing listed
(log entries 3 and 4), nothing in flight, no PCI Express link or Ryndi port trained yet, the boot ROM about to run its first stage
(R54). -/
def State.reset : State where
  ptime := 0
  agenda := []
  cur := none
  free := 0
  mem := []
  pois := []
  regs := []
  tl := []
  queues := []
  pkts := []
  pktNext := 0
  tasks := []
  seqNext := 1
  notices := []
  placeNo := 0
  spaces := []
  bumps := []
  tlb := []
  replays := []
  mig := none
  memattr := []
  gbars := []
  steps := []
  limitRun := 0
  lastInt := 0
  handlers := []
  rrQueue := List.replicate 16 0
  rdc := [[], [], [], []]
  partials := []
  repl := ⟨1, [], [0, 0, 0, 0]⟩
  svt := []
  dir := []
  stalled := []
  stallNo := 0
  l2 := []
  pins := []
  errs := []
  sent := []
  latent := []
  hs := [0, 0, 0, 0]
  fabric := []
  pcie := [false, false]
  ports := List.replicate 12 .down
  edges := List.replicate 4 .full
  spares := List.replicate 4 Spares.reset
  saved := []
  restoring := []
  xfers := []
  sigs := []
  clusters := List.replicate 161 Cluster.reset
  boot := ⟨[], none, [], [], false, false, 0, false, none⟩
  core := ⟨false, false, false, false, 0, 0⟩
  msi := []
  alerts := [true, true, true, true]

end Sys2Proof.Machine
end

