-- ==== Sys2Proof/Machine/Tab.lean ====
section
/-!
DEFINITION. Machine/Tab.lean: sparse tables and byte memories in canonical form, and the bit and list helpers of the model.
-/
namespace Sys2Proof.Machine

/-- The entry at `k`, or the table's default `d`. -/
def Tab.get {α : Type} (d : α) : Tab α → Nat → α
  | [], _ => d
  | (k', v) :: t, k => if k = k' then v else Tab.get d t k

/-- The table with `v` at `k`: sorted, and without an entry equal to the default. -/
def Tab.set {α : Type} [DecidableEq α] (d : α) : Tab α → Nat → α → Tab α
  | [], k, v => if v = d then [] else [(k, v)]
  | (k', v') :: t, k, v =>
    if k < k' then (if v = d then (k', v') :: t else (k, v) :: (k', v') :: t)
    else if k = k' then (if v = d then t else (k, v) :: t)
    else (k', v') :: Tab.set d t k v

/-- Every key of the table lies above `lo`, keys rise and no entry equals `d k` (the canonical form above a bound). -/
def Tab.wfFrom {α : Type} [DecidableEq α] (d : Nat → α) : Nat → Tab α → Bool
  | _, [] => true
  | lo, (k, v) :: t => decide (lo ≤ k) && decide (v ≠ d k) && Tab.wfFrom d (k + 1) t

/-- The canonical form of a table. -/
def Tab.wf {α : Type} [DecidableEq α] (d : α) (t : Tab α) : Bool := Tab.wfFrom (fun _ => d) 0 t

/-- The canonical form of a byte memory: addresses strictly rising, no entry equal to what an unlisted one reads as. -/
def Memory.wf (m : Memory) : Bool := Tab.wf (0 : Byte) m

/-- The byte at an address; an unlisted address reads 0 (log entry 3). -/
def Memory.byte (m : Memory) (a : Nat) : Byte := Tab.get 0 m a

/-- The memory with one byte written. -/
def Memory.put (m : Memory) (a : Nat) (b : Byte) : Memory := Tab.set 0 m a b

/-- `n` bytes from `a` upward. -/
def Memory.bytes (m : Memory) : Nat → Nat → List Byte
  | _, 0 => []
  | a, n + 1 => m.byte a :: Memory.bytes m (a + 1) n

/-- The memory with bytes written from `a` upward. -/
def Memory.putBytes : Memory → Nat → List Byte → Memory
  | m, _, [] => m
  | m, a, b :: bs => Memory.putBytes (m.put a b) (a + 1) bs

/-- Little-endian value of a byte list (R4). -/
def leVal : List Byte → Nat
  | [] => 0
  | b :: bs => b.toNat + 256 * leVal bs

/-- The `n` bytes of a value, lowest first (R4). -/
def leBytes : Nat → Nat → List Byte
  | 0, _ => []
  | n + 1, v => BitVec.ofNat 8 v :: leBytes n (v / 256)

/-- Bits [lo + w - 1 : lo] of a number. -/
def fld (x lo w : Nat) : Nat := x / 2 ^ lo % 2 ^ w

/-- Bit `i` of a number. -/
def bitOf (x i : Nat) : Bool := x / 2 ^ i % 2 == 1

/-- A number with the field [lo + w - 1 : lo] replaced. -/
def setFld (x lo w v : Nat) : Nat := x - fld x lo w * 2 ^ lo + v % 2 ^ w * 2 ^ lo

/-- Value of a number of `w` bits read as two's complement. -/
def sext (w x : Nat) : Int := if x % 2 ^ w < 2 ^ (w - 1) then (x % 2 ^ w : Nat) else ((x % 2 ^ w : Nat) : Int) - 2 ^ w

/-- An integer reduced modulo 2^w. -/
def wrap (w : Nat) (x : Int) : Nat := (x % 2 ^ w).toNat

/-- A truth value as a number. -/
def b2n (b : Bool) : Nat := if b then 1 else 0

/-- List `l` with its `i`-th element mapped by `g`. -/
def modAt {α : Type} (l : List α) (i : Nat) (g : α → α) : List α :=
  match l, i with
  | [], _ => []
  | a :: t, 0 => g a :: t
  | a :: t, i + 1 => a :: modAt t i g

/-- The element at an index, or a default. -/
def atD {α : Type} (l : List α) (i : Nat) (d : α) : α := l.getD i d

/-- Insert into an ascending list without repeats. -/
def insSorted (x : Nat) : List Nat → List Nat
  | [] => [x]
  | y :: t => if x < y then x :: y :: t else if x = y then y :: t else y :: insSorted x t

/-- Ascending order without repeats. -/
def sortNat (l : List Nat) : List Nat := l.foldr insSorted []

/-- Largest of a list, 0 when empty. -/
def maxNat (l : List Nat) : Nat := l.foldl max 0

/-- Smallest of a list. -/
def minNat? : List Nat → Option Nat
  | [] => none
  | x :: t => some (t.foldl min x)

/-- Position of the first element that satisfies `p`. -/
def findPos {α : Type} (p : α → Bool) (l : List α) : Option Nat := l.findIdx? p

/-- Stable insertion by a key. -/
def insBy {α : Type} (lt : α → α → Bool) (x : α) : List α → List α
  | [] => [x]
  | y :: t => if lt y x || !lt x y then y :: insBy lt x t else x :: y :: t

/-- Stable insertion sort. -/
def sortBy {α : Type} (lt : α → α → Bool) (l : List α) : List α := l.foldl (fun acc x => insBy lt x acc) []

end Sys2Proof.Machine
end

