-- ==== Sys2Proof/Machine/Float.lean ====
section
/-!
DEFINITION. Machine/Float.lean: the number formats of R220 to R222, exact values and rounding (R228, R229, R232),
narrowing (R231), minimum and maximum (R230), comparison (R332) and exact sums (R235 to R237).
-/
namespace Sys2Proof.Machine

/-- The exceptional encodings of a format (R221). -/
inductive FKind where
  | ieee
  | e4m3
  | e2m1
deriving DecidableEq, Repr

/-- A floating-point format: fraction bits, exponent bits, bias (R220). -/
structure Fmt where
  mant : Nat
  expb : Nat
  bias : Nat
  kind : FKind
deriving DecidableEq, Repr

def fp64 : Fmt := ⟨52, 11, 1023, .ieee⟩
def fp32 : Fmt := ⟨23, 8, 127, .ieee⟩
def fp16 : Fmt := ⟨10, 5, 15, .ieee⟩
def bf16 : Fmt := ⟨7, 8, 127, .ieee⟩
def e5m2 : Fmt := ⟨2, 5, 15, .ieee⟩
def e4m3 : Fmt := ⟨3, 4, 7, .e4m3⟩
def e2m1 : Fmt := ⟨1, 2, 1, .e2m1⟩

/-- Width of an element. -/
def Fmt.bits (f : Fmt) : Nat := 1 + f.expb + f.mant
/-- Exponent of the smallest normal value. -/
def Fmt.emin (f : Fmt) : Int := 1 - (f.bias : Int)
/-- The sign bit. -/
def Fmt.sign (f : Fmt) (neg : Bool) : Nat := if neg then 2 ^ (f.expb + f.mant) else 0
/-- The canonical NaN (R220). -/
def Fmt.qnan (f : Fmt) : Nat :=
  match f.kind with
  | .ieee => (2 ^ f.expb - 1) * 2 ^ f.mant + 2 ^ (f.mant - 1)
  | .e4m3 => 0x7F
  | .e2m1 => 0
/-- Infinity, or the largest finite value of a format without one (R220, R231). -/
def Fmt.infBits (f : Fmt) : Nat :=
  match f.kind with
  | .ieee => (2 ^ f.expb - 1) * 2 ^ f.mant
  | .e4m3 => 0x7E
  | .e2m1 => 7
/-- The largest finite value (R220). -/
def Fmt.maxBits (f : Fmt) : Nat :=
  match f.kind with
  | .ieee => (2 ^ f.expb - 1) * 2 ^ f.mant - 1
  | .e4m3 => 0x7E
  | .e2m1 => 7

/-- A decoded value: a NaN with its fraction left-justified in 52 bits, an infinity, or ±m * 2^e. -/
inductive FV where
  | nan (neg sig : Bool) (payload : Nat)
  | inf (neg : Bool)
  | fin (neg : Bool) (m : Nat) (e : Int)
deriving DecidableEq, Repr

/-- Value of an element's bits (R221). -/
def Fmt.decode (f : Fmt) (x : Nat) : FV :=
  let neg := bitOf x (f.expb + f.mant)
  let e := fld x f.mant f.expb
  let m := fld x 0 f.mant
  if e = 2 ^ f.expb - 1 ∧ f.kind = .ieee then
    if m = 0 then .inf neg else .nan neg (!bitOf m (f.mant - 1)) (m * 2 ^ (52 - f.mant))
  else if f.kind = .e4m3 ∧ e = 15 ∧ m = 7 then .nan neg false (7 * 2 ^ 49)
  else if e = 0 then .fin neg m (f.emin - f.mant)
  else .fin neg (2 ^ f.mant + m) ((e : Int) - f.bias - f.mant)

/-- Whether the bits are a subnormal number. -/
def Fmt.isSub (f : Fmt) (x : Nat) : Bool := fld x f.mant f.expb == 0 && fld x 0 f.mant != 0

/-- The flags of FPSTAT (R226), by bit number. -/
abbrev Flags := BitVec 7
def fNV : Flags := 1
def fDZ : Flags := 2
def fOF : Flags := 4
def fUF : Flags := 8
def fNX : Flags := 16
def fDN : Flags := 32
def fSAT : Flags := 64

/-- A directed or nearest rounding mode, or stochastic with the generator's output R (R228, R232). -/
inductive RMode where
  | rne
  | rtz
  | rdn
  | rup
  | sr (r : Nat)
deriving DecidableEq, Repr

/-- RM of FPMODE and the low codes of RND (R225, R320). -/
def rmOf (c : Nat) : RMode := match c % 4 with | 0 => .rne | 1 => .rtz | 2 => .rdn | _ => .rup

/-- The fields of FPMODE (R225). -/
def fmRm (w : Word) : RMode := rmOf (fld w.toNat 0 2)
def fmDaz32 (w : Word) : Bool := w.getLsbD 2
def fmFtz32 (w : Word) : Bool := w.getLsbD 3
def fmDaz16 (w : Word) : Bool := w.getLsbD 4
def fmFtz16 (w : Word) : Bool := w.getLsbD 5
def fmNanp (w : Word) : Bool := w.getLsbD 6
def fmLmm (w : Word) : Bool := w.getLsbD 7
def fmApx (w : Word) : Nat := fld w.toNat 8 2
def fmSr (w : Word) : Bool := w.getLsbD 10

/-- DAZ control of a source format (R229). -/
def dazOf (w : Word) (f : Fmt) : Bool :=
  if f = fp32 then fmDaz32 w else if f = fp16 ∨ f = bf16 then fmDaz16 w else false
/-- FTZ control of a destination format (R229). -/
def ftzOf (w : Word) (f : Fmt) : Bool :=
  if f = fp32 then fmFtz32 w else if f = fp16 ∨ f = bf16 then fmFtz16 w else false

/-- in32, in16 and the plain read of R318: DAZ, with its flag. -/
def Fmt.input (f : Fmt) (w : Word) (x : Nat) : FV × Flags :=
  if dazOf w f && f.isSub x then (.fin (bitOf x (f.expb + f.mant)) 0 0, fDN) else (f.decode x, 0)

def FV.isNan : FV → Bool
  | .nan .. => true
  | _ => false
def FV.isSig : FV → Bool
  | .nan _ s _ => s
  | _ => false
def FV.isZero : FV → Bool
  | .fin _ 0 _ => true
  | _ => false
def FV.isInf : FV → Bool
  | .inf _ => true
  | _ => false
def FV.sgn : FV → Bool
  | .nan n _ _ => n
  | .inf n => n
  | .fin n _ _ => n
def FV.neg : FV → FV
  | .nan n s p => .nan (!n) s p
  | .inf n => .inf (!n)
  | .fin n m e => .fin (!n) m e

/-- m * 2^e taken in units of 2^q: the floor, and how the rest compares (0 none, 1 below half, 2 half, 3 above half). -/
def quant (m : Nat) (e q : Int) (sticky : Bool) : Nat × Nat :=
  if q ≤ e then (m * 2 ^ (e - q).toNat, if sticky then 1 else 0)
  else
    let sh := (q - e).toNat
    let n := m / 2 ^ sh
    let r := m % 2 ^ sh
    let half := 2 ^ (sh - 1)
    (n, if r = 0 && !sticky then 0 else if r < half then 1 else if r = half && !sticky then 2 else 3)

/-- Whether a mode steps the magnitude up, given the floor's parity and the comparison of `quant`. -/
def stepUp (mode : RMode) (neg : Bool) (n cmp : Nat) : Bool :=
  match mode with
  | .rne => cmp == 3 || (cmp == 2 && n % 2 == 1)
  | .rtz => false
  | .rdn => cmp != 0 && neg
  | .rup => cmp != 0 && !neg
  | .sr _ => false

/-- The 32-bit fraction D of R232 of m * 2^e in units of 2^q. -/
def srFrac (m : Nat) (e q : Int) : Nat :=
  if q ≤ e then 0 else (m % 2 ^ (q - e).toNat) * 2 ^ 32 / 2 ^ (q - e).toNat

/-- Rounding of a finite magnitude m * 2^e (plus something below one unit when sticky) into a format (R228, R229, R231, R232). -/
def Fmt.round (f : Fmt) (mode : RMode) (ftz : Bool) (neg : Bool) (m : Nat) (e : Int) (sticky : Bool) : Nat × Flags :=
  if m = 0 then (f.sign neg, 0) else
  let eb := (Nat.log2 m : Int) + e
  let qn := eb - f.mant
  let q := max qn (f.emin - f.mant)
  let (n0, cmp) := quant m e q sticky
  let up := match mode with
    | .sr r => cmp != 0 && decide (srFrac m e q + r ≥ 2 ^ 32)
    | md => stepUp md neg n0 cmp
  let n := if up then n0 + 1 else n0
  let inexact := cmp != 0
  -- tininess after rounding to the precision with an unbounded exponent; under SR by the magnitude chosen (R232)
  let tiny := match mode with
    | .sr _ => decide (n < 2 ^ f.mant)
    | md =>
      let (u0, uc) := quant m e qn sticky
      let u := if stepUp md neg u0 uc then u0 + 1 else u0
      decide (eb < f.emin) && !(decide (u = 2 ^ (f.mant + 1)) && decide (eb + 1 = f.emin))
  let (n, q) := if n = 2 ^ (f.mant + 1) then (2 ^ f.mant, q + 1) else (n, q)
  if n < 2 ^ f.mant then
    if ftz && n != 0 then (f.sign neg, fUF ||| fNX ||| fDN)
    else (f.sign neg + n, if inexact then fNX ||| (if tiny then fUF else 0) else 0)
  else
    let be := q + f.mant + f.bias
    let enc := be.toNat * 2 ^ f.mant + (n - 2 ^ f.mant)
    if enc > f.maxBits then
      match f.kind with
      | .ieee =>
        let away := match mode with
          | .rne => true
          | .rtz => false
          | .rdn => neg
          | .rup => !neg
          | .sr _ => true
        (f.sign neg + (if away then f.infBits else f.maxBits), fOF ||| fNX)
      | _ => (f.sign neg + f.maxBits, fSAT ||| fOF ||| fNX)
    else (f.sign neg + enc, if inexact then fNX ||| (if tiny then fUF else 0) else 0)

/-- The NaN result of R229 from the NaN sources in source order; E4M3 keeps the first source's sign, E2M1 gives +0 with NV (R231). -/
def Fmt.nanOut (f : Fmt) (nanp : Bool) (src : List FV) : Nat × Flags :=
  let fl : Flags := if src.any FV.isSig then fNV else 0
  match f.kind with
  | .e2m1 => (0, fl ||| fNV)
  | .e4m3 => (match src.find? FV.isNan with
    | some (.nan n _ _) => f.sign n + 0x7F
    | _ => 0x7F, fl)
  | .ieee =>
    match nanp, src.find? FV.isNan with
    | true, some (.nan n _ p) =>
      let fr := p / 2 ^ (52 - f.mant)
      let fr := if bitOf fr (f.mant - 1) then fr else fr + 2 ^ (f.mant - 1)
      (f.sign n + (2 ^ f.expb - 1) * 2 ^ f.mant + fr, fl)
    | _, _ => (f.qnan, fl)

/-- An infinite result (R231): ±∞, or the largest finite value with SAT. -/
def Fmt.infOut (f : Fmt) (neg : Bool) : Nat × Flags :=
  (f.sign neg + f.infBits, if f.kind = .ieee then 0 else fSAT)

/-- An invalid operation's result: a NaN and NV (R226, R229). -/
def Fmt.invalid (f : Fmt) : Nat × Flags := (f.qnan, fNV)

/-- out(F, x, m) of R318 for a value without further error. -/
def Fmt.out (f : Fmt) (w : Word) (mode : RMode) (x : FV) : Nat × Flags :=
  match x with
  | .nan .. => f.nanOut (fmNanp w) [x]
  | .inf n => f.infOut n
  | .fin n m e => f.round mode (ftzOf w f) n m e false

/-- A signed exact number i * 2^e. -/
structure Dy where
  i : Int
  e : Int
deriving DecidableEq, Repr

def Dy.ofFin (neg : Bool) (m : Nat) (e : Int) : Dy := ⟨if neg then -(m : Int) else m, e⟩
def Dy.add (x y : Dy) : Dy :=
  let e := min x.e y.e
  ⟨x.i * 2 ^ (x.e - e).toNat + y.i * 2 ^ (y.e - e).toNat, e⟩
def Dy.mul (x y : Dy) : Dy := ⟨x.i * y.i, x.e + y.e⟩
/-- Exact sum of a list (R235 to R237). -/
def Dy.sum (l : List Dy) : Dy := l.foldl Dy.add ⟨0, 0⟩

/-- Sign of an exact zero sum (R228): that of the terms when they agree, else + except under RDN. -/
def zeroSign (mode : RMode) (signs : List Bool) : Bool :=
  match signs with
  | [] => false
  | s :: t => if t.all (· == s) then s else mode == .rdn

/-- Rounding of an exact sum of finite terms whose signs are given. -/
def Fmt.roundSum (f : Fmt) (w : Word) (mode : RMode) (s : Dy) (signs : List Bool) : Nat × Flags :=
  if s.i = 0 then (f.sign (zeroSign mode signs), 0)
  else f.round mode (ftzOf w f) (decide (s.i < 0)) s.i.natAbs s.e false

/-- The exact sum of values, rounded once (R236, R237): NaN sources, opposing infinities and infinities first. -/
def Fmt.sumOut (f : Fmt) (w : Word) (mode : RMode) (xs : List FV) : Nat × Flags :=
  if xs.any FV.isNan then f.nanOut (fmNanp w) xs
  else
    let pos := xs.any fun x => x == .inf false
    let neg := xs.any fun x => x == .inf true
    if pos && neg then f.invalid
    else if pos then f.infOut false
    else if neg then f.infOut true
    else
      let ds := xs.map fun x => match x with
        | .fin n m e => Dy.ofFin n m e
        | _ => ⟨0, 0⟩
      f.roundSum w mode (Dy.sum ds) (xs.map FV.sgn)

/-- x + y (R330). -/
def Fmt.add (f : Fmt) (w : Word) (mode : RMode) (x y : FV) : Nat × Flags := f.sumOut w mode [x, y]

/-- Exact product of two values without NaN, none for 0 × ∞. -/
def FV.prod (x y : FV) : Option FV :=
  match x, y with
  | .fin n m e, .fin n' m' e' => some (.fin (n != n') (m * m') (e + e'))
  | _, _ => if x.isZero || y.isZero then none else some (.inf (x.sgn != y.sgn))

/-- x * y (R330). -/
def Fmt.mul (f : Fmt) (w : Word) (mode : RMode) (x y : FV) : Nat × Flags :=
  if x.isNan || y.isNan then f.nanOut (fmNanp w) [x, y]
  else match x.prod y with
    | none => f.invalid
    | some p => f.out w mode p

/-- x * y + z with one rounding (R330): 0 × ∞ sets NV even when z is a quiet NaN. -/
def Fmt.fma (f : Fmt) (w : Word) (mode : RMode) (x y z : FV) : Nat × Flags :=
  let bad := !x.isNan && !y.isNan && (x.prod y).isNone
  if x.isNan || y.isNan || z.isNan then
    let r := f.nanOut (fmNanp w) [x, y, z]
    (r.1, if bad then r.2 ||| fNV else r.2)
  else match x.prod y with
    | none => f.invalid
    | some p => f.sumOut w mode [p, z]

/-- x / y (R330). -/
def Fmt.div (f : Fmt) (w : Word) (mode : RMode) (x y : FV) : Nat × Flags :=
  if x.isNan || y.isNan then f.nanOut (fmNanp w) [x, y]
  else
    let s := x.sgn != y.sgn
    match x, y with
    | .inf _, .inf _ => f.invalid
    | .inf _, _ => f.infOut s
    | _, .inf _ => (f.sign s, 0)
    | .fin _ m e, .fin _ m' e' =>
      if m' = 0 then (if m = 0 then f.invalid else ((f.infOut s).1, fDZ))
      else if m = 0 then (f.sign s, 0)
      else
        let k := Nat.log2 m' + f.mant + 4
        let n := m * 2 ^ k
        f.round mode (ftzOf w f) s (n / m') (e - e' - k) (n % m' != 0)
    | _, _ => f.invalid

/-- Integer square root, one bit of the root at a time. -/
def isqrtGo : Nat → Nat → Nat → Nat
  | 0, _, r => r
  | k + 1, n, r =>
    let r' := r + 2 ^ k
    isqrtGo k n (if r' * r' ≤ n then r' else r)
/-- Floor of the square root. -/
def isqrt (n : Nat) : Nat := isqrtGo (Nat.log2 n / 2 + 1) n 0

/-- sqrt(x) (R330). -/
def Fmt.sqrt (f : Fmt) (w : Word) (mode : RMode) (x : FV) : Nat × Flags :=
  match x with
  | .nan .. => f.nanOut (fmNanp w) [x]
  | .inf n => if n then f.invalid else (f.infBits, 0)
  | .fin n m e =>
    if m = 0 then (f.sign n, 0) else if n then f.invalid
    else
      let (m, e) := if e % 2 = 0 then (m, e) else (2 * m, e - 1)
      let k := f.mant + 4
      let big := m * 2 ^ (2 * k)
      let r := isqrt big
      f.round mode (ftzOf w f) false r (e / 2 - k) (r * r != big)

/-- clamp01 of R330 on the result's bits. -/
def Fmt.clamp01 (f : Fmt) (x : Nat) : Nat :=
  match f.decode x with
  | .nan .. => 0
  | .inf n => if n then 0 else f.bias * 2 ^ f.mant
  | .fin n _ _ => if n then 0 else if x > f.bias * 2 ^ f.mant then f.bias * 2 ^ f.mant else x

/-- Order of two values that are not NaN: -1, 0 or 1. -/
def FV.cmp (x y : FV) : Int :=
  match x, y with
  | .inf a, .inf b => if a = b then 0 else if a then -1 else 1
  | .inf a, _ => if a then -1 else 1
  | _, .inf b => if b then 1 else -1
  | .fin n m e, .fin n' m' e' =>
    let d := Dy.add (Dy.ofFin n m e) (Dy.ofFin (!n') m' e')
    if d.i < 0 then -1 else if d.i = 0 then 0 else 1
  | _, _ => 0

/-- Result bits of a value that came from this format: decoding undone, the DAZ zero included. -/
def Fmt.encodeBack (f : Fmt) (w : Word) (x : FV) : Nat := (f.out (w &&& 0) .rne x).1

/-- Minimum or maximum of R230: a selects over b. LMM = 0: one NaN yields the other source, -0 ranks below +0.
LMM = 1: any NaN yields a NaN, zeros rank equal and A is the result. -/
def Fmt.minmax (f : Fmt) (w : Word) (lmm isMax : Bool) (a b : FV) : Nat × Flags :=
  let fl : Flags := if a.isSig || b.isSig then fNV else 0
  let bothOrLmm := if lmm then a.isNan || b.isNan else a.isNan && b.isNan
  if bothOrLmm then f.nanOut (fmNanp w) [a, b]
  else if a.isNan then (f.encodeBack w b, fl)
  else if b.isNan then (f.encodeBack w a, fl)
  else
    let c := a.cmp b
    let c := if c = 0 && a.isZero && b.isZero && !lmm then
        (if a.sgn = b.sgn then 0 else if a.sgn then -1 else 1) else c
    (f.encodeBack w (if (if isMax then c ≥ 0 else c ≤ 0) then a else b), fl)

/-- The FP compare of R332: the predicate and NV. -/
def fcmp (code : Nat) (a b : FV) : Bool × Flags :=
  let nan := a.isNan || b.isNan
  let c := a.cmp b
  let rel := match code % 8 with
    | 0 => decide (c = 0)
    | 1 => decide (c ≠ 0)
    | 2 => decide (c < 0)
    | 3 => decide (c ≤ 0)
    | 4 => decide (c > 0)
    | _ => decide (c ≥ 0)
  let r := match code with
    | 6 => !nan
    | 14 => nan
    | 8 => nan || decide (c = 0)
    | 9 => nan || decide (c ≠ 0)
    | 10 => nan || decide (c < 0)
    | 11 => nan || decide (c ≤ 0)
    | 12 => nan || decide (c > 0)
    | 13 => nan || decide (c ≥ 0)
    | _ => !nan && rel
  let ordered := decide (2 ≤ code ∧ code ≤ 5)
  (r, if a.isSig || b.isSig || (nan && ordered) then fNV else 0)

/-- FCLASS (R333): the bit number. -/
def Fmt.classBit (f : Fmt) (x : Nat) : Nat :=
  match f.decode x with
  | .inf n => if n then 0 else 7
  | .nan _ s _ => if s then 8 else 9
  | .fin n m _ => if m = 0 then (if n then 3 else 4) else if f.isSub x then (if n then 2 else 5) else (if n then 1 else 6)

/-- A finite value rounded to an integer magnitude, with whether it was inexact (R231, R334). -/
def roundInt (mode : RMode) (neg : Bool) (m : Nat) (e : Int) : Nat × Bool :=
  let (n, c) := quant m e 0 false
  let up := match mode with
    | .sr r => c != 0 && decide (srFrac m e 0 + r ≥ 2 ^ 32)
    | md => stepUp md neg n c
  (if up then n + 1 else n, c != 0)

/-- FRND (R334): the integral value with the source's sign, and NV for a signalling NaN. -/
def Fmt.frnd (f : Fmt) (w : Word) (mode : RMode) (x : FV) : Nat × Flags :=
  match x with
  | .nan .. => f.nanOut (fmNanp w) [x]
  | .inf n => f.infOut n
  | .fin n m e => ((f.round .rne false n (roundInt mode n m e).1 0 false).1, 0)

/-- The seed of the generator of a fibre index in a team (R233). -/
def seedOf (team index : Nat) : Word :=
  let x := ((team * 1024 + index) * 0x9E3779B9 + 0x6A09E667) % 2 ^ 32
  BitVec.ofNat 32 (if x = 0 then 1 else x)

/-- One step of a generator (R233). -/
def genStep (g : Word) : Word := if g.getLsbD 0 then (g >>> 1) ^^^ 0x80200003#32 else g >>> 1

/-- Whether rounding a finite value into a format is inexact, which is when a stochastic conversion steps the generator (R232). -/
def Fmt.inexact (f : Fmt) (m : Nat) (e : Int) : Bool :=
  if m = 0 then false
  else (quant m e (max ((Nat.log2 m : Int) + e - f.mant) (f.emin - f.mant)) false).2 != 0

end Sys2Proof.Machine
end

