-- ==== Sys2Proof/Machine/Approx.lean ====
section
/-!
DEFINITION. Machine/Approx.lean: the bounds of R234 on the approximate functions. Values are fixed-point integers of `fxP`
fraction bits; the transcendental ones are found by series whose error stays below 2^-240. Where the exact value lies closer than
that to a number that decides a bound (a small argument, a tanh near 1) its side is known and kept.
-/
namespace Sys2Proof.Machine

/-- The approximate functions. -/
inductive Approx where
  | rcp
  | rsq
  | exp2
  | log2
  | sin
  | cos
  | tanh
deriving DecidableEq, Repr

/-- The number that names a function to Config.approx. -/
def Approx.code : Approx → Nat
  | .rcp => 0
  | .rsq => 1
  | .exp2 => 2
  | .log2 => 3
  | .sin => 4
  | .cos => 5
  | .tanh => 6

/-- Bound of R234 in ulp by APX class; the reserved class 3 counts as 2. -/
def Approx.ulps (g : Approx) (apx : Nat) : Nat :=
  match g, apx with
  | .rcp, 0 => 1 | .rcp, 1 => 2 | .rcp, _ => 4
  | .rsq, 0 => 1 | .rsq, 1 => 2 | .rsq, _ => 4
  | .exp2, 0 => 1 | .exp2, 1 => 2 | .exp2, _ => 8
  | .log2, 0 => 1 | .log2, 1 => 2 | .log2, _ => 8
  | .sin, 0 => 1 | .sin, 1 => 4 | .sin, _ => 16
  | .cos, 0 => 1 | .cos, 1 => 4 | .cos, _ => 16
  | .tanh, 0 => 2 | .tanh, 1 => 4 | .tanh, _ => 16

/-! ### Reciprocal and reciprocal square root: exact tests -/

/-- Whether c lies within k * 2^u of 1 / x, for x > 0: |c * x - 1| ≤ k * 2^u * x. -/
def nearRcp (k : Nat) (u : Int) (c x : Dy) : Bool :=
  let d := (c.mul x).add ⟨-1, 0⟩
  let lim := Dy.mul ⟨k, u⟩ x
  let z := Dy.add ⟨d.i.natAbs, d.e⟩ ⟨-lim.i, lim.e⟩
  decide (z.i ≤ 0)

/-- Whether c lies within k * 2^u of 1 / sqrt(x), for x > 0. -/
def nearRsq (k : Nat) (u : Int) (c x : Dy) : Bool :=
  let hi := c.add ⟨k, u⟩
  let lo := c.add ⟨-(k : Int), u⟩
  decide ((Dy.add (hi.mul (hi.mul x)) ⟨-1, 0⟩).i ≥ 0) && (decide (hi.i ≥ 0))
    && (decide (lo.i ≤ 0) || decide ((Dy.add (lo.mul (lo.mul x)) ⟨-1, 0⟩).i ≤ 0))

/-- Exponent of the ulp of a value in the binade t. -/
def ulpExp (t : Int) : Int := max t (-126) - 23

/-! ### The other functions: series -/

/-- Fraction bits of the fixed-point values. -/
def fxP : Nat := 320
/-- 1. -/
def fxOne : Nat := 2 ^ fxP
/-- Product of two fixed-point values. -/
def fxMul (a b : Nat) : Nat := a * b / fxOne

/-- m * 2^e as a fixed-point value of p fraction bits. -/
def fxOf (p m : Nat) (e : Int) : Nat := if e + p ≥ 0 then m * 2 ^ (e + p).toNat else m / 2 ^ (-(e + p)).toNat

/-- ln 2 as the sum of 1 / (k * 2^k). -/
def fxLn2 : Nat := ((List.range 340).map fun k => fxOne / ((k + 1) * 2 ^ (k + 1))).sum

/-- e^r for 0 ≤ r < 1: 90 terms of the series, the running term divided by its index. -/
def fxExp (r : Nat) : Nat :=
  ((List.range 90).foldl (fun (a : Nat × Nat) k => (a.1 + a.2, fxMul a.2 r / (k + 1))) (0, fxOne)).1

/-- ln y for 1 ≤ y < 2, by 2 * artanh((y - 1) / (y + 1)). -/
def fxLn (y : Nat) : Nat :=
  let z := (y - fxOne) * fxOne / (y + fxOne)
  let z2 := fxMul z z
  2 * ((List.range 110).foldl (fun (a : Nat × Nat) k => (a.1 + a.2 / (2 * k + 1), fxMul a.2 z2)) (0, z)).1

/-- Fraction bits that a reduction of the largest FP32 value modulo 2π needs. -/
def fxQ : Nat := fxP + 130

/-- arctan(1 / q) with fxQ fraction bits. -/
def fxAtanInv (q : Nat) : Int :=
  ((List.range 110).map fun k =>
    let t : Int := ((2 ^ fxQ / ((2 * k + 1) * q ^ (2 * k + 1)) : Nat) : Int)
    if k % 2 = 0 then t else -t).sum

/-- 2π with fxQ fraction bits, by Machin's formula. -/
def fxTwoPi : Nat := (32 * fxAtanInv 5 - 8 * fxAtanInv 239).toNat

/-- A nonnegative m * 2^e modulo 2π. -/
def fxMod (m : Nat) (e : Int) : Nat := fxOf fxQ m e % fxTwoPi / 2 ^ (fxQ - fxP)

/-- The alternating series whose terms start with `t` and index `i`, each term the last one times r^2 / ((i+1)(i+2)). -/
def fxTrig (r t i : Nat) : Int :=
  let r2 := fxMul r r
  ((List.range 70).foldl (fun (a : Int × Nat × Nat) k =>
    let (s, t, i) := a
    (if k % 2 = 0 then s + t else s - t, fxMul t r2 / ((i + 1) * (i + 2)), i + 2)) (0, t, i)).1

/-- The exact value of a function of ±m * 2^e, m > 0, in fixed point, and whether it is at or above 2^129. -/
def Approx.exact (g : Approx) (neg : Bool) (m : Nat) (e : Int) : Int × Bool :=
  match g with
  | .exp2 =>
    -- 2^x > 0, however small
    if (Nat.log2 m : Int) + e ≥ 8 then (if neg then (1, false) else (0, true))
    else
      let x : Int := (if neg then -(fxOf fxP m e : Int) else fxOf fxP m e)
      let n := x / fxOne
      let y := fxExp (fxMul (x - n * fxOne).toNat fxLn2)
      if n ≥ 129 then (0, true) else (if n ≥ 0 then y * 2 ^ n.toNat else max 1 (y / 2 ^ (-n).toNat), false)
  | .log2 =>
    let l := Nat.log2 m
    let y := m * 2 ^ (fxP - l)
    (((l : Int) + e) * fxOne + fxLn y * fxOne / fxLn2, false)
  | .sin =>
    let r := fxMod m e
    -- sin r < r, also where the series does not show it: the exact value's ulp is that below a power of two
    let v := min (fxTrig r r 1) ((r : Int) - 1)
    (if neg then -v else v, false)
  | .cos => (fxTrig (fxMod m e) fxOne 0, false)
  | .tanh =>
    -- tanh x < 1 and tanh x < x, likewise
    if (Nat.log2 m : Int) + e ≥ 6 then (if neg then 1 - (fxOne : Int) else fxOne - 1, false)
    else
      let u := 2 * fxOf fxP m e
      let n := u / fxLn2
      let y := fxExp (u - n * fxLn2) * 2 ^ n
      let v : Int := min (((y - fxOne) * fxOne / (y + fxOne) : Nat) : Int) ((fxOf fxP m e : Int) - 1)
      (if neg then -v else v, false)
  | _ => (0, false)

/-- Whether c, in fixed point, lies within k ulp of the exact value v. -/
def nearFx (k : Nat) (c v : Int) : Bool :=
  let t : Int := (Nat.log2 v.natAbs : Int) - fxP
  decide ((c - v).natAbs ≤ k * 2 ^ (ulpExp t + fxP).toNat)

/-- FP32 bits as a fixed-point value; infinity as 2^128. -/
def fxBits (c : Nat) : Option Int :=
  match fp32.decode c with
  | .fin n m e => some (if n then -(fxOf fxP m e : Int) else fxOf fxP m e)
  | .inf n => some (if n then -(2 ^ 128 * fxOne : Int) else 2 ^ 128 * fxOne)
  | .nan .. => none

/-- Bits of the FP32 value nearest to a fixed-point value. -/
def fxRound (v : Int) : Nat :=
  if v = 0 then 0 else (fp32.round .rne false (decide (v < 0)) v.natAbs (-(fxP : Int)) true).1

/-- Whether bits are within R234's bound for a function of ±m * 2^e, and the nearest value's bits. -/
def Approx.within (g : Approx) (apx : Nat) (neg : Bool) (m : Nat) (e : Int) (c : Nat) : Bool × Nat :=
  match g with
  | .rcp =>
    -- 2^t ≤ 1/x < 2^(t+1)
    let t : Int := -((Nat.log2 m : Int) + e) - (if m = 2 ^ Nat.log2 m then 0 else 1)
    (match fp32.decode c with
      | .fin n m' e' => n == neg && nearRcp (g.ulps apx) (ulpExp t) ⟨m', e'⟩ ⟨m, e⟩
      | _ => false,
      (fp32.div 0 .rne (.fin neg 1 0) (.fin false m e)).1)
  | .rsq =>
    let (m2, e2) := if e % 2 = 0 then (m, e) else (2 * m, e - 1)
    let k := 40 + Nat.log2 m2
    let r := isqrt (2 ^ (2 * k) / m2)
    let l : Int := (Nat.log2 m : Int) + e
    let t : Int := if m = 2 ^ Nat.log2 m ∧ l % 2 = 0 then -(l / 2) else -(l / 2 + 1)
    (match fp32.decode c with
      | .fin n m' e' => !n && nearRsq (g.ulps apx) (ulpExp t) ⟨m', e'⟩ ⟨m, e⟩
      | _ => false,
      (fp32.round .rne false false r (-(k : Int) - e2 / 2) true).1)
  | _ =>
    let (v, big) := g.exact neg m e
    if big then (c == fp32.infBits, fp32.infBits)
    else (match fxBits c with
      | some x => nearFx (g.ulps apx) x v
      | none => false, fxRound v)

/-- The bits a function returns for a finite source with bits `a`, value ±m * 2^e: Config's, kept when R234 allows them,
else the nearest value's (log entry 7). -/
def Approx.value (g : Approx) (apx a : Nat) (neg : Bool) (m : Nat) (e : Int) : Nat :=
  let c := (Config.approx g.code apx (BitVec.ofNat 32 a)).toNat
  let (ok, best) := g.within apx neg m e c
  if ok then c else best

end Sys2Proof.Machine
end

