-- ==== Sys2Proof/Decode.lean ====
section
/-!
DEFINITION. Decode.lean: the base word (R279, R281), the opcode map with operand kinds, MOD layouts, lengths and
latencies (R284 to R290 and the tables of the instruction chapters), the decode checks of R287, and the encoder.
-/
namespace Sys2Proof

/-! ### Fields -/

/-- Bits [lo + w - 1 : lo] of a number. -/
def bitsOf (x lo w : Nat) : Nat := x / 2 ^ lo % 2 ^ w

/-- MOD bit k. -/
def Fields.m (f : Fields) (k : Nat) : Bool := f.mod.getLsbD k
/-- The MOD field of w bits from bit lo. -/
def Fields.md (f : Fields) (lo w : Nat) : Nat := bitsOf f.mod.toNat lo w
/-- IMMB of XW (R286), or the 96-bit form: source B is IMM32 (R284). -/
def Fields.immB (f : Fields) : Bool := f.len == .m || (f.len == .l && f.ext.getLsbD 27)
/-- IXA, IXB, IXC and IXD of XW (R286); `alu` forms only. -/
def Fields.ixA (f : Fields) : Bool := f.len == .l && f.ext.getLsbD 29
def Fields.ixB (f : Fields) : Bool := f.len == .l && f.ext.getLsbD 30
def Fields.ixC (f : Fields) : Bool := f.len == .l && f.ext.getLsbD 31
def Fields.ixD (f : Fields) : Bool := f.len == .l && f.ext.getLsbD 28

/-- The kinds of operand field (R285, R317, R345, R390, R399). `vk` and `vv` take their width from the caddy claim. -/
inductive Kind where
  | no
  | v32
  | v64
  | v128
  | ps
  | pd
  | xr
  | lit
  | vk
  | vv
  | blk
deriving DecidableEq, Repr

/-- How an immediate becomes source B (R284): as it stands or sign-extended, widened from FP32, or packed in 64 bits. -/
inductive BImm where
  | plain
  | widen
  | packed
deriving DecidableEq, Repr

/-- What the opcode's entry gives an instruction. -/
structure Shape where
  dst  : Kind := .no
  sa   : Kind := .no
  sb   : Kind := .no
  sc   : Kind := .no
  e0   : Kind := .no             -- EXT32[7:0] as a register
  e1   : Kind := .no             -- EXT32[15:8] as a register
  mod  : Nat := 0                -- assigned MOD bits
  lens : Nat := 1                -- allowed lengths: 1 S, 2 M, 4 L
  alu  : Bool := false           -- trailing words as R284 gives them
  imm  : Nat := 0                -- assigned IMM32 bits
  ext  : Nat := 0                -- assigned EXT32 bits
  lat  : Nat := 0                -- fixed latency (R290)
  var  : Bool := false           -- variable-latency destinations (R207)
  bad  : Bool := false           -- an illegal combination (SUB 3)
  bimm : BImm := .plain
  cons : List Nat := []          -- operands whose poison traps (R216, R400)
  saw  : Bool := false           -- the SA pair is written too (HDRN)
  dstN : Nat := 0                -- registers of DST when it is a block (LDL)
  saN  : Nat := 0                -- registers of SA when it is a block (SHFLX)
  xlane : Bool := false          -- STRICTX applies (R187, R365)
  noCore : Bool := false         -- ILLEGAL on the management core (R46)
  onlyCore : Bool := false       -- ILLEGAL elsewhere (R420, R425)
deriving DecidableEq, Repr

/-- vw, vd, vm, vk of group 7: v64 when a MOD bit is set. -/
def Fields.vw (f : Fields) (k : Nat) : Kind := if f.m k then .v64 else .v32
/-- vs of MOV (R346). -/
def Fields.vs (f : Fields) : Kind := match f.md 0 2 with | 0 => .v32 | 1 => .v64 | _ => .v128
/-- vo of REDX, SCANX and SEGRED: the width OP names (R369). -/
def Fields.vo (f : Fields) : Kind := if f.md 0 4 = 1 ∨ f.md 0 4 = 12 then .v64 else .v32
/-- The data operand of LD and ST (R374). -/
def Fields.vsz (f : Fields) : Kind := match f.md 0 3 with | 5 => .v64 | 6 => .v128 | _ => .v32
/-- SP (R372). -/
def Fields.sp (f : Fields) : Nat := f.md 3 3
/-- The address operand of a space (R372). -/
def Fields.va (f : Fields) : Kind := if f.sp ≤ 1 then .v64 else .v32
def Fields.spBad (f : Fields) (ok : List Nat) : Bool := !ok.contains f.sp
/-- Whether an OP of R380 works on 64 bits. -/
def opWide (op : Nat) : Bool := [1, 7, 8, 9, 10, 16, 17, 18, 20].contains op
/-- vo of ATOM and RED (R379). -/
def Fields.vop (f : Fields) : Kind := if opWide f.sc.toNat then .v64 else .v32
/-- The operands of a phase instruction with a variable (R386). -/
def Fields.pv (f : Fields) : Kind := if f.m 0 then .v64 else .no
/-- IMM32 assigned whole in the M form. -/
def Fields.mImm (f : Fields) : Nat := if f.len = .m then 0xFFFFFFFF else 0
/-- A reserved RND code (R320): 1 only in conversions, 2 and 3 never. -/
def Fields.rndBad (f : Fields) (conv : Bool) (lo : Nat) : Bool :=
  f.md lo 3 == 2 || f.md lo 3 == 3 || (f.md lo 3 == 1 && !conv)

/-- System registers of R420 that SRD reads, and those SWR writes. -/
def sysReg (n : Nat) : Bool := decide (n ≤ 5 ∨ (8 ≤ n ∧ n ≤ 15) ∨ n = 0x80)
def sysWritable (n : Nat) : Bool := decide (n ≤ 5 ∨ n = 0x80)
def Fields.sysKind (_ : Fields) (n : Nat) : Kind := if n = 3 ∨ n ≥ 8 then .v64 else .v32

/-- Width of a CVT format in bits (R339); 0 for a code CVT does not take. -/
def cvtWidth (c : Nat) : Nat :=
  match c with
  | 0 => 32 | 1 => 16 | 2 => 16 | 3 => 8 | 4 => 8 | 5 => 4 | 7 => 8 | 8 => 8 | 9 => 16 | 10 => 32 | 11 => 64 | 12 => 64
  | _ => 0

/-- A vector kind of a width in bits. -/
def vecKind (w : Nat) : Kind := if w = 64 then .v64 else if w = 128 then .v128 else .v32

/-- CVT's operands by its four cases (R340). -/
def Fields.cvtShape (f : Fields) : Shape :=
  let dt := bitsOf f.sc.toNat 0 4
  let st := bitsOf f.sc.toNat 4 4
  let wd := cvtWidth dt
  let ws := cvtWidth st
  let es := f.md 3 3
  let rnd := f.rndBad true 0
  if wd = 0 ∨ ws = 0 then { alu := true, lens := 7, lat := 6, dst := .v32, sa := .v32, sb := .v32, sc := .lit, mod := 63, bad := true }
  else if wd ≥ 32 then
    { alu := true, lens := 5, lat := 6, dst := vecKind wd, sa := vecKind (max ws 32), sc := .lit, mod := 63,
      bad := rnd || (if ws ≥ 32 then es != 0 else decide (es ≥ 32 / ws)) }
  else
    let h := 16 / wd
    if h * ws ≥ 32 then
      { alu := true, lens := 7, lat := 6, dst := .v32, sa := vecKind (h * ws), sb := vecKind (h * ws), sc := .lit, mod := 63,
        bimm := if h * ws = 32 then .plain else if ws = 64 then (if st = 11 then .widen else .plain) else .packed
        bad := rnd || decide (h * ws > 128) || es != 0 || (f.immB && decide (h * ws > 64)) }
    else
      { alu := true, lens := 7, lat := 6, dst := .v32, sa := .v32, sb := .v32, sc := .lit, mod := 63,
        bad := rnd || decide (es * h + 2 * h > 32 / ws) }

/-! ### The opcode map (R288) -/

/-- One opcode: its number, its constructor and its entry. -/
structure OpRow where
  opc   : Nat
  con   : Fields → Instr
  shape : Fields → Shape

/-- Group 0, integer (R321). -/
def rowsInt : List OpRow := [
  ⟨0x001, .iadd, fun f => { alu := true, lens := 7, lat := 4, dst := f.vw 0, sa := f.vw 0, sb := f.vw 0, mod := 7, bad := f.m 1 && !f.m 2 }⟩,
  ⟨0x002, .isub, fun f => { alu := true, lens := 7, lat := 4, dst := f.vw 0, sa := f.vw 0, sb := f.vw 0, mod := 7, bad := f.m 1 && !f.m 2 }⟩,
  ⟨0x003, .imul, fun f => { alu := true, lens := 7, lat := 6, dst := f.vw 0, sa := f.vw 0, sb := f.vw 0, mod := 1 }⟩,
  ⟨0x004, .imulh, fun _ => { alu := true, lens := 7, lat := 6, dst := .v32, sa := .v32, sb := .v32, mod := 2 }⟩,
  ⟨0x005, .imad, fun f => { alu := true, lens := 7, lat := 6, dst := f.vw 0, sa := f.vw 0, sb := f.vw 0, sc := f.vw 0, mod := 1 }⟩,
  ⟨0x006, .imadw, fun _ => { alu := true, lens := 7, lat := 6, dst := .v64, sa := .v32, sb := .v32, sc := .v64, mod := 2 }⟩,
  ⟨0x007, .idiv, fun f => { alu := true, lens := 7, lat := 24, dst := f.vw 0, sa := f.vw 0, sb := f.vw 0, mod := 3 }⟩,
  ⟨0x008, .irem, fun f => { alu := true, lens := 7, lat := 24, dst := f.vw 0, sa := f.vw 0, sb := f.vw 0, mod := 3 }⟩,
  ⟨0x009, .imin, fun f => { alu := true, lens := 7, lat := 4, dst := f.vw 0, sa := f.vw 0, sb := f.vw 0, mod := 3 }⟩,
  ⟨0x00A, .imax, fun f => { alu := true, lens := 7, lat := 4, dst := f.vw 0, sa := f.vw 0, sb := f.vw 0, mod := 3 }⟩,
  ⟨0x00B, .iabs, fun f => { alu := true, lens := 5, lat := 4, dst := f.vw 0, sa := f.vw 0, mod := 5 }⟩,
  ⟨0x00C, .ineg, fun f => { alu := true, lens := 5, lat := 4, dst := f.vw 0, sa := f.vw 0, mod := 5 }⟩,
  ⟨0x00D, .iaddc, fun _ => { alu := true, lens := 7, lat := 4, dst := .v32, sa := .v32, sb := .v32, sc := .ps, mod := 7 }⟩,
  ⟨0x00E, .isubb, fun _ => { alu := true, lens := 7, lat := 4, dst := .v32, sa := .v32, sb := .v32, sc := .ps, mod := 7 }⟩,
  ⟨0x00F, .iset, fun f => { alu := true, lens := 7, lat := 4, dst := .pd, sa := f.vw 0, sb := f.vw 0, sc := .ps, mod := 31, bad := decide (f.md 2 3 ≥ 6) }⟩,
  ⟨0x010, .lea, fun _ => { alu := true, lens := 7, lat := 4, dst := .v64, sa := .v32, sb := .v64, mod := 15 }⟩,
  ⟨0x011, .idp4, fun _ => { alu := true, lens := 7, lat := 6, dst := .v32, sa := .v32, sb := .v32, sc := .v32, mod := 3 }⟩]

/-- Group 1, logic and bit (R325). -/
def rowsLogic : List OpRow := [
  ⟨0x040, .bop, fun _ => { alu := true, lens := 7, lat := 4, dst := .v32, sa := .v32, sb := .v32, sc := .v32, mod := 63 }⟩,
  ⟨0x041, .shl, fun f => { alu := true, lens := 7, lat := 4, dst := f.vw 0, sa := f.vw 0, sb := .v32, mod := 3 }⟩,
  ⟨0x042, .shr, fun f => { alu := true, lens := 7, lat := 4, dst := f.vw 0, sa := f.vw 0, sb := .v32, mod := 3 }⟩,
  ⟨0x043, .shra, fun f => { alu := true, lens := 7, lat := 4, dst := f.vw 0, sa := f.vw 0, sb := .v32, mod := 3 }⟩,
  ⟨0x044, .rot, fun f => { alu := true, lens := 7, lat := 4, dst := f.vw 0, sa := f.vw 0, sb := .v32, mod := 3 }⟩,
  ⟨0x045, .xtr, fun _ => { alu := true, lens := 7, lat := 4, dst := .v32, sa := .v32, sb := .v32, mod := 2 }⟩,
  ⟨0x046, .ins, fun _ => { alu := true, lens := 7, lat := 4, dst := .v32, sa := .v32, sb := .v32, sc := .v32 }⟩,
  ⟨0x047, .ones, fun f => { alu := true, lens := 5, lat := 5, dst := .v32, sa := f.vw 0, mod := 1 }⟩,
  ⟨0x048, .clz, fun f => { alu := true, lens := 5, lat := 5, dst := .v32, sa := f.vw 0, mod := 1 }⟩,
  ⟨0x049, .ctz, fun f => { alu := true, lens := 5, lat := 5, dst := .v32, sa := f.vw 0, mod := 1 }⟩,
  ⟨0x04A, .flip, fun f => { alu := true, lens := 5, lat := 5, dst := f.vw 0, sa := f.vw 0, mod := 1 }⟩,
  ⟨0x04B, .bsel, fun _ => { alu := true, lens := 7, lat := 4, dst := .v32, sa := .v32, sb := .v32, sc := .v32 }⟩]

/-- Group 2, FP32 (R329). -/
def rowsFp : List OpRow := [
  ⟨0x080, .fadd, fun f => { alu := true, lens := 7, lat := 5, dst := .v32, sa := .v32, sb := .v32, mod := 63, bad := f.rndBad false 0 }⟩,
  ⟨0x081, .fmul, fun f => { alu := true, lens := 7, lat := 5, dst := .v32, sa := .v32, sb := .v32, mod := 47, bad := f.rndBad false 0 }⟩,
  ⟨0x082, .ffma, fun f => { alu := true, lens := 7, lat := 5, dst := .v32, sa := .v32, sb := .v32, sc := .v32, mod := 63, bad := f.rndBad false 0 }⟩,
  ⟨0x083, .fmin, fun _ => { alu := true, lens := 7, lat := 5, dst := .v32, sa := .v32, sb := .v32 }⟩,
  ⟨0x084, .fmax, fun _ => { alu := true, lens := 7, lat := 5, dst := .v32, sa := .v32, sb := .v32 }⟩,
  ⟨0x085, .fset, fun f => { alu := true, lens := 7, lat := 5, dst := .pd, sa := .v32, sb := .v32, sc := .ps, mod := 15, bad := f.md 0 3 == 7 }⟩,
  ⟨0x086, .fclass, fun _ => { alu := true, lens := 5, lat := 5, dst := .v32, sa := .v32 }⟩,
  ⟨0x087, .frnd, fun f => { alu := true, lens := 5, lat := 5, dst := .v32, sa := .v32, mod := 7, bad := f.rndBad false 0 }⟩,
  ⟨0x088, .frcp, fun _ => { alu := true, lens := 5, lat := 12, dst := .v32, sa := .v32 }⟩,
  ⟨0x089, .frsq, fun _ => { alu := true, lens := 5, lat := 12, dst := .v32, sa := .v32 }⟩,
  ⟨0x08A, .fsqrt, fun f => { alu := true, lens := 5, lat := 0, dst := .v32, sa := .v32, mod := 39, bad := f.rndBad false 0, var := true }⟩,
  ⟨0x08B, .fdiv, fun f => { alu := true, lens := 7, lat := 0, dst := .v32, sa := .v32, sb := .v32, mod := 47, bad := f.rndBad false 0, var := true }⟩,
  ⟨0x08C, .fexp2, fun _ => { alu := true, lens := 5, lat := 12, dst := .v32, sa := .v32 }⟩,
  ⟨0x08D, .flog2, fun _ => { alu := true, lens := 5, lat := 12, dst := .v32, sa := .v32 }⟩,
  ⟨0x08E, .fsin, fun _ => { alu := true, lens := 5, lat := 16, dst := .v32, sa := .v32 }⟩,
  ⟨0x08F, .fcos, fun _ => { alu := true, lens := 5, lat := 16, dst := .v32, sa := .v32 }⟩,
  ⟨0x090, .ftanh, fun _ => { alu := true, lens := 5, lat := 16, dst := .v32, sa := .v32 }⟩]

/-- Group 3, FP64 and packed 16-bit (R336 to R338). -/
def rowsDp : List OpRow := [
  ⟨0x0C0, .dadd, fun f => { alu := true, lens := 7, lat := 8, dst := .v64, sa := .v64, sb := .v64, mod := 31, bad := f.rndBad false 0, bimm := .widen }⟩,
  ⟨0x0C1, .dmul, fun f => { alu := true, lens := 7, lat := 8, dst := .v64, sa := .v64, sb := .v64, mod := 15, bad := f.rndBad false 0, bimm := .widen }⟩,
  ⟨0x0C2, .dfma, fun f => { alu := true, lens := 7, lat := 8, dst := .v64, sa := .v64, sb := .v64, sc := .v64, mod := 31, bad := f.rndBad false 0, bimm := .widen }⟩,
  ⟨0x0C3, .dmin, fun _ => { alu := true, lens := 7, lat := 8, dst := .v64, sa := .v64, sb := .v64, bimm := .widen }⟩,
  ⟨0x0C4, .dmax, fun _ => { alu := true, lens := 7, lat := 8, dst := .v64, sa := .v64, sb := .v64, bimm := .widen }⟩,
  ⟨0x0C5, .dset, fun f => { alu := true, lens := 7, lat := 8, dst := .pd, sa := .v64, sb := .v64, sc := .ps, mod := 15, bad := f.md 0 3 == 7, bimm := .widen }⟩,
  ⟨0x0C6, .ddiv, fun f => { alu := true, lens := 7, lat := 0, dst := .v64, sa := .v64, sb := .v64, mod := 15, bad := f.rndBad false 0, bimm := .widen, var := true }⟩,
  ⟨0x0C7, .dsqrt, fun f => { alu := true, lens := 5, lat := 0, dst := .v64, sa := .v64, mod := 7, bad := f.rndBad false 0, var := true }⟩,
  ⟨0x0D0, .pkadd, fun f => { alu := true, lens := 7, lat := 5, dst := .v32, sa := .v32, sb := .v32, mod := 63, bad := f.rndBad false 1 }⟩,
  ⟨0x0D1, .pkmul, fun f => { alu := true, lens := 7, lat := 5, dst := .v32, sa := .v32, sb := .v32, mod := 63, bad := f.rndBad false 1 }⟩,
  ⟨0x0D2, .pkfma, fun f => { alu := true, lens := 7, lat := 5, dst := .v32, sa := .v32, sb := .v32, sc := .v32, mod := 63, bad := f.rndBad false 1 }⟩,
  ⟨0x0D3, .pkmin, fun _ => { alu := true, lens := 7, lat := 5, dst := .v32, sa := .v32, sb := .v32, mod := 1 }⟩,
  ⟨0x0D4, .pkmax, fun _ => { alu := true, lens := 7, lat := 5, dst := .v32, sa := .v32, sb := .v32, mod := 1 }⟩,
  ⟨0x0D5, .fdot2, fun _ => { alu := true, lens := 7, lat := 5, dst := .v32, sa := .v32, sb := .v32, sc := .v32, mod := 1 }⟩]

/-- Group 4, conversions (R339 to R343). -/
def rowsConv : List OpRow := [
  ⟨0x100, .cvt, fun f => f.cvtShape⟩,
  ⟨0x101, .mxq, fun f => { alu := true, lens := 7, lat := 10, dst := .v32, sa := .v32, sb := .v32, mod := 63, bad := f.rndBad true 0 || f.md 3 2 == 3 || (f.m 5 && f.md 0 3 != 0) }⟩,
  ⟨0x102, .mxdq, fun f => { alu := true, lens := 7, lat := 10, dst := .v32, sa := .v32, sb := .v32, mod := 31, bad := f.md 3 2 == 3 || (f.md 3 2 != 0 && decide (f.md 0 3 ≥ 4)) }⟩]

/-- Group 5, moves and predicates (R346). -/
def rowsMove : List OpRow := [
  ⟨0x140, .mov, fun f => { alu := true, lens := 5, lat := 4, dst := f.vs, sa := f.vs, mod := 3, bad := f.md 0 2 == 3 }⟩,
  ⟨0x141, .movi, fun f => { alu := true, lens := 6, lat := 4, dst := f.vw 0, sa := .no, sb := if f.immB then f.vw 0 else .no, mod := 1, bad := f.len == .l && !f.immB }⟩,
  ⟨0x142, .sel, fun f => { alu := true, lens := 7, lat := 4, dst := f.vw 0, sa := f.vw 0, sb := f.vw 0, sc := .ps, mod := 1 }⟩,
  ⟨0x143, .s2v, fun f => { alu := true, lens := 5, lat := (if f.sa.toNat < 0x10 then 6 else 0), dst := (if f.sa.toNat = 0x10 ∨ f.sa.toNat = 0x11 then .v64 else .v32), sa := .lit, bad := decide (f.sa.toNat = 0x0F ∨ f.sa.toNat ≥ 0x12), var := decide (f.sa.toNat ≥ 0x10) }⟩,
  ⟨0x144, .pset, fun _ => { alu := true, lens := 1, lat := 4, dst := .pd, sa := .no, mod := 1 }⟩,
  ⟨0x145, .plop, fun _ => { alu := true, lens := 1, lat := 4, dst := .pd, sa := .ps, sb := .ps, sc := .ps, mod := 63 }⟩,
  ⟨0x146, .p2v, fun _ => { alu := true, lens := 5, lat := 4, dst := .v32, sa := .no }⟩,
  ⟨0x147, .v2p, fun _ => { alu := true, lens := 7, lat := 4, dst := .no, sa := .v32, sb := .v32 }⟩,
  ⟨0x148, .vxld, fun _ => { alu := true, lens := 7, lat := 8, dst := .xr, sa := .v32, sb := .v32 }⟩,
  ⟨0x149, .vxst, fun _ => { alu := true, lens := 5, lat := 8, dst := .v32, sa := .xr }⟩]

/-- Group 6, control flow and barriers (R351). -/
def rowsFlow : List OpRow := [
  ⟨0x180, .bra, fun _ => { lens := 2, sa := .ps, imm := 0xFFFFFFFC, cons := [1] }⟩,
  ⟨0x181, .brx, fun _ => { lens := 2, sa := .v64, imm := 0xFFFF, cons := [1] }⟩,
  ⟨0x182, .call, fun f => { lens := 2, bad := f.gp != 7 || f.gn, imm := 0xFFFFFFFC }⟩,
  ⟨0x183, .callx, fun _ => { lens := 2, sa := .v64, imm := 0xFFFF, cons := [1] }⟩,
  ⟨0x184, .ret, fun _ => { lens := 1 }⟩,
  ⟨0x185, .lpad, fun f => { lens := 1, sa := .lit, sb := .lit, mod := 39, bad := decide (f.md 0 3 ≥ 5) || (f.m 5 && f.md 0 3 != 2) }⟩,
  ⟨0x186, .jmark, fun _ => { lens := 2, mod := 15, imm := 0xFFFFFFFC }⟩,
  ⟨0x187, .jwait, fun _ => { lens := 1, mod := 15 }⟩,
  ⟨0x188, .fork, fun _ => { lens := 4, dst := .v32, lat := 6, imm := 0xFFFFFFFC, ext := 0xFFFF }⟩,
  ⟨0x189, .endf, fun _ => { lens := 1 }⟩,
  ⟨0x18A, .yieldc, fun _ => { lens := 1 }⟩,
  ⟨0x18B, .sleep, fun f => { lens := 3, sa := (if f.len = .s then .v32 else .no), imm := f.mImm }⟩,
  ⟨0x18C, .csync, fun _ => { lens := 1, mod := 15 }⟩,
  ⟨0x18D, .join, fun f => { lens := 1, mod := 15, bad := f.md 0 4 == 0 }⟩,
  ⟨0x18E, .leave, fun f => { lens := 1, mod := 15, bad := f.md 0 4 == 0 }⟩,
  ⟨0x190, .barArrive, fun f => { lens := 3, mod := 15, bad := f.len == .m && !(decide (1 ≤ f.imm.toNat ∧ f.imm.toNat ≤ 1024)), imm := f.mImm }⟩,
  ⟨0x191, .barWait, fun _ => { lens := 1, mod := 15 }⟩,
  ⟨0x192, .barSync, fun _ => { lens := 1, mod := 15 }⟩,
  ⟨0x193, .gbarArrive, fun f => { lens := 3, dst := .v32, sa := .lit, lat := 8, bad := f.len == .m && !(decide (1 ≤ f.imm.toNat ∧ f.imm.toNat ≤ 1024)), imm := f.mImm }⟩,
  ⟨0x194, .gbarWait, fun _ => { lens := 1, sa := .v32, sb := .lit }⟩]

/-- Group 7, cross-lane (R364). -/
def rowsCross : List OpRow := [
  ⟨0x1C0, .shfl, fun f => { alu := true, lens := 7, lat := 8, dst := f.vw 5, sa := f.vw 5, sb := .v32, sc := .pd, mod := 63, bad := f.md 2 3 == 7, noCore := true, xlane := true }⟩,
  ⟨0x1C1, .shflx, fun f => { alu := true, lens := 7, lat := 10, saN := f.md 0 3 + 1, dst := .v32, sa := .v32, sb := .v32, sc := .pd, mod := 7, bad := f.ixA || decide (f.sa.toNat + f.md 0 3 > 254), noCore := true, xlane := true }⟩,
  ⟨0x1C2, .ballot, fun f => { alu := true, lens := 5, lat := 8, dst := f.vw 0, sa := .ps, mod := 1, noCore := true, xlane := true }⟩,
  ⟨0x1C3, .vote, fun _ => { alu := true, lens := 5, lat := 8, dst := .pd, sa := .ps, mod := 3, noCore := true }⟩,
  ⟨0x1C4, .redx, fun f => { alu := true, lens := 5, lat := 14, dst := f.vo, sa := f.vo, mod := 15, bad := decide (f.md 0 4 ≥ 13), noCore := true }⟩,
  ⟨0x1C5, .scanx, fun f => { alu := true, lens := 5, lat := 14, dst := f.vo, sa := f.vo, mod := 31, bad := decide (f.md 0 4 ≥ 13), noCore := true, xlane := true }⟩,
  ⟨0x1C6, .cdet, fun f => { alu := true, lens := 5, lat := 14, dst := f.vw 1, sa := f.vw 0, mod := 3, noCore := true, xlane := true }⟩,
  ⟨0x1C7, .segred, fun f => { alu := true, lens := 7, lat := 14, dst := f.vo, sa := f.vw 4, sb := f.vo, sc := .pd, mod := 31, bad := decide (f.md 0 4 ≥ 13), noCore := true, xlane := true, bimm := (if f.md 0 4 = 12 then .widen else .plain) }⟩,
  ⟨0x1C8, .matchx, fun f => { alu := true, lens := 5, lat := 14, dst := f.vw 1, sa := f.vw 0, mod := 3, noCore := true, xlane := true }⟩,
  ⟨0x1C9, .elect, fun _ => { alu := true, lens := 5, lat := 8, dst := .v32, sa := .no, sc := .pd, noCore := true }⟩]

/-- Groups 8 and 9, memory (R374, R377 to R379, R386, R389). -/
def rowsMem : List OpRow := [
  ⟨0x200, .ld, fun f => { lens := 3, dst := f.vsz, sa := f.va, mod := 63, bad := f.md 0 3 == 7 || f.spBad [0, 1, 2, 3, 4], imm := f.mImm, var := true }⟩,
  ⟨0x201, .st, fun f => { lens := 3, sa := f.va, sb := f.vsz, mod := 63, bad := !([0, 2, 4, 5, 6].contains (f.md 0 3)) || f.spBad [0, 1, 2, 3], imm := f.mImm, cons := [1, 2] }⟩,
  ⟨0x202, .ldl, fun f => { lens := 3, dst := .v32, dstN := f.md 0 3 + 1, sa := f.va, mod := 63, bad := f.spBad [0, 1, 2, 4] || decide (f.dst.toNat + f.md 0 3 > (if f.dst.toNat = 255 then 255 else 254)), imm := f.mImm, var := true }⟩,
  ⟨0x203, .pref, fun f => { lens := 3, sa := f.va, mod := 57, bad := f.spBad [0, 1, 4], imm := f.mImm }⟩,
  ⟨0x240, .atom, fun f => { lens := 3, dst := f.vop, sa := f.va, sb := f.vop, sc := .lit, mod := 57, bad := decide (f.sc.toNat > 0x14) || f.spBad [0, 1, 2, 3], imm := f.mImm, var := true, cons := [1, 2] }⟩,
  ⟨0x241, .atomc, fun f => { lens := 3, dst := f.vw 1, sa := f.va, sb := f.vw 1, sc := f.vw 1, mod := 59, bad := f.spBad [0, 1, 2, 3], imm := f.mImm, var := true, cons := [1, 2, 3] }⟩,
  ⟨0x242, .red, fun f => { lens := 3, sa := f.va, sb := f.vop, sc := .lit, mod := 56, bad := decide (f.sc.toNat > 0x12) || f.spBad [0, 1, 2, 3], imm := f.mImm, cons := [1, 2] }⟩,
  ⟨0x243, .phaseRel, fun f => { lens := 1, mod := (if f.m 0 then 59 else 1), sa := f.pv, sb := f.pv, bad := f.m 0 && f.spBad [0, 1], cons := [1, 2] }⟩,
  ⟨0x244, .phaseAcq, fun f => { lens := 1, mod := (if f.m 0 then 57 else 1), dst := f.pv, sa := f.pv, bad := f.m 0 && f.spBad [0, 1], var := f.m 0, cons := [1] }⟩,
  ⟨0x245, .phaseFull, fun f => { lens := 1, mod := (if f.m 0 then 59 else 1), dst := f.pv, sa := f.pv, sb := f.pv, bad := f.m 0 && f.spBad [0, 1], var := f.m 0, cons := [1, 2] }⟩,
  ⟨0x246, .privalias, fun _ => { lens := 1, dst := .v64, sa := .v32, lat := 6 }⟩]

/-- Group A, caddy (R390). -/
def rowsCaddy : List OpRow := [
  ⟨0x280, .hclaim, fun _ => { lens := 1, dst := .v32, sa := .v32, sb := .v64, sc := .v32, var := true, noCore := true }⟩,
  ⟨0x281, .hfree, fun _ => { lens := 1, noCore := true }⟩,
  ⟨0x282, .hclr, fun _ => { lens := 1, noCore := true }⟩,
  ⟨0x283, .hins, fun _ => { lens := 4, dst := .vv, sa := .vk, sb := .vv, var := true, noCore := true, e0 := .v32, ext := 0xFF, cons := [1, 2] }⟩,
  ⟨0x284, .hprb, fun _ => { lens := 4, dst := .vv, sa := .vk, var := true, noCore := true, e0 := .v32, ext := 0xFF, cons := [1] }⟩,
  ⟨0x285, .hdel, fun _ => { lens := 4, dst := .vv, sa := .vk, var := true, noCore := true, e0 := .v32, ext := 0xFF, cons := [1] }⟩,
  ⟨0x286, .hacc, fun _ => { lens := 4, dst := .vv, sa := .vk, sb := .vv, var := true, noCore := true, e0 := .v32, ext := 0xFF, cons := [1, 2] }⟩,
  ⟨0x287, .hdrn, fun _ => { lens := 4, dst := .vk, sa := .v64, var := true, noCore := true, e0 := .v32, e1 := .vv, ext := 0xFFFF, saw := true }⟩,
  ⟨0x288, .hstat, fun _ => { lens := 4, dst := .v128, var := true, noCore := true, e0 := .v32, ext := 0xFF }⟩]

/-- Group B, matrix (R401). -/
def rowsMat : List OpRow := [
  ⟨0x2C0, .mma, fun f => { lens := 4, dst := .v64, sa := .v32, sb := .v32, sc := (if f.m 3 && f.m 4 then .no else .v128), lat := 10, mod := 31, bad := f.md 0 3 == 7 || (f.md 0 3 == 5 && f.m 3), ext := 7, noCore := true }⟩,
  ⟨0x2C1, .accz, fun _ => { lens := 1, dst := .v64, lat := 10, mod := 3, noCore := true }⟩,
  ⟨0x2C2, .accld, fun f => { lens := 4, dst := .v64, sa := .v32, sc := (if f.m 3 then .no else .v64), lat := 10, mod := 15, bad := f.md 0 3 == 7, ext := 3, noCore := true }⟩,
  ⟨0x2C3, .accst, fun f => { lens := 4, dst := .v64, sa := .v32, sc := (if f.m 3 then .no else .v64), lat := 10, mod := 31, bad := f.md 0 3 == 7 || (f.m 4 && [0, 5, 6].contains (f.md 0 3)), ext := 3, noCore := true }⟩]

/-- Groups C and D, engines, timelines, tasks and deadlines (R409, R412, R416). -/
def rowsEngine : List OpRow := [
  ⟨0x300, .tcopy, fun f => { lens := 4, dst := .v64, sa := .v32, sb := .v32, sc := (if f.m 1 then .no else .blk), lat := 10, mod := 3, bad := f.m 0 && f.m 1, imm := 0xFFFF, ext := (if f.m 0 then 0 else 0xFF) }⟩,
  ⟨0x301, .tfill, fun f => { lens := 4, dst := .v64, sa := .v32, sb := .v64, sc := (if f.m 0 then .no else .blk), lat := 10, mod := 1, imm := 0xFFFF, ext := (if f.m 0 then 0xFFFF else 0) }⟩,
  ⟨0x302, .tlsig, fun f => { lens := 3, sa := .v32, sb := (if f.len = .s then .v64 else .no), mod := 1, imm := f.mImm, cons := [1, 2] }⟩,
  ⟨0x303, .tlwait, fun f => { lens := 3, dst := .v64, sa := .v32, sb := (if f.len = .s then .v64 else .no), lat := 6, imm := f.mImm }⟩,
  ⟨0x304, .tlqry, fun _ => { lens := 1, dst := .v128, sa := .v32, var := true }⟩,
  ⟨0x340, .tspawn, fun _ => { lens := 1, dst := .v32, sa := .v64, lat := 20, cons := [1] }⟩,
  ⟨0x341, .dlstep, fun _ => { lens := 4, dst := .v32, sa := .v32, sb := .v64, sc := .v64, lat := 20, imm := 0xFFFF, ext := 0xFFFFFFFF, cons := [1, 2, 3] }⟩,
  ⟨0x342, .dlend, fun _ => { lens := 1, dst := .v32, sa := .v32, lat := 20, cons := [1] }⟩,
  ⟨0x343, .dlqry, fun _ => { lens := 1, dst := .v128, sa := .v32, lat := 20 }⟩]

/-- Group E, system (R420 to R426). -/
def rowsSystem : List OpRow := [
  ⟨0x380, .nop, fun _ => { lens := 7 }⟩,
  ⟨0x381, .srd, fun f => { lens := 1, dst := f.sysKind f.sa.toNat, sa := .lit, lat := 6, bad := !sysReg f.sa.toNat, onlyCore := f.sa.toNat == 0x80 }⟩,
  ⟨0x382, .swr, fun f => { lens := 1, sa := .lit, sb := f.sysKind f.sa.toNat, bad := !sysWritable f.sa.toNat, onlyCore := f.sa.toNat == 0x80, cons := [2] }⟩,
  ⟨0x383, .trap, fun _ => { lens := 1 }⟩,
  ⟨0x384, .tret, fun _ => { lens := 1, mod := 1 }⟩,
  ⟨0x385, .tabort, fun _ => { lens := 1 }⟩,
  ⟨0x386, .pclr, fun f => { lens := 1, dst := (if f.m 0 then .pd else f.vw 1), lat := 4, mod := 3, bad := f.m 0 && f.m 1 }⟩,
  ⟨0x387, .icinv, fun _ => { lens := 1, sa := .v64, sb := .v32, cons := [1, 2] }⟩,
  ⟨0x388, .fencei, fun _ => { lens := 1 }⟩,
  ⟨0x389, .bkpt, fun _ => { lens := 1 }⟩,
  ⟨0x38A, .wfi, fun _ => { lens := 1, onlyCore := true }⟩,
  ⟨0x38B, .perfrd, fun f => { lens := 1, dst := .v64, sa := .lit, lat := 6, bad := !([0, 1, 2, 3, 4, 5, 8, 9, 10, 11, 12, 13, 14, 16].contains f.sa.toNat) }⟩]

/-- Every assigned opcode. -/
def opRows : List OpRow :=
  rowsInt ++ rowsLogic ++ rowsFp ++ rowsDp ++ rowsConv ++ rowsMove ++ rowsFlow ++
  rowsCross ++ rowsMem ++ rowsCaddy ++ rowsMat ++ rowsEngine ++ rowsSystem

/-- The row of an opcode, none when it is reserved. -/
def opRow (opc : Nat) : Option OpRow := opRows.find? fun r => r.opc == opc

/-- The entry of an assigned opcode. -/
def shapeOf (opc : Nat) (f : Fields) : Shape := match opRow opc with | some r => r.shape f | none => {}

/-- The opcode and fields of an instruction that has them. -/
def Instr.parts : Instr → Option (Nat × Fields)
  | .iadd f => some (0x001, f)
  | .isub f => some (0x002, f)
  | .imul f => some (0x003, f)
  | .imulh f => some (0x004, f)
  | .imad f => some (0x005, f)
  | .imadw f => some (0x006, f)
  | .idiv f => some (0x007, f)
  | .irem f => some (0x008, f)
  | .imin f => some (0x009, f)
  | .imax f => some (0x00A, f)
  | .iabs f => some (0x00B, f)
  | .ineg f => some (0x00C, f)
  | .iaddc f => some (0x00D, f)
  | .isubb f => some (0x00E, f)
  | .iset f => some (0x00F, f)
  | .lea f => some (0x010, f)
  | .idp4 f => some (0x011, f)
  | .bop f => some (0x040, f)
  | .shl f => some (0x041, f)
  | .shr f => some (0x042, f)
  | .shra f => some (0x043, f)
  | .rot f => some (0x044, f)
  | .xtr f => some (0x045, f)
  | .ins f => some (0x046, f)
  | .ones f => some (0x047, f)
  | .clz f => some (0x048, f)
  | .ctz f => some (0x049, f)
  | .flip f => some (0x04A, f)
  | .bsel f => some (0x04B, f)
  | .fadd f => some (0x080, f)
  | .fmul f => some (0x081, f)
  | .ffma f => some (0x082, f)
  | .fmin f => some (0x083, f)
  | .fmax f => some (0x084, f)
  | .fset f => some (0x085, f)
  | .fclass f => some (0x086, f)
  | .frnd f => some (0x087, f)
  | .frcp f => some (0x088, f)
  | .frsq f => some (0x089, f)
  | .fsqrt f => some (0x08A, f)
  | .fdiv f => some (0x08B, f)
  | .fexp2 f => some (0x08C, f)
  | .flog2 f => some (0x08D, f)
  | .fsin f => some (0x08E, f)
  | .fcos f => some (0x08F, f)
  | .ftanh f => some (0x090, f)
  | .dadd f => some (0x0C0, f)
  | .dmul f => some (0x0C1, f)
  | .dfma f => some (0x0C2, f)
  | .dmin f => some (0x0C3, f)
  | .dmax f => some (0x0C4, f)
  | .dset f => some (0x0C5, f)
  | .ddiv f => some (0x0C6, f)
  | .dsqrt f => some (0x0C7, f)
  | .pkadd f => some (0x0D0, f)
  | .pkmul f => some (0x0D1, f)
  | .pkfma f => some (0x0D2, f)
  | .pkmin f => some (0x0D3, f)
  | .pkmax f => some (0x0D4, f)
  | .fdot2 f => some (0x0D5, f)
  | .cvt f => some (0x100, f)
  | .mxq f => some (0x101, f)
  | .mxdq f => some (0x102, f)
  | .mov f => some (0x140, f)
  | .movi f => some (0x141, f)
  | .sel f => some (0x142, f)
  | .s2v f => some (0x143, f)
  | .pset f => some (0x144, f)
  | .plop f => some (0x145, f)
  | .p2v f => some (0x146, f)
  | .v2p f => some (0x147, f)
  | .vxld f => some (0x148, f)
  | .vxst f => some (0x149, f)
  | .bra f => some (0x180, f)
  | .brx f => some (0x181, f)
  | .call f => some (0x182, f)
  | .callx f => some (0x183, f)
  | .ret f => some (0x184, f)
  | .lpad f => some (0x185, f)
  | .jmark f => some (0x186, f)
  | .jwait f => some (0x187, f)
  | .fork f => some (0x188, f)
  | .endf f => some (0x189, f)
  | .yieldc f => some (0x18A, f)
  | .sleep f => some (0x18B, f)
  | .csync f => some (0x18C, f)
  | .join f => some (0x18D, f)
  | .leave f => some (0x18E, f)
  | .barArrive f => some (0x190, f)
  | .barWait f => some (0x191, f)
  | .barSync f => some (0x192, f)
  | .gbarArrive f => some (0x193, f)
  | .gbarWait f => some (0x194, f)
  | .shfl f => some (0x1C0, f)
  | .shflx f => some (0x1C1, f)
  | .ballot f => some (0x1C2, f)
  | .vote f => some (0x1C3, f)
  | .redx f => some (0x1C4, f)
  | .scanx f => some (0x1C5, f)
  | .cdet f => some (0x1C6, f)
  | .segred f => some (0x1C7, f)
  | .matchx f => some (0x1C8, f)
  | .elect f => some (0x1C9, f)
  | .ld f => some (0x200, f)
  | .st f => some (0x201, f)
  | .ldl f => some (0x202, f)
  | .pref f => some (0x203, f)
  | .atom f => some (0x240, f)
  | .atomc f => some (0x241, f)
  | .red f => some (0x242, f)
  | .phaseRel f => some (0x243, f)
  | .phaseAcq f => some (0x244, f)
  | .phaseFull f => some (0x245, f)
  | .privalias f => some (0x246, f)
  | .hclaim f => some (0x280, f)
  | .hfree f => some (0x281, f)
  | .hclr f => some (0x282, f)
  | .hins f => some (0x283, f)
  | .hprb f => some (0x284, f)
  | .hdel f => some (0x285, f)
  | .hacc f => some (0x286, f)
  | .hdrn f => some (0x287, f)
  | .hstat f => some (0x288, f)
  | .mma f => some (0x2C0, f)
  | .accz f => some (0x2C1, f)
  | .accld f => some (0x2C2, f)
  | .accst f => some (0x2C3, f)
  | .tcopy f => some (0x300, f)
  | .tfill f => some (0x301, f)
  | .tlsig f => some (0x302, f)
  | .tlwait f => some (0x303, f)
  | .tlqry f => some (0x304, f)
  | .tspawn f => some (0x340, f)
  | .dlstep f => some (0x341, f)
  | .dlend f => some (0x342, f)
  | .dlqry f => some (0x343, f)
  | .nop f => some (0x380, f)
  | .srd f => some (0x381, f)
  | .swr f => some (0x382, f)
  | .trap f => some (0x383, f)
  | .tret f => some (0x384, f)
  | .tabort f => some (0x385, f)
  | .pclr f => some (0x386, f)
  | .icinv f => some (0x387, f)
  | .fencei f => some (0x388, f)
  | .bkpt f => some (0x389, f)
  | .wfi f => some (0x38A, f)
  | .perfrd f => some (0x38B, f)
  | _ => none

/-! ### Decode checks (R283 to R287) -/

/-- Whether a field is one of the vector kinds, which alone may be indexed (R286). -/
def Kind.isVec : Kind → Bool
  | .v32 => true
  | .v64 => true
  | .v128 => true
  | _ => false

/-- Bits of a field that must be zero for its kind (R283, R285). -/
def Kind.zeroOk (k : Kind) (n : Nat) : Bool :=
  match k with
  | .no => n == 0
  | .ps => decide (n < 16)
  | .pd => decide (n < 8)
  | .xr => decide (n < 4)
  | _ => true

/-- A register number its kind does not name (R285). -/
def Kind.numOk (k : Kind) (n : Nat) : Bool :=
  match k with
  | .v64 => n == 255 || (n % 2 == 0 && n != 254)
  | .v128 => n == 255 || (n % 4 == 0 && decide (n ≤ 248))
  | _ => true

/-- The lengths bit of LEN. -/
def Len.bit : Len → Nat
  | .s => 0
  | .m => 1
  | .l => 2

/-- A value has no bit outside a mask. -/
def within (x mask : Nat) : Bool := x &&& mask == x

/-- R283 and R285: every bit that must be zero is (else SUB 1). -/
def zerosOk (sh : Shape) (f : Fields) : Bool :=
  within f.mod.toNat sh.mod && sh.dst.zeroOk f.dst.toNat && sh.sa.zeroOk f.sa.toNat
    && (if sh.alu && f.immB then f.sb == 0 else sh.sb.zeroOk f.sb.toNat) && sh.sc.zeroOk f.sc.toNat
    && (if sh.alu then
          (match f.len with
            | .s => f.imm == 0 && f.ext == 0
            | .m => f.ext == 0
            | .l => within f.ext.toNat 0xF8000000 && (f.immB || f.imm == 0))
        else within f.imm.toNat sh.imm && within f.ext.toNat sh.ext
          && (match f.len with | .s => f.imm == 0 && f.ext == 0 | .m => f.ext == 0 | .l => true))

/-- R284 to R286 and the entries: no operand or modifier combination is illegal (else SUB 3). -/
def combosOk (sh : Shape) (f : Fields) : Bool :=
  let ix := sh.alu && f.len == .l
  let one (k : Kind) (x : Bool) (n : Nat) : Bool := if ix && x then k.isVec else k.numOk n
  !sh.bad && one sh.dst f.ixD f.dst.toNat && one sh.sa f.ixA f.sa.toNat && one sh.sc f.ixC f.sc.toNat
    && (if sh.alu && f.immB then !(ix && f.ixB) && sh.sb != .no else one sh.sb f.ixB f.sb.toNat)

/-- The SUB of the ILLEGAL trap that the entry's checks raise, in the order of R287. -/
def Fields.illegal (f : Fields) (opc : Nat) : Option Nat :=
  let sh := shapeOf opc f
  if !sh.lens.testBit f.len.bit then some 3
  else if !zerosOk sh f then some 1
  else if !combosOk sh f then some 3
  else none

/-- The same for a word, of which bit 25 must be zero as well (R281, R283). -/
def Fields.wordIllegal (f : Fields) (opc : Nat) (rsv : Bool) : Option Nat :=
  if !(shapeOf opc f).lens.testBit f.len.bit then some 3
  else if rsv then some 1
  else f.illegal opc

/-! ### Words -/

/-- The instruction word of fields (R279, R281). -/
def Fields.code (f : Fields) (opc : Nat) : Code :=
  BitVec.ofNat 128 (f.len.bit + opc * 2 ^ 2 + f.gp.toNat * 2 ^ 12 + f.gn.toNat * 2 ^ 15 + f.stall.toNat * 2 ^ 16
    + f.hold.toNat * 2 ^ 20 + f.fe.toNat * 2 ^ 22 + f.dst.toNat * 2 ^ 26 + f.sa.toNat * 2 ^ 34 + f.sb.toNat * 2 ^ 42
    + f.sc.toNat * 2 ^ 50 + f.mod.toNat * 2 ^ 58 + f.imm.toNat * 2 ^ 64 + f.ext.toNat * 2 ^ 96)

/-- The fields of a word (R281); trailing words only where the length has them. -/
def fieldsOf (w : Nat) (len : Len) : Fields where
  len := len
  gp := BitVec.ofNat 3 (bitsOf w 12 3)
  gn := w.testBit 15
  stall := BitVec.ofNat 4 (bitsOf w 16 4)
  hold := BitVec.ofNat 2 (bitsOf w 20 2)
  fe := BitVec.ofNat 3 (bitsOf w 22 3)
  dst := BitVec.ofNat 8 (bitsOf w 26 8)
  sa := BitVec.ofNat 8 (bitsOf w 34 8)
  sb := BitVec.ofNat 8 (bitsOf w 42 8)
  sc := BitVec.ofNat 8 (bitsOf w 50 8)
  mod := BitVec.ofNat 6 (bitsOf w 58 6)
  imm := match len with | .s => 0 | _ => BitVec.ofNat 32 (bitsOf w 64 32)
  ext := match len with | .l => BitVec.ofNat 32 (bitsOf w 96 32) | _ => 0

/-- Why a word is refused (R287). -/
inductive DecodeErr where
  | lengthCode                   -- LEN = 11: ILLEGAL SUB 2
  | reserved                     -- a reserved opcode: ILLEGAL SUB 0
  | illegal (sub : Nat)          -- ILLEGAL SUB 1 or 3
  | short                        -- fewer bytes than the length
deriving DecidableEq, Repr

/-- SUB of the trap of a refused word. -/
def DecodeErr.sub : DecodeErr → Nat
  | .lengthCode => 2
  | .reserved => 0
  | .illegal n => n
  | .short => 2

/-- LEN of a word. -/
def lenOf (w : Nat) : Option Len :=
  match bitsOf w 0 2 with
  | 0 => some .s
  | 1 => some .m
  | 2 => some .l
  | _ => none

/-- The instruction of a word, its bits beyond its length ignored (R287). Group F is an instruction, unchecked (R289). -/
def decodeCode (w : Nat) : Except DecodeErr Instr :=
  match lenOf w with
  | none => .error .lengthCode
  | some len =>
    let opc := bitsOf w 2 10
    if opc ≥ 0x3C0 then
      .ok (.extensionOpcode len (BitVec.ofNat 6 (opc % 64)) (BitVec.ofNat 116 (w % 2 ^ (8 * len.bytes) / 2 ^ 12)))
    else
      match opRow opc with
      | none => .error .reserved
      | some r =>
        let f := fieldsOf w len
        match f.wordIllegal opc (w.testBit 25) with
        | some n => .error (.illegal n)
        | none => .ok (r.con f)

/-- Little-endian value of bytes (R4). -/
def bytesVal : List Byte → Nat
  | [] => 0
  | b :: bs => b.toNat + 256 * bytesVal bs

/-- The instruction at the head of a byte list, and the bytes that follow it. -/
def decodeBytes (bs : List Byte) : Except DecodeErr (Instr × List Byte) :=
  match lenOf (bytesVal (bs.take 8)) with
  | none => .error .lengthCode
  | some len =>
    if bs.length < len.bytes then .error .short
    else match decodeCode (bytesVal (bs.take len.bytes)) with
      | .ok i => .ok (i, bs.drop len.bytes)
      | .error e => .error e

/-- The word of an instruction that has one: the encoder. -/
def encode : Instr → Option Code
  | .extensionOpcode len slot rest => some (BitVec.ofNat 128 (len.bit + (0x3C0 + slot.toNat) * 2 ^ 2 + rest.toNat * 2 ^ 12))
  | i => i.parts.map fun p => p.2.code p.1

/-- The bytes of a number, lowest first. -/
def bytesOf : Nat → Nat → List Byte
  | 0, _ => []
  | n + 1, v => BitVec.ofNat 8 v :: bytesOf n (v / 256)

/-- The bytes of an instruction as they stand at its PC (R279). -/
def encodeBytes (i : Instr) : Option (List Byte) :=
  match encode i with
  | some c => (match lenOf c.toNat with
    | some len => some (bytesOf len.bytes c.toNat)
    | none => none)
  | none => none

/-- The instruction the decoder reads from an instruction whose bits are `w`, bit 0 the least significant of the base
word, every bit at or above `nbits` zero. -/
def decodeTableWord (nbits w : Nat) : Option Instr :=
  match decodeBytes (bytesOf 16 (w % 2 ^ nbits)) with
  | .ok (i, _) => some i
  | .error _ => none

end Sys2Proof
end

