-- ==== Sys2Proof/Machine/Regs.lean ====
section
/-!
DEFINITION. Machine/Regs.lean: the device register space (R5, R6, R11, R20): which registers there are, their access
and reset columns, and the plain read and write of one. What a write starts is in Machine/RegWrite.lean.
-/
namespace Sys2Proof.Machine

/-- A register's row: width in bytes, reset value, RW bits and W1C bits (R5). Every other bit is RO or RSV. -/
structure RegDef where
  width : Nat
  reset : Nat
  rw    : Nat
  w1c   : Nat
deriving DecidableEq, Repr

/-- Bits [hi : lo] as a mask. -/
def mask (hi lo : Nat) : Nat := (2 ^ (hi + 1 - lo) - 1) * 2 ^ lo

/-- Offset of die d's register block (R11). -/
def dieOff (d : Nat) : Nat := d * 0x4000000
/-- Offset of a cluster's register block (R103); the management core's slice has none. -/
def clOff (cl : Nat) : Nat := dieOff (cl / 40) + 0x200000 + cl % 40 * 0x1000
/-- Offset of PEER_RT p of die d (R24). -/
def peerRtOff (d p : Nat) : Nat := dieOff d + 0x500000 + 8 * p
/-- Offset of timeline counter k of die d (R407). -/
def tlOff (d k : Nat) : Nat := dieOff d + 0x400000 + 32 * k

/-- A cluster's registers (R103, R148, R194, R218, R297, R424) by offset in its block. -/
def clusterReg (cl r : Nat) : Option RegDef :=
  if r = 0x000 then some ⟨4, 40 * 2 ^ 16 + 64, 0, 0⟩
  else if r = 0x008 then some ⟨4, 0x888888, 0, 0⟩
  else if r = 0x010 then some ⟨8, (Config.diode cl).toNat * 2 ^ 60, 0, 0⟩
  else if r = 0x018 then some ⟨4, 32 * 2 ^ 16 + 32 * 2 ^ 8 + 32, mask 5 0, 0⟩
  else if r = 0x020 then some ⟨4, 0, mask 3 0, 0⟩
  else if r = 0x028 then some ⟨8, if cl % 2 = 0 then 4096 * 2 ^ 40 + 2048 * 2 ^ 16 + 4096 else 0, 0, 0⟩
  else if 0x100 ≤ r ∧ r ≤ 0x118 ∧ r % 4 = 0 then some ⟨4, 0, mask 31 0, 0⟩
  else if 0x140 ≤ r ∧ r ≤ 0x154 ∧ r % 4 = 0 then some ⟨4, 0, mask 31 0, 0⟩
  else if r = 0x160 then some ⟨4, 0, mask 31 0, 0⟩
  else if r = 0x180 then some ⟨4, 0, mask 1 0, 0⟩
  else if r = 0x188 then some ⟨8, 0, mask 0 0 + mask 2 2, mask 1 1⟩
  else if 0x800 ≤ r ∧ r < 0x1000 ∧ r % 32 = 0 then some ⟨8, 0, 0, mask 63 63⟩
  else if 0x800 ≤ r ∧ r < 0x1000 ∧ r % 8 = 0 then some ⟨8, 0, 0, 0⟩
  else none

/-- The registers of every die's block by offset in the block. -/
def anyDieReg (r : Nat) : Option RegDef :=
  if r = 0x0010 then some ⟨4, 0, 0, 0⟩
  else if 0x300 ≤ r ∧ r < 0x340 ∧ r % 4 = 0 then some ⟨4, 0, 0, 0⟩
  else if r = 0x340 then some ⟨4, 0x05400590, mask 31 0, 0⟩
  else if r = 0xA04 then some ⟨4, 0, mask 31 0, 0⟩
  else if r = 0x1800 then some ⟨8, 0, mask 51 21, 0⟩
  else if r = 0x1808 then some ⟨4, 0, mask 15 0, 0⟩
  else if 0x200000 ≤ r ∧ r < 0x200000 + 40 * 0x1000 then none
  else if 0x400000 ≤ r ∧ r < 0x420000 ∧ r % 32 < 24 ∧ r % 8 = 0 then
    some ⟨8, if r % 32 = 16 then 2 ^ 64 - 1 else 0, if r % 32 = 8 then 0 else mask 63 0, 0⟩
  else if 0x500000 ≤ r ∧ r < 0x504000 ∧ r % 8 = 0 then some ⟨8, 0, mask 11 0, 0⟩
  else none

/-- The registers of D0's block alone. -/
def dieZeroReg (r : Nat) : Option RegDef :=
  if r = 0x0100 ∨ r = 0x0108 then some ⟨8, 0, mask 51 12, 0⟩
  else if r = 0x0200 then some ⟨4, 0, 0, mask 6 1⟩
  else if r = 0x0208 then some ⟨4, 0, mask 6 1, 0⟩
  else if r = 0x0210 then some ⟨8, 0, mask 20 7, 0⟩
  else if r = 0x0218 then some ⟨8, 0, mask 63 0, 0⟩
  else if r = 0x0220 then some ⟨4, 0, mask 31 0, 0⟩
  else if r = 0x0228 then some ⟨4, 0, mask 0 0, 0⟩
  else if r = 0x0230 then some ⟨4, 10000, mask 15 0, 0⟩
  else if r = 0x0400 then some ⟨8, 0, mask 51 12 + mask 3 0, 0⟩
  else if r = 0x0408 then some ⟨8, 0, 0, 0⟩
  else if r = 0x0410 then some ⟨8, 0, mask 31 0, 0⟩
  else if r = 0x0418 then some ⟨4, 0, 0, 0⟩
  else if r = 0x0428 ∨ r = 0x0430 ∨ r = 0x0438 then some ⟨8, 0, mask 63 0, 0⟩
  else if r = 0x0500 then some ⟨4, 0, mask 0 0, 0⟩
  else if r = 0x0510 then some ⟨4, 0, mask 0 0, 0⟩
  else if r = 0x0600 then some ⟨8, 0, mask 31 3 + mask 0 0, 0⟩
  else if r = 0x0608 ∨ r = 0x0610 then some ⟨8, 0, 0, 0⟩
  else if 0x700 ≤ r ∧ r < 0x720 ∧ r % 8 = 0 then some ⟨8, 0, mask 63 0, 0⟩
  else if r = 0x0720 then some ⟨4, 0, mask 0 0, 0⟩
  else if r = 0x0728 then some ⟨8, 0, mask 51 15, 0⟩
  else if r = 0x0800 then some ⟨8, 0, 0, 0⟩
  else if r = 0x0808 then some ⟨8, 900 * 2 ^ 40 + 90 * 2 ^ 23 + 64 * 2 ^ 16 + 40 * 2 ^ 8 + 1,
    mask 51 40 + mask 29 23 + mask 22 16 + mask 15 8 + mask 0 0, 0⟩
  else if r = 0x0810 then some ⟨8, 0, 0, 0⟩
  else if r = 0x0818 then some ⟨8, 0, mask 57 0, 0⟩
  else if r = 0x0900 then some ⟨8, 0, mask 51 16, 0⟩
  else if r = 0x0908 then some ⟨4, 0, mask 11 0, 0⟩
  else if r = 0x0910 ∨ r = 0x0988 then some ⟨8, 0, mask 51 12 + mask 3 0, 0⟩
  else if r = 0x0918 ∨ r = 0x0990 then some ⟨4, 0, mask 31 0, 0⟩
  else if r = 0x091C ∨ r = 0x0920 ∨ r = 0x0994 ∨ r = 0x0998 then some ⟨4, 0, 0, 0⟩
  else if r = 0x0924 then some ⟨4, 0, mask 10 0, 0⟩
  else if r = 0x0928 ∨ r = 0x0940 then some ⟨8, 0, mask 57 12, 0⟩
  else if r = 0x0948 then some ⟨8, 0, mask 51 12, 0⟩
  else if r = 0x0950 then some ⟨4, 0, mask 24 14 + mask 9 0, mask 30 30⟩
  else if r = 0x0980 then some ⟨4, 0, mask 4 0, 0⟩
  else if r = 0x0A00 then some ⟨4, 0, mask 31 0, 0⟩
  else if 0xC00 ≤ r ∧ r < 0x1400 ∧ r % 8 = 0 then some ⟨8, 0, mask 57 48 + mask 15 0, 0⟩
  else if 0x1400 ≤ r ∧ r < 0x1600 ∧ r % 32 = 0 then some ⟨8, 0, mask 51 8, 0⟩
  else if 0x1400 ≤ r ∧ r < 0x1600 ∧ r % 32 = 8 then some ⟨8, 0, mask 22 0, 0⟩
  else if 0x1400 ≤ r ∧ r < 0x1600 ∧ r % 32 = 16 then
    some ⟨8, 0, mask 63 48 + mask 35 24 + mask 15 12 + mask 7 7, mask 0 0⟩
  else if 0x1400 ≤ r ∧ r < 0x1600 ∧ r % 32 = 24 then some ⟨8, 0, 0, 0⟩
  else if 0x1610 ≤ r ∧ r < 0x1800 ∧ r % 16 = 0 then some ⟨8, 0, mask 15 0, 0⟩
  else if 0x1610 ≤ r ∧ r < 0x1800 ∧ r % 16 = 8 then some ⟨8, 0, mask 20 0, 0⟩
  else if 0x100000 ≤ r ∧ r < 0x104000 ∧ r % 16 = 0 then some ⟨4, 0, mask 31 0, 0⟩
  else if 0x100000 ≤ r ∧ r < 0x104000 ∧ (r % 16 = 4 ∨ r % 16 = 8) then some ⟨4, 0, 0, 0⟩
  else if 0x300000 ≤ r ∧ r < 0x302000 ∧ r % 8 = 0 then some ⟨8, 0, 0, 0⟩
  else none

/-- The register at an offset of the register space, if any (R11, R20). -/
def regDef (off : Nat) : Option RegDef :=
  let d := off / 0x4000000
  let r := off % 0x4000000
  if d ≥ 4 then none
  else if 0x200000 ≤ r ∧ r < 0x200000 + 40 * 0x1000 then clusterReg (d * 40 + (r - 0x200000) / 0x1000) (r % 0x1000)
  else match anyDieReg r with
    | some x => some x
    | none => if d = 0 then dieZeroReg r else none

/-- Reset value of the register at an offset (R5). -/
def regReset (off : Nat) : DWord := BitVec.ofNat 64 (match regDef off with | some d => d.reset | none => 0)

/-- The stored value of a register. -/
def State.reg (s : State) (off : Nat) : DWord := Tab.get (regReset off) s.regs off

/-- The state with a register's stored value set, whatever its access. -/
def State.setReg (s : State) (off : Nat) (v : DWord) : State := { s with regs := Tab.set (regReset off) s.regs off v }

/-- The register file in canonical form: no cell equal to its register's reset value. -/
def regsWf (t : Tab DWord) : Bool := Tab.wfFrom regReset 0 t

/-- The state with a 32-bit counter register raised by n, modulo 2^32 (R148, R194). -/
def State.count (s : State) (off n : Nat) : State :=
  s.setReg off (BitVec.ofNat 64 (((s.reg off).toNat + n) % 2 ^ 32))

/-- The state with a saturating 32-bit counter raised (R41, R118, R143, R218). -/
def State.countSat (s : State) (off n : Nat) : State :=
  s.setReg off (BitVec.ofNat 64 (min ((s.reg off).toNat + n) (2 ^ 32 - 1)))

/-- A field of a register. -/
def State.regFld (s : State) (off lo w : Nat) : Nat := fld (s.reg off).toNat lo w
/-- The state with a field of a register set. -/
def State.setRegFld (s : State) (off lo w v : Nat) : State :=
  s.setReg off (BitVec.ofNat 64 (setFld (s.reg off).toNat lo w v))

/-- A field an RW write would leave with an unlisted encoding keeps its old value (R6): ERRLOG_BASE.SIZE, RPL_BASE and HS_BASE
above 8 (R53, R118), HS_CTL.S (R124), CL_RTL.CAP, CL_THROTTLE.SKIP (R103), DG_CTL PLIM, FMAXC, DEFF (R104), FRW_CTL.OP (R25),
FRW_SIZE (R25). -/
def regFix (off old new : Nat) : Nat :=
  let keep (lo w : Nat) (ok : Nat → Bool) (x : Nat) : Nat := if ok (fld x lo w) then x else setFld x lo w (fld old lo w)
  let r := off % 0x4000000
  if off = 0x400 ∨ off = 0x910 ∨ off = 0x988 then keep 0 4 (fun v => decide (v ≤ 8)) new
  else if off = 0x980 then keep 0 5 (fun v => decide (v = 0 ∨ (6 ≤ v ∧ v ≤ 20))) new
  else if off = 0x808 then
    keep 16 7 (fun v => decide (v ≤ 90)) (keep 23 7 (fun v => decide (v ≤ 90)) (keep 40 12 (fun v => decide (900 ≤ v ∧ v ≤ 2200)) new))
  else if 0x1400 ≤ off ∧ off < 0x1600 ∧ off % 32 = 16 then keep 12 4 (fun v => decide (v ≤ 7)) new
  else if 0x1400 ≤ off ∧ off < 0x1600 ∧ off % 32 = 8 then keep 0 23 (fun v => decide (v ≤ 2 ^ 22)) new
  else if 0x200000 ≤ r ∧ r < 0x200000 + 40 * 0x1000 ∧ r % 0x1000 = 0x018 then keep 0 6 (fun v => decide (1 ≤ v ∧ v ≤ 32)) new
  else if 0x200000 ≤ r ∧ r < 0x200000 + 40 * 0x1000 ∧ r % 0x1000 = 0x020 then keep 0 4 (fun v => decide (v ≤ 12)) new
  else new

/-- The bits a write under byte lanes `wm` leaves in a register of row `d` (R5, R6). -/
def regMerge (off : Nat) (d : RegDef) (old v wm : Nat) : Nat :=
  let rw := d.rw &&& wm
  let x := (old - (old &&& rw)) ||| (v &&& rw)
  let clr := v &&& d.w1c &&& wm
  regFix off old (x - (x &&& clr))

/-- The plain write of one register by its access column. -/
def State.regWritePlain (s : State) (off v wm : Nat) : State :=
  match regDef off with
  | none => s
  | some d => s.setReg off (BitVec.ofNat 64 (regMerge off d (s.reg off).toNat v wm))

end Sys2Proof.Machine
end

