-- ==== Sys2Proof/Machine/Access.lean ====
section
/-!
DEFINITION. Machine/Access.lean: the named reads and updates of clusters, teams, fibres and cohorts, and the cohort
that is issuing (R178, R179, R191).
-/
namespace Sys2Proof.Machine

/-- The cluster number that stands for the management core's slice (R46). -/
def mcCluster : Nat := 160

/-- A full, unpoisoned register. -/
def VReg.of (x : Word) : VReg := ⟨x, true, false⟩
/-- A poisoned register with its origin (R215). -/
def VReg.poisoned (o : Half) : VReg := ⟨0x7FC00000#32 ||| o.setWidth 32, true, true⟩
/-- The origin a poisoned register carries (R215). -/
def VReg.origin (r : VReg) : Half := r.val.setWidth 16

/-- A fibre that is not live, with a window of zeros. -/
def Fibre.blank (regs : Nat) (gen : Word) : Fibre where
  live := false
  pc := 0
  tm := false
  v := List.replicate regs (VReg.of 0)
  p := List.replicate 7 ⟨false, none⟩
  x := List.replicate 4 0
  rs := []
  rssp := 0
  sets := 0
  lph := List.replicate 16 0
  jmask := 0
  gen := gen
  trec := none
  wait := .none
  base := 0
  entered := 0
  rel := .plain
  phase := false
  repl := 0
  saw := 0

def State.cl (s : State) (c : Nat) : Cluster := atD s.clusters c Cluster.reset
def State.modCl (s : State) (c : Nat) (g : Cluster → Cluster) : State := { s with clusters := modAt s.clusters c g }
def State.team? (s : State) (c slot : Nat) : Option Team := (s.cl c).teams.find? fun t => t.slot == slot
def State.modTeam (s : State) (c slot : Nat) (g : Team → Team) : State :=
  s.modCl c fun k => { k with teams := k.teams.map fun t => if t.slot = slot then g t else t }
def Team.fibre (t : Team) (f : Nat) : Fibre := atD t.fibres f (Fibre.blank 0 0)
def Team.modFibre (t : Team) (f : Nat) (g : Fibre → Fibre) : Team := { t with fibres := modAt t.fibres f g }
def State.modFibre (s : State) (c slot f : Nat) (g : Fibre → Fibre) : State := s.modTeam c slot fun t => t.modFibre f g
def State.fibre (s : State) (c slot f : Nat) : Fibre :=
  match s.team? c slot with
  | some t => t.fibre f
  | none => Fibre.blank 0 0
def State.cohort? (s : State) (c id : Nat) : Option Cohort := (s.cl c).cohorts.find? fun k => k.id == id
def State.modCohort (s : State) (c id : Nat) (g : Cohort → Cohort) : State :=
  s.modCl c fun k => { k with cohorts := k.cohorts.map fun h => if h.id = id then g h else h }
def State.dropCohort (s : State) (c id : Nat) : State :=
  s.modCl c fun k => { k with cohorts := k.cohorts.filter fun h => h.id != id }

/-- The die a cluster lies on; the management core is on D0, or D1 after a takeover (R46, R51). -/
def State.dieOf (s : State) (c : Nat) : Nat := if c = mcCluster then (if s.core.d1 then 1 else 0) else c / 40

/-- Cohort width W (R57). -/
def Team.width (t : Team) : Nat := if t.w64 then 64 else 32
/-- HLB (R173). -/
def Team.hlb (t : Team) : Nat := 32 * t.hls
/-- Home lane of a fibre index (R173). -/
def Team.homeLane (t : Team) (f : Nat) : Nat := (t.hlb + f) % 192
/-- Live fibre indices in ascending order. -/
def Team.live (t : Team) : List Nat := (List.range t.fib).filter fun f => (t.fibre f).live
/-- Live members of a set (R195). -/
def Team.members (t : Team) (s : Nat) : List Nat := t.live.filter fun f => (t.fibre f).sets.getLsbD s
/-- Whether a fibre is parked (R180). -/
def Fibre.parked (f : Fibre) : Bool := f.wait != .none

/-- The lowest PC among unparked live fibres of a FIXED cohort, handler paths (TM = 1) apart (R191, R268). -/
def Team.fixedPath (t : Team) (fs : List Nat) : List Nat :=
  let un := fs.filter fun f => (t.fibre f).live && !(t.fibre f).parked
  match minNat? (un.map fun f => (t.fibre f).pc.toNat) with
  | none => []
  | some pc =>
    let at' := un.filter fun f => (t.fibre f).pc.toNat == pc
    let plain := at'.filter fun f => !(t.fibre f).tm
    if plain.isEmpty then at' else plain

/-- What issues: a cohort, its team and the fibres of the issue in position order (R179, R191). -/
structure Ctx where
  c    : Nat
  team : Team
  co   : Cohort
  fs   : List Nat
deriving DecidableEq, Repr

/-- The issue context of a cohort. -/
def State.ctxOf (s : State) (c id : Nat) : Option Ctx :=
  match s.cohort? c id with
  | none => none
  | some co =>
    match s.team? c co.team with
    | none => none
    | some t =>
      let fs := if co.fixed.isSome then t.fixedPath co.fibres else co.fibres
      if fs.isEmpty then none else some ⟨c, t, co, fs⟩

/-- The issue context named by `cur`. -/
def State.ctx? (s : State) : Option Ctx :=
  match s.cur with
  | none => none
  | some (c, id) => s.ctxOf c id

def Ctx.isMc (x : Ctx) : Bool := x.team.mc
def Ctx.fib (x : Ctx) (f : Nat) : Fibre := x.team.fibre f
/-- PC of the issue (equal in every fibre of it). -/
def Ctx.pc (x : Ctx) : Addr := match x.fs with | [] => 0 | f :: _ => (x.fib f).pc
/-- Position of a fibre: its rank, or its index mod W in a FIXED team (R179, R191). -/
def Ctx.pos (x : Ctx) (f : Nat) : Nat :=
  if x.co.fixed.isSome then f % x.team.width else (findPos (· == f) x.fs).getD 0
/-- N of R365: the cohort's size, W in a FIXED team. -/
def Ctx.n (x : Ctx) : Nat := if x.co.fixed.isSome then x.team.width else x.fs.length
/-- The fibre at a position, if the position holds a live one. For a FIXED team this is every live fibre of the cohort. -/
def Ctx.atPos (x : Ctx) (p : Nat) : Option Nat :=
  if x.co.fixed.isSome then x.co.fibres.find? fun f => f % x.team.width == p && (x.fib f).live
  else x.fs[p]?
/-- Lane of a fibre on the issuing slice. -/
def Ctx.lane (x : Ctx) (f : Nat) : Nat :=
  if x.co.fixed.isSome then f % 32 else atD x.co.lanes ((findPos (· == f) x.co.fibres).getD 0) 0

/-- The context with the same cohort read afresh from a changed state. -/
def Ctx.again (x : Ctx) (s : State) : Ctx :=
  match s.team? x.c x.co.team, s.cohort? x.c x.co.id with
  | some t, some co => { x with team := t, co := co }
  | some t, none => { x with team := t }
  | none, _ => x

/-- Whether n bytes of global memory touch a spill area of the private memory that PRIVBASE, PRIVSIZE and FIB give (R315). -/
def spillMeets (priv : DWord × Word × Nat) (va n : Nat) : Bool :=
  let base := priv.1.toNat
  let size := priv.2.1.toNat
  size != 0 && decide (base ≤ va + n - 1 ∧ va < base + priv.2.2 * size) && decide ((va - base) % size + n > size - 1024)

/-- The private memory of a team. -/
def Team.priv (t : Team) : DWord × Word × Nat := (t.privb, t.privs, t.fib)

def State.modCurTeam (s : State) (x : Ctx) (g : Team → Team) : State := s.modTeam x.c x.co.team g
def State.modCurFibre (s : State) (x : Ctx) (f : Nat) (g : Fibre → Fibre) : State := s.modFibre x.c x.co.team f g

/-- Whether cycle c of a count is left open by a rate of k in m (R85, R99). -/
def openSlot (m k c : Nat) : Bool := decide ((c % m + 1) * k / m > c % m * k / m)

/-- SKIP in force and where its numbering begins (R99). -/
def Cluster.skipNow (k : Cluster) : Nat × Nat :=
  match k.skipTo with
  | some (v, c) => if c ≤ k.cycle then (v, c) else k.skip
  | none => k.skip

/-- Whether CL_THROTTLE removes the cluster's present cycle (R99). -/
def Cluster.removed (k : Cluster) : Bool :=
  let (v, b) := k.skipNow
  v != 0 && openSlot 16 v (k.cycle - b)

/-- SKIP is written: it is in force from the next boundary of 16 cycles (R99). -/
def Cluster.setSkip (k : Cluster) (v : Nat) : Cluster :=
  let (old, b) := k.skipNow
  { k with skip := (old, b), skipTo := some (v, b + ((k.cycle - b) / 16 + 1) * 16) }

/-- Whether slice j has finished its last issue: one instruction a cycle (R178), and the cycles R193 and R128 add. -/
def Cluster.sliceFree (k : Cluster) (j : Nat) : Bool :=
  match atD k.busy j none with
  | none => true
  | some c => decide (c ≤ k.cycle)

/-- Whether a higher slice has issued in the present cycle already. -/
def Cluster.passedBy (k : Cluster) (j : Nat) : Bool := match k.turn with
  | some (c, n) => c == k.cycle && decide (j < n)
  | none => false

/-- Whether slice j may issue in the present cycle (R85, R99, R178): its ratio in CL_SLICE, and the throttle. -/
def State.sliceOpen (s : State) (c j : Nat) : Bool :=
  let k := s.cl c
  if !k.sliceFree j then false
  else if c ≥ 160 then true
  else
    let r := s.regFld (clOff c + 0x08) (4 * j) 4
    (r == 8 || openSlot 8 r (k.cycle - atD k.ratioAt j 0)) && !k.removed

/-- Open cycles among the first n of a slice's numbering at ratio r (R85). -/
def slotsIn (r n : Nat) : Nat := n / 8 * r + n % 8 * r / 8

/-- Cycles of slice j's pipeline from a cluster cycle to the present; throttled ones count (R86). -/
def State.pipeSince (s : State) (c j start : Nat) : Nat :=
  let k := s.cl c
  let r := if c ≥ 160 then 8 else s.regFld (clOff c + 0x08) (4 * j) 4
  let b := atD k.ratioAt j 0
  slotsIn r (k.cycle - b) - slotsIn r (start - b)

/-- Whether the STALL of a cohort's last instruction has passed (R291). -/
def State.rested (s : State) (c : Nat) (h : Cohort) : Bool :=
  h.rest.2 == 0 || decide (h.rest.2 ≤ s.pipeSince c h.slice h.rest.1)

/-- Fresh number of the cluster: cohorts, releases and issues share one sequence. -/
def State.fresh (s : State) (c : Nat) : Nat × State :=
  ((s.cl c).nextId, s.modCl c fun k => { k with nextId := k.nextId + 1 })

/-- The next free value's argument (log entry 2). -/
def State.takeFree (s : State) : Nat × State := (s.free, { s with free := s.free + 1 })

end Sys2Proof.Machine
end

