-- ==== Sys2Proof/Machine/Mem.lean ====
section
/-!
DEFINITION. Machine/Mem.lean: the home memory and what stands before it: REPL numbering (R136, R162), reduction partials
(R141, R142), poison of sectors (R146), the L1 and RDC of PHASE lines (R127, R132, R133), the synchronisation-variable
table (R138 to R140) and the memory operations of R380.
-/
namespace Sys2Proof.Machine

/-! ### The physical map (R11, R12) -/

def isLocal (pa : Nat) : Bool := decide (pa < 0x6000000000)
def isHost (pa : Nat) : Bool := decide (2 ^ 48 ≤ pa ∧ pa < 2 ^ 49)
def isRegs (pa : Nat) : Bool := decide (2 ^ 49 ≤ pa ∧ pa < 2 ^ 49 + 0x10000000)
def isPeer (pa : Nat) : Bool := decide (2 ^ 51 ≤ pa ∧ pa < 2 ^ 52 ∧ pa % 2 ^ 40 < 0x6000000000)
/-- The management core's private SRAM (R46), kept above the 52-bit map. -/
def sramBase : Nat := 2 ^ 52
def isSram (pa : Nat) : Bool := decide (sramBase ≤ pa)
/-- Home die of a local address (R11); the dies end at 3. -/
def homeDie (pa : Nat) : Nat := pa / 0x1800000000

/-- R12 and R24: whether a frame at `pa` may carry CLASS `cls` (0 PHASE, 1 LIVE, 2 REPL, 3 UNCACHED). -/
def frameOk (pa cls : Nat) : Bool :=
  isLocal pa || isSram pa || (isRegs pa && cls == 3) || ((isHost pa || isPeer pa) && (cls == 0 || cls == 3))

/-! ### Memory operations (R380) -/

/-- Whether an OP works on 64 bits. -/
def memWide (op : Nat) : Bool := [1, 7, 8, 9, 10, 16, 17, 18, 20].contains op

/-- min.f32 and max.f32 under R230 with LMM 0; add.f32 by RNE, subnormals kept, 0x7FC0_0000 for every NaN. -/
def memFloat (op old b : Nat) : Nat :=
  let x := fp32.decode old
  let y := fp32.decode b
  match op with
  | 2 => (fp32.add 0 .rne x y).1
  | 11 => (fp32.minmax 0 false false x y).1
  | _ => (fp32.minmax 0 false true x y).1

/-- old (op) b at the width of OP (R380); exch returns b. -/
def memOp (op old b : Nat) : Nat :=
  match op with
  | 0 => (old + b) % 2 ^ 32
  | 1 => (old + b) % 2 ^ 64
  | 3 => if sext 32 b < sext 32 old then b else old
  | 4 => if sext 32 b > sext 32 old then b else old
  | 5 => min old b
  | 6 => max old b
  | 7 => if sext 64 b < sext 64 old then b else old
  | 8 => if sext 64 b > sext 64 old then b else old
  | 9 => min old b
  | 10 => max old b
  | 13 => old &&& b
  | 14 => old ||| b
  | 15 => old ^^^ b
  | 16 => old &&& b
  | 17 => old ||| b
  | 18 => old ^^^ b
  | 19 => b
  | 20 => b
  | o => memFloat o old b

/-! ### What an access at home may wait for (R16, R21, R25, R29) -/

/-- The window whose open epoch holds a byte (R25, R29). -/
def State.openWindow (s : State) (pa : Nat) : Option Nat :=
  (List.range 16).find? fun w =>
    let o := 0x1400 + 32 * w
    let base := s.regFld o 8 44 * 256
    let size := s.regFld (o + 8) 0 23 * 256
    s.regFld (o + 16) 7 1 == 1 && s.regFld (o + 16) 0 1 == 0 && s.regFld (o + 16) 24 12 != 0
      && decide (base ≤ pa ∧ pa < base + size)

/-- Home L2 slice of a local address within its die (R13). -/
def homeSlice (pa : Nat) : Nat :=
  let l := pa % 0x1800000000 / 256
  (l ^^^ l / 2 ^ 11 ^^^ l / 2 ^ 22) % 24

/-- Whether the line's slice is being written back for its retirement (R16). -/
def State.sliceDraining (s : State) (pa : Nat) : Bool :=
  let l := (atD s.spares (homeDie pa) Spares.reset).draining
  isLocal pa && !l.isEmpty && l.contains (homeSlice pa)

/-- Whether an access to a byte at home waits: a reduction window is open on it, or its slice drains (R16, R29). -/
def State.lineWaits (s : State) (pa : Nat) : Bool := (s.openWindow pa).isSome || s.sliceDraining pa

/-- Whether the PCI Express link of a function is up (R21). -/
def State.linkUp (s : State) (fn : Bool) : Bool := atD s.pcie (b2n fn) false
/-- HOSTPATH.FN (R21). -/
def State.hostFn (s : State) : Bool := (s.reg 0x510).getLsbD 0
/-- Whether device accesses to host memory get through (R21). -/
def State.hostOk (s : State) : Bool := s.linkUp s.hostFn

/-- Whether a dirty byte cannot go home now: its line waits, or its link is down. It stays dirty until it can, which R21 does
not say of a write-back (log entry 95). -/
def State.heldBack (s : State) (pa : Nat) : Bool := s.lineWaits pa || (isHost pa && !s.hostOk)

/-! ### The L2 of each die (R2, R126) -/

/-- What the L2 of its home die holds of sector n: 0 nothing, 1 a clean copy, 2 a modified one. -/
def State.l2At (s : State) (n : Nat) : Nat := Tab.get 0 s.l2 n

/-- The physical slice that serves a line: its die, and the slice the sparing map names (R13, R16). -/
def State.l2Slice (s : State) (line : Nat) : Nat × Nat :=
  (homeDie (256 * line), atD (atD s.spares (homeDie (256 * line)) Spares.reset).slices (homeSlice (256 * line)) 0)

/-- Sectors leave their L2: modified ones are written back, which renews their symbols in HBM (R145). -/
def State.l2Drop (s : State) (gone : Nat → Bool) : State :=
  let out := s.l2.filter fun x => gone x.1
  if out.isEmpty then s
  else { s with
    l2 := s.l2.filter fun x => !gone x.1
    latent := s.latent.filter fun x => !out.any fun y => y.1 == x.1 && y.2 == 2 }

/-- A physical slice holds 4 MiB: with more than 16,384 lines it gives one up, neither the one just used nor a pinned one (R2,
R243; log entry 110). -/
def State.l2Trim (s : State) (line : Nat) : State :=
  if s.l2.length ≤ 16384 then s
  else
    let held := ((s.l2.map (·.1 / 4)).eraseDups).filter fun l => s.l2Slice l == s.l2Slice line
    let old := held.filter fun l => l != line && !s.pins.any (·.line == l)
    if held.length ≤ 16384 then s else s.l2Drop fun n => some (n / 4) == old[Config.victim s.free % old.length]?

/-- HBM is read: a symbol in error is corrected, and a sector beyond correction rewritten with the poison codeword; the report
is still to be made. One that holds the codeword is poisoned (R145, R146). -/
def State.hbmRead (s : State) (n : Nat) : State :=
  match s.latent.lookup n with
  | none => s
  | some k =>
    let s := { s with latent := s.latent.filter (·.1 != n) }
    let s := if k = 0 then s else { s with pois := insSorted n s.pois }
    if k = 2 then s else { s with errs := s.errs ++ [(n, k == 1)] }

/-- Sector n read at its home: from the L2, which it is brought into from HBM (R126). -/
def State.l2Read (s : State) (n : Nat) : State :=
  if !isLocal (64 * n) || s.l2At n != 0 then s
  else ({ s.hbmRead n with l2 := Tab.set 0 s.l2 n 1 } : State).l2Trim (n / 4)

/-- Sector n written at its home; `whole`: all of its bytes, else it is brought in first. -/
def State.l2Write (s : State) (n : Nat) (whole : Bool) : State :=
  if !isLocal (64 * n) then s
  else
    let s := if whole then s else s.l2Read n
    ({ s with l2 := Tab.set 0 s.l2 n 2 } : State).l2Trim (n / 4)

/-- The sectors of some bytes, and whether the bytes cover one whole. -/
def sectorsOf (pas : List Nat) : List Nat := (pas.map (· / 64)).eraseDups
def coversSector (pas : List Nat) (n : Nat) : Bool := (List.range 64).all fun i => pas.contains (64 * n + i)

/-! ### Home memory -/

/-- The byte as die `d` has it: memory under the REPL updates the die has applied, the highest lane of each winning (R130,
R136, R162). -/
def State.viewByte (s : State) (d pa : Nat) : Byte :=
  s.repl.pend.foldl (fun b u => if u.num ≤ atD s.repl.applied d 0 then (u.cells.reverse.lookup pa).getD b else b)
    (s.mem.byte pa)

/-- The byte at its home. -/
def State.homeByte (s : State) (pa : Nat) : Byte := s.viewByte (homeDie pa) pa

def State.homeBytes (s : State) (pa n : Nat) : List Byte := (List.range n).map fun i => s.homeByte (pa + i)

/-- Whether a byte lies in a poisoned sector (R146). -/
def State.poisoned (s : State) (pa : Nat) : Bool := s.pois.contains (pa / 64)

/-- Bytes written at their home as one request: pending REPL bytes applied there are superseded, and a sector covered
whole loses its poison (R146). -/
def State.putRaw (s : State) (cells : List (Nat × Byte)) : State :=
  let pas := cells.map (·.1)
  let home u pa := decide (u ≤ atD s.repl.applied (homeDie pa) 0)
  let pend := s.repl.pend.map fun u => { u with cells := u.cells.filter fun c => !(home u.num c.1 && pas.contains c.1) }
  let s := (sectorsOf pas).foldl (fun s n => s.l2Write n (coversSector pas n)) s
  { s with
    mem := cells.foldl (fun m c => m.put c.1 c.2) s.mem
    repl := { s.repl with pend := pend }
    pois := if s.pois.isEmpty then [] else s.pois.filter fun k => !coversSector pas k }

/-- One element of a partial combined into memory (R142); discarded when its sector is poisoned (R384), as this
read of it may find it (R145). -/
def State.mergeOne (s : State) (p : Partial) : State :=
  let n := if memWide p.op then 8 else 4
  let s := s.l2Read (p.pa / 64)
  if s.poisoned p.pa then s
  else
    let old := leVal (s.homeBytes p.pa n)
    s.putRaw ((List.range n).zip (leBytes n (memOp p.op old p.val.toNat)) |>.map fun (i, b) => (p.pa + i, b))

/-- R142: the partials of a line (of every die in ascending order; of one whose operation meets another there, R141) merged at
the home and freed. They stay while their line waits (R16, R29). -/
def State.mergeLine (s : State) (line : Nat) (die : Option Nat) : State :=
  let here (p : Partial) : Bool := p.pa / 256 == line && (match die with | some d => p.die == d | none => true)
  let ps := sortBy (fun a b => decide (a.die < b.die)) (s.partials.filter here)
  if ps.isEmpty || s.lineWaits (256 * line) then s
  else ps.foldl State.mergeOne { s with partials := s.partials.filter fun p => !here p }

/-- A non-RED access reaches home at these bytes: the lines' partials are merged first (R142). -/
def State.touch (s : State) (pas : List Nat) : State :=
  if s.partials.isEmpty then s
  else ((pas.map (· / 256)).eraseDups).foldl (fun s l => s.mergeLine l none) s

/-- A write performed at home. -/
def State.homePut (s : State) (cells : List (Nat × Byte)) : State := (s.touch (cells.map (·.1))).putRaw cells

/-- An access of an agent (a cluster, or none of them) outside the scope that a tracked word or a privatised copy has: the
home recalls the word or the copy first (R135, R139), a recalled word's line is merged (R142), and its runs begin anew (R138). -/
def State.recall (s : State) (by' : Option Nat) (pas : List Nat) : State :=
  if s.svt.isEmpty && s.dir.isEmpty then s
  else
    let outer (e : SvEntry) : Bool := pas.any (fun a => a / 8 == e.word) && (match e.scope with
      | .cluster k => by' != some k
      | _ => false)
    let left (e : SvEntry) : SvEntry := match by', e.scope with
      | some c, .cluster k =>
        let d := s.dieOf c
        { e with
          scope := if d = s.dieOf k then .die d else .wide
          nCl := 0, nDie := 0, cls := insSorted c e.cls, dies := insSorted d e.dies }
      | _, _ => { e with scope := .wide, nCl := 0, nDie := 0 }
    let meets (e : DirLine) : Bool := e.owner.isSome && e.owner != by' && pas.any fun a =>
      a / 256 == e.line && ((e.masks.lookup (e.owner.getD 0)).getD []).contains (a % 256)
    let lines := (s.svt.filter outer).map (·.word / 32)
    lines.foldl (fun s l => s.mergeLine l none) { s with
      svt := s.svt.map fun e => if outer e then left e else e
      dir := s.dir.map fun e => if meets e then { e with owner := none, dirty := [] } else e }

/-- A read or write by an agent other than a fibre reaches home. -/
def State.touchBy (s : State) (by' : Option Nat) (pas : List Nat) : State := (s.recall by' pas).touch pas

/-- A write by an agent that is no cluster performed at home. -/
def State.homePutBy (s : State) (cells : List (Nat × Byte)) : State := (s.recall none (cells.map (·.1))).homePut cells

/-- Writes that wait, numbered on. -/
def State.stall (s : State) (fn : Option Bool) (cells : List (Nat × Byte)) : State :=
  { s with
    stalled := s.stalled ++ ((List.range cells.length).zip cells).map fun x => ⟨s.stallNo + x.1, fn, x.2.1, x.2.2⟩
    stallNo := s.stallNo + cells.length }

/-- A write that the package or the outside makes at home: bytes of lines that wait are kept at the home until they no longer
do, and nothing reads those lines before (R16, R29). -/
def State.homeWrite (s : State) (cells : List (Nat × Byte)) : State :=
  let wait := cells.filter fun c => s.lineWaits c.1
  if wait.isEmpty then s.homePutBy cells
  else (s.stall none wait).homePutBy (cells.filter fun c => !s.lineWaits c.1)

/-- A write through the BAR4 of a function: performed in the order of delivery, so behind one that waits (R160). -/
def State.barWrite (s : State) (fn : Bool) (cells : List (Nat × Byte)) : State :=
  if cells.any (fun c => s.lineWaits c.1) || s.stalled.any fun x => x.fn == some fn then s.stall (some fn) cells
  else s.homePutBy cells

/-- Kept writes whose lines no longer wait are performed in their order, those through a BAR4 behind earlier ones (R160). -/
def State.unstall (s : State) : State :=
  if s.stalled.isEmpty then s
  else
    let ok (x : Stall) : Bool := !s.lineWaits x.pa && (x.fn.isNone ||
      s.stalled.all fun y => y.fn != x.fn || decide (x.no < y.no) || !s.lineWaits y.pa)
    State.homePutBy { s with stalled := s.stalled.filter fun x => !ok x } ((s.stalled.filter ok).map fun x => (x.pa, x.b))

/-- Bytes at home as they stand once the writes that wait are performed. -/
def State.laterBytes (s : State) (pa n : Nat) : List Byte :=
  (List.range n).map fun i => ((s.stalled.filter fun x => x.pa == pa + i).getLast?.map (·.b)).getD (s.homeByte (pa + i))

/-- Consecutive bytes as cells. -/
def cellsAt (pa : Nat) (bs : List Byte) : List (Nat × Byte) := (List.range bs.length).zip bs |>.map fun (i, b) => (pa + i, b)

/-- A little-endian value written at home. -/
def State.homePutVal (s : State) (pa n v : Nat) : State := s.homePut (cellsAt pa (leBytes n v))

/-- A little-endian value that the package writes at home. -/
def State.homeWriteVal (s : State) (pa n v : Nat) : State := s.homeWrite (cellsAt pa (leBytes n v))

/-- A little-endian value read at home. -/
def State.homeVal (s : State) (pa n : Nat) : Nat × State :=
  let s := s.touch [pa]
  (leVal (s.homeBytes pa n), s)

/-- A sector rewritten with, or freed of, the poison codeword (R145, R146). -/
def State.setPois (s : State) (sector : Nat) (p : Bool) : State :=
  { s with pois := if p then insSorted sector s.pois else s.pois.filter (· != sector) }

/-! ### REPL (R136) -/

/-- Updates applied by every die leave the list and stand in memory. -/
def State.replFold (s : State) : State :=
  let low := (minNat? s.repl.applied).getD 0
  let (ready, rest) := (s.repl.pend.takeWhile (fun u => decide (u.num ≤ low)), s.repl.pend.dropWhile fun u => decide (u.num ≤ low))
  let pas := ready.flatMap fun u => u.cells.map (·.1)
  let s := (sectorsOf pas).foldl (fun s n => s.l2Write n (coversSector pas n)) s
  { s with
    mem := ready.foldl (fun m u => u.cells.foldl (fun m c => m.put c.1 c.2) m) s.mem
    repl := { s.repl with pend := rest } }

/-- Die `d` applies updates in number order up to `n`. -/
def State.replApply (s : State) (d n : Nat) : State :=
  State.replFold { s with repl := { s.repl with applied := modAt s.repl.applied d (fun a => max a n) } }

/-- Every die has applied every update. -/
def State.replAll (s : State) : State := (List.range 4).foldl (fun s d => s.replApply d (s.repl.next - 1)) s

/-- A REPL store takes the next number and is applied by its own die (R136); the number is returned. -/
def State.replPut (s : State) (d : Nat) (cells : List (Nat × Byte)) : Nat × State :=
  let n := s.repl.next
  let pas := cells.map (·.1)
  let s := { s with
    repl := { s.repl with next := n + 1, pend := s.repl.pend ++ [ReplUpd.mk n cells] }
    pois := if s.pois.isEmpty then [] else s.pois.filter fun k => !coversSector pas k }
  (n, s.replApply d n)

/-- Before an atomic on a REPL line its home has applied every lower number (R136). -/
def State.replCatchUp (s : State) (pa : Nat) : State := s.replApply (homeDie pa) (s.repl.next - 1)

/-! ### L1 and RDC (R126, R127, R132, R133) -/

/-- Cluster counters of R148 and R194; the management core's slice has none. -/
def State.countCl (s : State) (c r n : Nat) : State := if c < 160 ∧ n ≠ 0 then s.count (clOff c + r) n else s

/-- The clean copy of a sector in the L1. -/
def Cluster.sector? (k : Cluster) (no : Nat) : Option Sector := k.clean.find? fun x => x.no == no

/-- Whether every byte of an access is in the L1. -/
def Cluster.hit (k : Cluster) (pa n : Nat) : Bool :=
  (List.range n).all fun i => (Tab.get none k.dirty (pa + i)).isSome || (k.sector? ((pa + i) / 64)).isSome

/-- Whether every byte of a sector is dirty. -/
def Cluster.allDirty (k : Cluster) (no : Nat) : Bool := (List.range 64).all fun i => (Tab.get none k.dirty (64 * no + i)).isSome

/-- Whether the dirty bytes of a sector read as poisoned: its code failed (R147), or they cover a poisoned sector in part (R146). -/
def Cluster.dirtyBad (k : Cluster) (no : Nat) : Bool :=
  k.dpois.contains no || (match k.sector? no with | some x => x.pois && !k.allDirty no | none => false)

/-- A byte as the L1 gives it, dirty bytes over the clean sector, and whether its sector is poisoned. Every copy of a REPL line
on a die shows what the die has applied (R136, R162). -/
def State.l1Byte (s : State) (c pa : Nat) : Byte × Bool :=
  match Tab.get none (s.cl c).dirty pa with
  | some b => (b.byte, (s.cl c).dirtyBad (pa / 64))
  | none =>
    match (s.cl c).sector? (pa / 64) with
    | some x =>
      if x.repl then (s.viewByte (s.dieOf c) pa, s.poisoned pa)
      else (atD x.bytes (pa % 64) 0, x.pois || (s.cl c).dpois.contains (pa / 64))
    | none => (s.homeByte pa, s.poisoned pa)

/-- R148: the sectors of the list count unused when they leave the L1 undemanded. -/
def State.dropPref (s : State) (c : Nat) (gone : Nat → Bool) : State :=
  let n := ((s.cl c).pref.filter fun p => gone p.1).length
  if n = 0 then s
  else (s.countCl c 0x10C n).modCl c fun k => { k with pref := k.pref.filter fun p => !gone p.1 }

/-- A demand access to a sector: a prefetched one counts useful, one still outstanding late (R148). -/
def State.demand (s : State) (c no : Nat) : State :=
  match (s.cl c).pref.find? fun p => p.1 == no with
  | some p =>
    ((s.countCl c 0x104 1).countCl c 0x110 ((s.cl c).cycle - p.2)).modCl c fun k =>
      { k with pref := k.pref.filter fun q => q.1 != no }
  | none => s

/-- The lines an L1 holds, privatised copies among them (R127, R135). -/
def State.l1Lines (s : State) (c : Nat) : List Nat :=
  let l : List Nat := (s.cl c).clean.map (·.no / 4) ++ (s.cl c).dirty.map (·.1 / 256)
    ++ (s.dir.filter fun e => e.owner == some c).map (·.line)
  l.eraseDups

/-- The RDC's copy of a remote sector that may serve a cluster of the die (R132, R133). -/
def State.rdcCopy (s : State) (c no : Nat) (repl : Bool) : Option Sector :=
  if homeDie (64 * no) = s.dieOf c then none
  else (atD s.rdc (s.dieOf c) []).find? fun x => x.no == no && x.repl == repl && (repl || decide (x.time ≥ (s.cl c).acq))

/-- Whether a miss of the cluster on a sector goes home (R132). -/
def State.missHome (s : State) (c no : Nat) (repl : Bool) : Bool :=
  ((s.cl c).sector? no).isNone && (s.rdcCopy c no repl).isNone

/-- A REPL fill carries the number its home has applied; the die, whose copies reflect one prefix, is at it or beyond when it
has the copy (R136, R162; log entry 132). -/
def State.replFill (s : State) (d pa : Nat) (repl : Bool) : State :=
  if repl then s.replApply d (atD s.repl.applied (homeDie pa) 0) else s

/-- A miss served by the RDC when its copy is new enough, else by the home (R132, R133, R136). -/
def State.fillSector (s : State) (c no : Nat) (repl : Bool) : State :=
  if ((s.cl c).sector? no).isSome then s
  else
    let d := s.dieOf c
    let pa := no * 64
    let (x, s) : Sector × State := match s.rdcCopy c no repl with
      | some x => (x, s)
      | none =>
        let s := (s.touchBy (some c) ((List.range 64).map (pa + ·))).replFill d pa repl
        let x : Sector := ⟨no, s.free, s.poisoned pa, repl, if repl then atD s.repl.applied (homeDie pa) 0 else 0,
          if repl then [] else s.homeBytes pa 64⟩
        (x, if homeDie pa = d then s else { s with rdc := modAt s.rdc d fun l => l.filter (fun y => y.no != no) ++ [x] })
    s.modCl c fun k => { k with clean := k.clean ++ [x] }

/-- The clean copies a cluster and its die's RDC hold of some sectors are dropped, so that no later read of the cluster
returns an earlier write (R150). -/
def State.dropCopies (s : State) (c : Nat) (secs : List Nat) : State :=
  let s := s.dropPref c secs.contains
  let s := s.modCl c fun k => { k with clean := k.clean.filter fun x => !secs.contains x.no }
  { s with rdc := modAt s.rdc (s.dieOf c) fun l => l.filter fun x => !secs.contains x.no }

/-- The cluster's dirty bytes whose address and space satisfy `p`, as cells. -/
def Cluster.dirtyCells (k : Cluster) (p : Nat → Nat → Bool) : List (Nat × Byte) :=
  k.dirty.filterMap fun (pa, b) => b.bind fun x => if p pa x.asid then some (pa, x.byte) else none

/-- Whether dirty bytes of a cluster that satisfy `p` cannot go home yet. -/
def State.unflushed (s : State) (c : Nat) (p : Nat → Nat → Bool) : Bool :=
  ((s.cl c).dirtyCells p).any fun x => s.heldBack x.1

/-- Dirty bytes sent to the home slices (R127, R132 step 2, R139), with the poison of their sectors (R147); those that
cannot go home yet stay. -/
def State.flush (s : State) (c : Nat) (p : Nat → Nat → Bool) : State :=
  let q (pa a : Nat) : Bool := p pa a && !s.heldBack pa
  let cells := (s.cl c).dirtyCells q
  if cells.isEmpty then s
  else
    let secs := (cells.map (·.1 / 64)).eraseDups
    let bad := secs.filter (s.cl c).dpois.contains
    let s := bad.foldl (fun s k => s.setPois k true) ((s.recall (some c) (cells.map (·.1))).homePut cells)
    let s := s.dropCopies c secs
    s.modCl c fun k => { k with
      dirty := k.dirty.filter fun x => !(match x.2 with | some b => q x.1 b.asid | none => false)
      dpois := if k.dpois.isEmpty then [] else k.dpois.filter fun n => !bad.contains n }

/-- The L1 gives up a line: its dirty bytes go home, a privatised copy is revoked, the rest is dropped (R127, R135, R148). -/
def State.evictLine (s : State) (c line : Nat) : State :=
  let s := s.flush c fun a _ => a / 256 == line
  let s := (s.dropPref c fun n => n / 4 == line).modCl c fun k => { k with clean := k.clean.filter fun x => x.no / 4 != line }
  if s.dir.isEmpty then s
  else { s with dir := s.dir.map fun e => if e.line = line ∧ e.owner = some c then { e with owner := none, dirty := [] } else e }

/-- Whether an L1 can give up a line: no dirty byte of it must stay (R21, R29). -/
def State.mayEvict (s : State) (c line : Nat) : Bool := !s.unflushed c fun a _ => a / 256 == line

/-- One line more than an L1 holds goes, not the one just used (which one is log entry 110). -/
def State.l1Trim1 (s : State) (c line : Nat) : State :=
  let old := (s.l1Lines c).filter fun l => l != line && s.mayEvict c l
  match old[Config.victim s.free % old.length]? with
  | some l => s.evictLine c l
  | none => s

/-- An L1 with more than its 192 KiB gives lines up until it has no more than 768 (R127). -/
def State.l1Trim (s : State) (c line : Nat) : State :=
  if (s.cl c).clean.length + (s.cl c).dirty.length + s.dir.length ≤ 768 then s
  else (List.range ((s.l1Lines c).length - 768)).foldl (fun s _ => s.l1Trim1 c line) s

/-- R135: cluster `c` accesses bytes of a LIVE line; `w`: it writes. Others' privatised copies are recalled, the byte masks
grow, and a copy may be granted while the cluster's mask is disjoint from every other; it takes its place in the L1 (R127). -/
def State.dirTouch (s : State) (c : Nat) (w : Bool) (pas : List Nat) : State :=
  let one (s : State) (line : Nat) : State :=
    let offs := (pas.filter fun a => a / 256 == line).map (· % 256)
    let e : DirLine := (s.dir.find? fun e => e.line == line).getD ⟨line, [], none, []⟩
    let mine := ((e.masks.lookup c).getD [] ++ offs).eraseDups
    let others := e.masks.filter fun m => m.1 != c
    let free := others.all fun m => !mine.any m.2.contains
    let owner := if e.owner.isNone && !others.isEmpty && free && Config.grant s.free then some c
      else if e.owner == some c && !free then none else e.owner
    let dirty := if owner.isNone then [] else if owner = some c ∧ w then (e.dirty ++ offs).eraseDups else e.dirty
    ({ s with dir := s.dir.filter (fun x => x.line != line) ++ [⟨line, others ++ [(c, mine)], owner, dirty⟩] } : State).l1Trim c line
  ((pas.map (· / 256)).eraseDups).foldl one (s.recall (some c) pas)

/-- The RDC of a die gives up a line: the line's partials are merged first, those of every die in their order (R126, R142). A
partial whose line waits at its home stays (R16, R29). -/
def State.evictRdc (s : State) (d line : Nat) : State :=
  if s.lineWaits (256 * line) then s
  else
    let s := if s.partials.any fun p => p.die == d && p.pa / 256 == line then s.mergeLine line none else s
    { s with rdc := modAt s.rdc d fun l => l.filter fun x => x.no / 4 != line }

/-- An RDC with more than its 32 MiB gives up a line, not the one just used. -/
def State.rdcTrim (s : State) (d line : Nat) : State :=
  if (atD s.rdc d []).length + s.partials.length ≤ 131072 then s
  else
    let held : List Nat := (atD s.rdc d []).map (·.no / 4) ++ (s.partials.filter fun p => p.die == d).map (·.pa / 256)
    let ls := held.eraseDups
    let old := ls.filter (· != line)
    if ls.length ≤ 131072 then s else s.evictRdc d (atD old (Config.victim s.free % old.length) 0)

/-- A sector brought into the L1, and the lines that give way to it. -/
def State.fill (s : State) (c no : Nat) (repl : Bool) : State :=
  ((s.fillSector c no repl).rdcTrim (s.dieOf c) (no / 4)).l1Trim c (no / 4)

/-- Whether a partial that holds REDs of a space in `q` cannot be merged yet, its line waiting (R16, R29). -/
def State.partialsHeld (s : State) (q : Nat → Bool) : Bool := s.partials.any fun x => x.asids.any q && s.lineWaits x.pa

/-- Step 3 of a bump (R108, R142, R143): the reduction partials that hold REDs of a space in `q` are merged, and the clusters'
dirty bytes go home in ascending cluster number; bytes applied over an earlier cluster's are counted in RACE_OVERLAP. -/
def State.writebackAll (s : State) (p : Nat → Nat → Bool) (q : Nat → Bool) : State :=
  let lines := ((s.partials.filter fun x => x.asids.any q).map (·.pa / 256)).eraseDups
  let s := lines.foldl (fun s l => s.mergeLine l none) s
  ((List.range 161).foldl (fun (acc : State × List Nat) c =>
    let pas := (acc.1.cl c).dirtyCells p |>.map (·.1)
    if pas.isEmpty then acc
    else
      let shared := (pas.filter acc.2.contains).length
      ((acc.1.flush c p).countSat 0xA00 shared, acc.2 ++ pas)) (s, [])).1

/-- The acquire of R133: the clean PHASE sectors go; RDC copies filled before this instant serve the cluster no more. -/
def State.acquire (s : State) (c : Nat) : State :=
  let gone := ((s.cl c).clean.filter fun x => !x.repl).map (·.no)
  (s.dropPref c gone.contains).modCl c fun k => { k with clean := k.clean.filter (·.repl), acq := s.free }

/-- Bytes of a PHASE store enter the L1 (R127, R153); a sector covered whole loses its poison (R146). -/
def State.l1Put (s : State) (c asid : Nat) (cells : List (Nat × Byte)) : State :=
  let whole (n : Nat) : Bool := (List.range 64).all fun i => cells.any fun x => x.1 == 64 * n + i
  s.modCl c fun k => { k with
    dirty := cells.foldl (fun t x => Tab.set none t x.1 (some ⟨x.2, asid⟩)) k.dirty
    dpois := if k.dpois.isEmpty then [] else k.dpois.filter fun n => !whole n }

/-! ### Synchronisation variables (R138 to R140) -/

/-- Whether a tracked word lies in the L1 of a cluster (R138). -/
def State.heldWord (s : State) (c pa : Nat) : Bool := s.svt.any fun e => e.word == pa / 8 && e.scope == .cluster c

/-- One operation of cluster `c` on the word of `pa`: the entry's scope, runs and participants (R138). An entry that gives its
place up is recalled first, which merges its line (R140, R142). -/
def State.svtTouch (s : State) (c pa : Nat) : State :=
  if !isLocal pa then s
  else
    let w := pa / 8
    let d := s.dieOf c
    let step (e : SvEntry) : SvEntry :=
      let nCl := if e.cl = c then e.nCl + 1 else 1
      let nDie := if s.dieOf e.cl = d then e.nDie + 1 else 1
      let e := { e with cls := insSorted c e.cls, dies := insSorted d e.dies }
      match e.scope with
      | .cluster k =>
        if k = c then { e with cl := c, nCl := nCl, nDie := nDie }
        else if s.dieOf k = d then { e with scope := .die d, cl := c, nCl := 1, nDie := nDie }
        else { e with scope := .wide, cl := c, nCl := 1, nDie := 1 }
      | .die k =>
        if k = d then { e with cl := c, nCl := nCl, nDie := nDie } else { e with scope := .wide, cl := c, nCl := 1, nDie := 1 }
      | .wide =>
        if nCl ≥ 64 then { e with scope := .cluster c, cl := c, nCl := nCl, nDie := nDie, cls := [c], dies := [d] }
        else if nDie ≥ 64 then
          { e with scope := .die d, cl := c, nCl := nCl, nDie := nDie, cls := e.cls.filter fun k => s.dieOf k == d, dies := [d] }
        else { e with cl := c, nCl := nCl, nDie := nDie }
    match s.svt.find? fun e => e.word == w with
    | some _ => { s with svt := s.svt.map fun e => if e.word = w then step e else e }
    | none =>
      let h := homeDie pa
      let mine := s.svt.filter fun e => homeDie (e.word * 8) == h
      let s := if mine.length < 4096 then s
        else match mine.head? with
          | none => s
          | some old => State.mergeLine { s.count (dieOff h + 0xA04) 1 with svt := s.svt.filter fun e => e.word != old.word }
              (old.word / 32) none
      { s with svt := s.svt ++ [⟨w, .wide, c, 1, 1, [c], [d]⟩] }

/-- A RED on a PHASE page joins its die's partial (R141, R383). -/
def State.redPartial (s : State) (d asid pa op : Nat) (v : DWord) : State :=
  let n (o : Nat) : Nat := if memWide o then 8 else 4
  let meets (p : Partial) : Bool := p.die == d && decide (p.pa < pa + n op ∧ pa < p.pa + n p.op)
  let clash := s.partials.any fun p => meets p && !(p.pa == pa && p.op == op)
  let s := if clash then s.mergeLine (pa / 256) (some d) else s
  if s.partials.any meets then
    { s with partials := s.partials.map fun p =>
      if meets p then { p with val := BitVec.ofNat 64 (memOp op p.val.toNat v.toNat), asids := insSorted asid p.asids } else p }
  else { s with partials := s.partials ++ [⟨d, pa, op, v, [asid]⟩] }

end Sys2Proof.Machine
end

