-- ==== Sys2Proof/Machine/Records.lean ====
section
/-!
DEFINITION. Machine/Records.lean: the rings the package writes records to (R41, R42, R53, R116, R118, R124), interrupts,
timeline counters (R405 to R408) and the step table (R90, R91).
-/
namespace Sys2Proof.Machine

/-! ### Links and interrupts -/

/-- An MSI-X vector of a function is raised. -/
def State.raiseMsi (s : State) (fn : Bool) (vec : Nat) : State := { s with msi := s.msi ++ [(fn, vec)] }
/-- A bit of MC_ISTAT is set (R47). -/
def State.mcRaise (s : State) (n : Nat) : State := s.setReg 0x200 (s.reg 0x200 ||| BitVec.ofNat 64 (2 ^ n))

/-! ### Rings -/

/-- Four 8-byte words as the 32 bytes of a record. -/
def recBytes (w : List Nat) : List Byte := (w.map (leBytes 8)).flatten

/-- Appends a record to a ring of 2^(size+7) records whose counts stand in registers; `phase` puts the PHASE bit into
bit 63 of word 0 (R41). A record for a full or unreachable ring is dropped and counted. ERRLOG_HEAD and ERRLOG_TAIL count
records freely modulo 2^32 as the other rings' counts do (R53 gives neither their width nor their unit; log entry 111). -/
def State.ringPut (s : State) (base size : Nat) (ok phase : Bool) (tail head lost : Nat) (w : List Nat) : Bool × State :=
  let c := 2 ^ (size + 7)
  let t := (s.reg tail).toNat
  let used := (t + 2 ^ 32 - (s.reg head).toNat % 2 ^ 32) % 2 ^ 32
  if !ok || used == c || (isHost base && !s.hostOk) then (false, s.countSat lost 1)
  else
    let w := match w with
      | w0 :: r => (if phase && (t / c) % 2 == 0 then w0 % 2 ^ 63 + 2 ^ 63 else w0) :: r
      | [] => []
    let s := s.homeWrite (cellsAt (base + t % c * 32) (recBytes w))
    (true, s.setReg tail (BitVec.ofNat 64 ((t + 1) % 2 ^ 32)))

/-- Appends a record of R53 to the error log. The log may lie in the HBM of any die; a base elsewhere drops the record, which R53
does not say (DESIGN CHOICE, log entry 111). -/
def State.errLog (s : State) (cls die unit index count addr detail : Nat) : State :=
  let base := s.regFld 0x400 12 40 * 4096
  (s.ringPut base (s.regFld 0x400 0 4) (isLocal base) false 0x408 0x410 0x418
    [s.ptime, cls + die * 2 ^ 8 + unit * 2 ^ 16 + index * 2 ^ 24 + count * 2 ^ 32, addr, detail]).2

/-- HBM channel of a local address within its die (R13). -/
def hbmChannel (pa : Nat) : Nat :=
  let l := pa % 0x1800000000 / 256
  (l ^^^ l / 2 ^ 7) % 64

/-- An uncorrectable memory error is logged (R145, R146) and ERR_UNCORRECTED raised (R47). -/
def State.errMemory (s : State) (pa detail : Nat) : State :=
  (s.errLog 1 (pa / 0x1800000000) 2 (hbmChannel pa) 1 pa detail).mcRaise 1

/-- R145: a corrected error adds to the COUNT of the newest unconsumed record of its unit and address, or opens one. -/
def State.errCorrected (s : State) (die unit index addr detail : Nat) : State :=
  let base := s.regFld 0x400 12 40 * 4096
  let c := 2 ^ (s.regFld 0x400 0 4 + 7)
  let t := (s.reg 0x408).toNat
  let used := (t + 2 ^ 32 - (s.reg 0x410).toNat % 2 ^ 32) % 2 ^ 32
  let key := die * 2 ^ 8 + unit * 2 ^ 16 + index * 2 ^ 24
  let at' (i : Nat) : Nat := base + (t + 2 ^ 32 - 1 - i) % c * 32
  let same (i : Nat) : Bool :=
    leVal (s.laterBytes (at' i + 8) 4) == key && leVal (s.laterBytes (at' i + 16) 8) == addr
  let s := match (List.range (min used c)).find? same with
    | some i => s.homeWriteVal (at' i + 12) 4 (leVal (s.laterBytes (at' i + 12) 4) + 1)
    | none => s.errLog 0 die unit index 1 addr detail
  s.mcRaise 6

/-! ### Errors that a read finds (R145) -/

/-- Records made of the errors found so far: corrected ones, and those beyond correction for which `mine` allocates no origin
(log entry 113). -/
def State.logErrs (s : State) (mine : Nat → Bool) : State :=
  if s.errs.isEmpty then s
  else
    let keep := s.errs.filter fun x => x.2 && mine x.1
    s.errs.foldl (fun s x =>
      let pa := 64 * x.1
      if x.2 then (if mine x.1 then s else s.errMemory pa 0xFFFF)
      else s.errCorrected (pa / 0x1800000000) 2 (hbmChannel pa) pa 0) { s with errs := keep }

/-- A read at home brings the sectors of some bytes into their L2s (R126): the sectors that this read of HBM finds beyond
correction, whose records are still to be made. -/
def State.demandRead (s : State) (pas : List Nat) : List Nat × State :=
  let secs := sectorsOf pas
  let s := (secs.foldl State.l2Read s).logErrs secs.contains
  (s.errs.map fun x => 64 * x.1, { s with errs := [] })

/-- The same for a reader that allocates no origin: DETAIL holds none (log entry 113). -/
def State.demandHome (s : State) (pas : List Nat) : State :=
  let (bad, s) := s.demandRead pas
  bad.foldl (fun s pa => s.errMemory pa 0xFFFF) s

/-- The queue numbered q. -/
def Queue.reset : Queue := ⟨.disabled, false, 0, false, 0, 0, 0, 0, 0, 0, false, 0, 0, false, 0, 0, 0, 0⟩
def State.queue (s : State) (q : Nat) : Queue := Tab.get Queue.reset s.queues q
def State.setQueue (s : State) (q : Nat) (x : Queue) : State := { s with queues := Tab.set Queue.reset s.queues q x }
def State.modQueue (s : State) (q : Nat) (g : Queue → Queue) : State := s.setQueue q (g (s.queue q))

/-- Where the descriptor of a queue's event ring stands (R41). -/
def State.ringAt (s : State) (q : Nat) : Nat := s.regFld 0x108 12 40 * 4096 + (s.queue q).evr * 16

/-- Whether the descriptor of the ring a record goes to waits at its home (R16, R29). -/
def State.ringWaits (s : State) (q : Option Nat) : Bool := match q with | some q => s.lineWaits (s.ringAt q) | none => false

/-- Writes a record to the event ring of a queue (R41 to R43); records without a queue go to the error log (R43). VEC is raised
though the ring takes no record, which R41 does not say (log entry 112). -/
def State.postNow (s : State) (q : Option Nat) (src code info0 info1 : Nat) (intr : Bool) : State :=
  match q with
  | none => s.errLog 5 0 5 code 1 info0 info1
  | some q =>
    let k := s.queue q
    let d := s.ringAt q
    let s := s.demandHome [d]
    let (lo, s) := s.homeVal d 8
    let (hi, s) := s.homeVal (d + 8) 8
    let base := fld lo 12 40 * 4096
    let ok := decide (hi ≤ 8) && lo == base && (isLocal base || isHost base)
    let r := 0x100000 + k.evr * 16
    let w0 := code + src * 2 ^ 8 + q * 2 ^ 16
    let s := (s.ringPut base (hi % 16) ok true (r + 4) r (r + 8) [w0, info0, info1, s.ptime]).2
    if code ≠ 0x10 || intr then s.raiseMsi k.fn k.vec else s

/-- Whether a notice holds a record of the queue back, so that the queue's later records wait behind it (R44, R62). -/
def Notice.holds (n : Notice) (q : Option Nat) : Bool := q.isSome && (match n.event with | some e => e.1 == q | none => false)

/-- Whether an earlier notice holds back a record of a queue that follows the write-backs of some tasks (R44, R62). -/
def Notice.before (n : Notice) (q : Option Nat) (seqs : List Nat) : Bool := n.holds q || (n.back && n.seqs.any seqs.contains)

/-- Posts a record that follows the write-backs of some tasks: at once, or behind what holds it back (R44, R62), its ring's
descriptor among it (R16, R29). -/
def State.postAfter (s : State) (seqs : List Nat) (q : Option Nat) (src code info0 info1 : Nat) (intr : Bool) : State :=
  if (s.notices.any fun n => n.before q seqs) || s.ringWaits q then
    { s with notices := s.notices ++ [⟨false, seqs, 0, 0, none, 0, 0, 0, some (q, src, code, info0, info1, intr)⟩] }
  else s.postNow q src code info0 info1 intr

/-- Posts a record: at once, or behind an earlier record of its queue that waits (R44). -/
def State.postEvent (s : State) (q : Option Nat) (src code info0 info1 : Nat) (intr : Bool) : State :=
  s.postAfter [] q src code info0 info1 intr

/-! ### Timeline counters -/

def Timeline.reset : Timeline := ⟨0, 0, BitVec.allOnes 64, []⟩
/-- Table key of a counter: 4096 * die + k, which is a TLREF with reserved bits clear (R37). -/
def State.timeline (s : State) (key : Nat) : Timeline := Tab.get Timeline.reset s.tl key
def State.setTimeline (s : State) (key : Nat) (t : Timeline) : State := { s with tl := Tab.set Timeline.reset s.tl key t }
/-- Whether only hardware writes the counter (R399, R405). -/
def hwCounter (key : Nat) : Bool := decide (key % 4096 ≥ 4000)
def Timeline.failed (t : Timeline) : Bool := t.errv != BitVec.allOnes 64
/-- Matrix counter of a cluster's pair (R247). -/
def matCounter (cl : Nat) : Nat := cl / 40 * 4096 + 4000 + cl % 40 / 2

/-- INFO0 of a step's records (R42). -/
def Step.info (p : Step) : Nat := p.id.toNat + p.ref.toNat * 2 ^ 32

/-- R91: a step is missed: the record, and the step leaves the table. -/
def State.missStep (s : State) (p : Step) (info1 : Nat) : State :=
  let s := s.postEvent p.queue 2 0x21 p.info info1 false
  { s with steps := s.steps.filter fun x => x.slot != p.slot }

/-- R91: the steps a counter write meets leave the table. -/
def State.stepsOn (s : State) (key : Nat) : State :=
  let v := (s.timeline key).value
  { s with steps := s.steps.filter fun p =>
      !(p.ref.toNat == key && decide (p.n ≤ v) && decide (s.ptime ≤ p.t.toNat)) }

/-- R91: steps whose T has passed, which nothing has written since, are missed with what the counter held at T. -/
def State.lateSteps (s : State) (which : Step → Bool) : State :=
  (s.steps.filter fun p => which p && decide (p.t.toNat < s.ptime)).foldl
    (fun s p => s.missStep p (s.timeline p.ref.toNat).value.toNat) s

/-- A write of a counter, with the steps it comes too late for and those it meets (R91). -/
def State.tlWrite (s : State) (key : Nat) (t : Timeline) : State :=
  ((s.lateSteps fun p => p.ref.toNat == key).setTimeline key t).stepsOn key

/-- number() of R406; none when the numbers are used up. -/
def State.tlNumber (s : State) (key : Nat) : Option (DWord × State) :=
  let t := s.timeline key
  if t.issued = BitVec.allOnes 64 then none
  else
    let n := t.issued + 1
    some (n, s.setTimeline key { t with issued := n, out := insSorted n.toNat t.out })

/-- signal(v) of R406 applied, its wait being over. -/
def State.tlApply (s : State) (key : Nat) (v : DWord) : State :=
  let t := s.timeline key
  let mx (a b : DWord) : DWord := if a.toNat < b.toNat then b else a
  s.tlWrite key { t with value := mx t.value v, issued := mx t.issued v }

/-- Whether signal(v) must still wait. -/
def State.tlBlocked (s : State) (key : Nat) (v : DWord) : Bool := (s.timeline key).out.any fun n => decide (n ≤ v.toNat)

/-- Signals whose wait has ended are applied; those of one fibre or queue to one counter in their order (R406). -/
def State.tlDrain (s : State) : State :=
  let (s, rest, _) := s.sigs.foldl (fun (acc : State × List (Nat × DWord × List Nat) × List (Nat × List Nat)) x =>
    let (s, rest, held) := acc
    if held.contains (x.1, x.2.2) || s.tlBlocked x.1 x.2.1 then (s, rest ++ [x], (x.1, x.2.2) :: held)
    else (s.tlApply x.1 x.2.1, rest, held)) (s, [], [])
  { s with sigs := rest }

/-- retire(v) of R406. -/
def State.tlRetire (s : State) (key : Nat) (v : DWord) : State :=
  let t := s.timeline key
  let out := t.out.filter (· != v.toNat)
  let reach : Nat := match out.head? with | some m => m - 1 | none => t.issued.toNat
  (s.tlWrite key { t with out := out, value := BitVec.ofNat 64 (max t.value.toNat reach) }).tlDrain

/-- R408: the counter enters the error state with number v; its steps are missed at once (R91). -/
def State.tlFail (s : State) (key : Nat) (v : DWord) : State :=
  let t := s.timeline key
  let s := (s.lateSteps fun p => p.ref.toNat == key).setTimeline key { t with errv := if v.toNat < t.errv.toNat then v else t.errv }
  (s.steps.filter fun p => p.ref.toNat == key).foldl (fun s p => s.missStep p (2 ^ 64 - 1)) s

/-- R90: a declaration, with the status of R418: 0 in a free slot, 1 re-declared, 2 met at once, 3 missed at once,
4 rejected. `strict`: DLSTEP rejects the id of a step of another address space. A re-declaration that is met or past at once
ends like a first one, which R90 does not say (DESIGN CHOICE, log entry 92). -/
def State.declareStep (s : State) (strict : Bool) (id : Word) (ref : Half) (n t : DWord) (e : Word)
    (queue asid : Option Nat) : Nat × State :=
  let key := ref.toNat
  let s := s.lateSteps fun _ => true
  let old : Option Step := s.steps.find? fun p => p.id == id
  let foreign : Bool := match old with
    | some p => strict && p.asid != asid
    | none => false
  let slot : Option Nat := match old with
    | some p => some p.slot
    | none => (List.range 256).find? fun k => s.steps.all fun p => p.slot != k
  match slot with
  | none => (4, s)
  | some k =>
    if id = 0 ∨ key ≥ 0x4000 ∨ foreign then (4, s)
    else
      let v := (s.timeline key).value
      let p : Step := ⟨k, id, ref, n, t, e, queue, asid, BitVec.allOnes 64, false, s.ptime, [(s.ptime, v)], 0⟩
      let others := s.steps.filter fun (x : Step) => x.slot != k
      let s := { s with steps := others ++ [p] }
      if n.toNat ≤ v.toNat then (2, { s with steps := others })
      else if t.toNat < s.ptime then (3, s.missStep p v.toNat)
      else (b2n old.isSome, s)

end Sys2Proof.Machine
end

