-- ==== Sys2Proof/Machine/RegView.lean ====
section
/-!
DEFINITION. Machine/RegView.lean: what a read of the device register space returns (R5, R11, R20): stored registers and
the read-only views of other state.
-/
namespace Sys2Proof.Machine

def GBar.reset : GBar := ⟨0, 0, 0, 0, [0, 0, 0, 0], [0, 0, 0, 0], [0, 0, 0, 0]⟩
def State.gbar (s : State) (b : Nat) : GBar := Tab.get GBar.reset s.gbars b
def State.setGbar (s : State) (b : Nat) (g : GBar) : State := { s with gbars := Tab.set GBar.reset s.gbars b g }

/-- The certificate CERT_CTL.SEL selects (R56). -/
def State.cert (s : State) : List Byte := Config.certificate ((s.reg 0x600).getLsbD 0)

/-- The two edges of a die, x then y, as indices into `edges` (R8, R18). -/
def dieEdges (d : Nat) : Nat × Nat := (if d < 2 then 0 else 1, if d % 2 = 0 then 2 else 3)

/-- SPARE_STAT of a die (R18); L2_SHARED counts the slices put on a physical slice that serves another (log entry 31). -/
def State.spareStat (s : State) (d : Nat) : Nat :=
  let sp := atD s.spares d Spares.reset
  let (x, y) := dieEdges d
  let ex := atD s.edges x .full
  let ey := atD s.edges y .full
  let shared := sp.slices.length - sp.slices.eraseDups.length
  b2n (ey == .down) * 2 ^ 21 + b2n (ex == .down) * 2 ^ 20 + b2n (ey == .half) * 2 ^ 17 + b2n (ex == .half) * 2 ^ 16
    + b2n (sp.spared.any fun c => decide (c ≥ 32)) * 2 ^ 15 + b2n (sp.spared.any fun c => decide (c < 32)) * 2 ^ 14
    + b2n sp.used * 2 ^ 13 + shared * 2 ^ 8 + b2n sp.pair.isSome * 2 ^ 7 + sp.offline.length

/-- GB_CTL b (R200). -/
def GBar.word (g : GBar) : Nat := g.expect.toNat + g.count.toNat * 2 ^ 16 + g.phase.toNat * 2 ^ 32 + g.asid * 2 ^ 48

/-- Bytes 0–31 of a DG_STEP entry (R104), by 8-byte word. -/
def State.stepWord (s : State) (slot i : Nat) : Nat :=
  match s.steps.find? fun p => p.slot == slot with
  | none => 0
  | some p =>
    match i with
    | 0 => p.id.toNat + p.ref.toNat * 2 ^ 32 + p.queue.getD 0 * 2 ^ 48 + (if p.risk then 2 else 1) * 2 ^ 62
    | 1 => p.n.toNat
    | 2 => p.t.toNat
    | _ => p.proj.toNat

/-- LIMIT of R98, R103. -/
def State.teamLimit (s : State) (cl : Nat) : Nat := min (s.regFld (clOff cl + 0x18) 0 6) (s.regFld (clOff cl + 0x18) 8 6)

/-- Whether a restored team's replay list is still being read, so that its slot is not free (R277). -/
def State.restores (s : State) (r : Nat × Nat × Nat × Nat) : Bool :=
  (s.cl r.2.2.1).pend.any fun p => p.kind == .replay && p.slot == r.2.2.2

/-- Slots of a die's pool in use: those that hold a team, those of teams being restored, and those promised to one (R272, R277). -/
def State.slotsUsed (s : State) (die : Nat) : Nat :=
  (s.saved.filter fun v => v.die == die).length + (s.restoring.filter fun r => r.1 == die && s.restores r).length
    + ((List.range 40).map fun i => ((s.cl (die * 40 + i)).teams.filter fun t => t.halted && !t.ended).length).sum

/-- The value a read of the register at `off` finds. -/
def State.regView (s : State) (off : Nat) : Nat :=
  let d := off / 0x4000000
  let r := off % 0x4000000
  let st := (s.reg off).toNat
  if d ≥ 4 then 0
  else if 0x400000 ≤ r ∧ r < 0x420000 then
    let t := s.timeline (d * 4096 + (r - 0x400000) / 32)
    if r % 32 = 0 then t.value.toNat else if r % 32 = 8 then t.issued.toNat else if r % 32 = 16 then t.errv.toNat else 0
  else if r = 0x10 then s.spareStat d
  else if r = 0x1808 then st % 2 ^ 16 + (st % 2 ^ 16 - s.slotsUsed d) * 2 ^ 16
  else if 0x200000 ≤ r ∧ r < 0x228000 then
    (if r % 0x1000 = 0x154 then (s.cl (d * 40 + (r - 0x200000) / 0x1000)).xbar
     else if r % 0x1000 = 0x18 then setFld st 16 6 (s.teamLimit (d * 40 + (r - 0x200000) / 0x1000)) else st)
  else if d ≠ 0 then st
  else if r = 0x228 then st % 2 + b2n s.core.d1 * 2 ^ 8 + fld st 16 16 * 2 ^ 16
  else if r = 0x608 then s.cert.length
  else if r = 0x610 then leVal ((List.range 8).map fun i => atD s.cert (s.regFld 0x600 3 29 * 8 + i) 0)
  else if r = 0x720 then b2n s.boot.att.isSome
  else if r = 0x800 then s.ptime
  else if r = 0x810 then setFld st 0 9 s.steps.length
  else if 0xC00 ≤ r ∧ r < 0x1400 then (s.gbar ((r - 0xC00) / 8)).word
  else if 0x300000 ≤ r ∧ r < 0x302000 then s.stepWord ((r - 0x300000) / 32) (r % 32 / 8)
  else st

/-- The register that holds a byte of the register space: its offset and row. -/
def regAt (off : Nat) : Option (Nat × RegDef) :=
  match regDef (off / 8 * 8) with
  | some d => if d.width = 8 ∨ off % 8 < 4 then some (off / 8 * 8, d) else
      (match regDef (off / 4 * 4) with | some e => some (off / 4 * 4, e) | none => none)
  | none => if off % 8 < 4 then none else
      (match regDef (off / 4 * 4) with | some e => some (off / 4 * 4, e) | none => none)

/-- A byte of the register space as read; reserved offsets read 0 (R20). -/
def State.regByte (s : State) (off : Nat) : Byte :=
  match regAt off with
  | some (o, _) => BitVec.ofNat 8 (fld (s.regView o) (8 * (off - o)) 8)
  | none => 0

/-- R56: a read of CERT_DATA advances OFF by 8. -/
def State.certAdvance (s : State) : State := s.setRegFld 0x600 3 29 (s.regFld 0x600 3 29 + 1)

/-- A read of `n` bytes of the register space by a program, with the effect a read of CERT_DATA has. -/
def State.regLoad (s : State) (off n : Nat) : Nat × State :=
  let v := leVal ((List.range n).map fun i => s.regByte (off + i))
  (v, if off / 8 * 8 = 0x610 then s.certAdvance else s)

/-- A byte at its target: the register space, or memory at home. -/
def State.targetByte (s : State) (pa : Nat) : Byte := if isRegs pa then s.regByte (pa - 2 ^ 49) else s.homeByte pa

end Sys2Proof.Machine
end

