-- ==== Sys2Proof/Machine/Xlate.lean ====
section
/-!
DEFINITION. Machine/Xlate.lean: translation (R105 to R119): walks, TLB entries and generations, the outcomes of R114,
replay requests and hotness records.
-/
namespace Sys2Proof.Machine

/-- Who accesses (TYPE of R116): 0 load, 1 store, 2 atomic or reduction, 3 fetch, 4 engine read, 5 engine write. -/
abbrev Acc := Nat

/-- An outcome of R114. -/
inductive Xl where
  | ok (pa cls : Nat)
  | wait (post : Bool)
  | page
  | access
deriving DecidableEq, Repr

/-- TLB owners: cluster numbers, then 161 + die for the engines (R119, R125). -/
def engineAgent (die : Nat) : Nat := 161 + die

/-- The die an agent's requests leave from. -/
def State.agentDie (s : State) (a : Nat) : Nat := if a ≥ 161 then a - 161 else s.dieOf a

def Space.reset : Space := ⟨false, 0, 0, false, 0, 0, false⟩
def State.space (s : State) (a : Nat) : Space := Tab.get Space.reset s.spaces a
def State.setSpace (s : State) (a : Nat) (x : Space) : State := { s with spaces := Tab.set Space.reset s.spaces a x }

/-- ASID that stands for the management core's own tables (R46, R420). -/
def mcAsid : Nat := 1024
/-- SRAM of the active core (R46, R51). -/
def State.sramPa (s : State) (o : Nat) : Nat := sramBase + (if s.core.d1 then 0x200000 else 0) + o

/-- Result of a walk. -/
inductive Walk where
  | leaf (bits : Nat) (pte : DWord) (loc : Nat) (acc dirty : Nat)
  | absent (replay : Bool)
  | wait                         -- a table's line waits at its home (R16, R29)
  | bad
deriving DecidableEq, Repr

/-- A valid entry that is no leaf must have bits [10:8], [5:1] clear; RSV bits [63:52], [11] are zero in every one (R111). -/
def pteRsv (e : Nat) : Bool := fld e 52 12 != 0 || bitOf e 11
def pteFrame (e : Nat) : Nat := fld e 12 40 * 4096

/-- R112: the group of a level-3 entry with the hint, as one 64 KiB page when the hint takes effect. -/
def State.contig (s : State) (pa : Nat) : Option (DWord × Nat × Nat × Nat) :=
  let g := pa / 128 * 128
  let es := (List.range 16).map fun i => leVal (s.homeBytes (g + 8 * i) 8)
  let e0 := atD es 0 0
  let same := (List.range 16).all fun i =>
    let e := atD es i 0
    bitOf e 7 && bitOf e 0 && !pteRsv e && bitOf e 10 == bitOf e0 10 && fld e 1 6 == fld e0 1 6
      && pteFrame e == pteFrame e0 + 4096 * i
  let bits (k : Nat) : Nat := ((List.range 16).map fun i => if bitOf (atD es i 0) k then 2 ^ i else 0).sum
  if same && pteFrame e0 % 65536 == 0 then some (BitVec.ofNat 64 e0, g, bits 8, bits 9) else none

/-- Whether a frame lies in the context pool of a die (R272). -/
def State.inPool (s : State) (pa : Nat) : Bool :=
  isLocal pa && ((List.range 4).any fun d =>
    let n := s.regFld (dieOff d + 0x1808) 0 16
    let base := s.regFld (dieOff d + 0x1800) 21 31 * 2 ^ 21
    decide (n ≠ 0 ∧ base ≤ pa ∧ pa < base + n * 2 ^ 21))

/-- Whether a frame of the core's own tables names its SRAM (log entry 10). -/
def mcOwn (mc : Bool) (frame : Nat) : Bool := mc && decide (frame < 0x200000)

/-- Whether a PTE's frame is one that no PTE may name (R272). -/
def State.poolPte (s : State) (mc : Bool) (e : Nat) : Bool := !mcOwn mc (pteFrame e) && s.inPool (pteFrame e)

/-- Where the entry of a table stands that a walk reads. -/
def State.entryPa (s : State) (mc : Bool) (va lo frame : Nat) : Nat :=
  (if mcOwn mc frame then s.sramPa frame else frame) + fld va lo 9 * 8

/-- The walk of R110 to R112 from a table frame, over the levels that index bits `los`. -/
def State.walkFrom (s : State) (mc : Bool) (va : Nat) : List Nat → Nat → Walk
  | [], _ => .bad
  | lo :: rest, frame =>
    let pa := s.entryPa mc va lo frame
    if !(isLocal frame) then .bad
    else if s.lineWaits pa then .wait
    else
      let e := leVal (s.homeBytes pa 8)
      let b (i : Nat) : Nat := b2n (bitOf e i)
      if !bitOf e 0 then .absent (bitOf e 6)
      else if pteRsv e then .bad
      else if lo = 12 then
        if bitOf e 7 then
          match s.contig pa with
          | some (e0, g, a, d) => .leaf 16 e0 g a d
          | none => .leaf 12 (BitVec.ofNat 64 e) pa (b 8) (b 9)
        else .leaf 12 (BitVec.ofNat 64 e) pa (b 8) (b 9)
      else if bitOf e 7 then
        if lo = 39 then .bad
        else if fld e 12 (lo - 12) ≠ 0 then .bad
        else .leaf lo (BitVec.ofNat 64 e) pa (b 8) (b 9)
      else if fld e 8 3 ≠ 0 ∨ fld e 1 5 ≠ 0 ∨ s.poolPte mc e then .bad
      else s.walkFrom mc va rest (pteFrame e)

/-- The entries such a walk reads, as far as it comes. -/
def State.walkPas (s : State) (mc : Bool) (va : Nat) : List Nat → Nat → List Nat
  | [], _ => []
  | lo :: rest, frame =>
    let pa := s.entryPa mc va lo frame
    if !(isLocal frame) || s.lineWaits pa then []
    else
      let e := leVal (s.homeBytes pa 8)
      pa :: if !bitOf e 0 || bitOf e 7 || lo == 12 then [] else s.walkPas mc va rest (pteFrame e)

/-- The root a space walks from. -/
def State.rootOf (s : State) (asid : Nat) : Nat :=
  if asid = mcAsid then fld s.core.root.toNat 12 40 * 4096 else (s.space asid).root

/-- Where the boot ROM's first table stands in the last 64 KiB of SRAM; three more follow it (R456; log entry 10). -/
def bootTab : Nat := 0x1F0000 + Config.bootRoot % 13 * 0x1000

/-- The boot ROM's tables as words of SRAM (R456): SRAM at 0 as PHASE with RD, WR and EX, and die d's register block at
0x4000_0000 + d × 0x0400_0000 as UNCACHED with RD and WR, in 2 MiB leaves. -/
def bootEntries : List (Nat × Nat) :=
  let t (k : Nat) : Nat := bootTab + k * 0x1000
  [(t 0, t 1 + 1), (t 1, t 2 + 1), (t 1 + 8, t 3 + 1), (t 2, 0x8F)]
    ++ (List.range 128).map fun k => (t 3 + 8 * k, 2 ^ 49 + k * 0x200000 + 0xB7)

/-- The whole walk of an address. -/
def State.walk (s : State) (asid va : Nat) : Walk :=
  s.walkFrom (asid == mcAsid) va [39, 30, 21, 12] (s.rootOf asid)

/-- A walk reads its entries coherently at their home (R113), one table after the other: what is held of each is recalled, its
line's partials are merged (R135, R139, R142), and an error in HBM is found (R145). -/
def State.touchWalk (s : State) (asid va : Nat) : State :=
  (List.range 4).foldl (fun s k => match (s.walkPas (asid == mcAsid) va [39, 30, 21, 12] (s.rootOf asid))[k]? with
    | some pa => (s.demandHome [pa]).touchBy none [pa]
    | none => s) s

/-- G of a space; the core's own tables have one generation. -/
def State.gen (s : State) (asid : Nat) : Half := (s.space asid).gen

/-- Whether accesses of the space are made (R107); the core's always are. -/
def State.spaceOn (s : State) (asid : Nat) : Bool :=
  asid == mcAsid || (s.space asid).live || (s.space asid).retiring

/-- A usable TLB entry (R106). -/
def State.tlbFind (s : State) (agent asid va : Nat) : Option TlbEntry :=
  s.tlb.find? fun e => e.agent == agent && e.asid == asid && e.vpn == va / 2 ^ e.bits && e.gen == s.gen asid

/-- The L2 TLB of the die an agent's requests leave from, numbered after the engines' own (R125). -/
def State.l2Tlb (s : State) (agent : Nat) : Nat := 165 + s.agentDie agent

/-- Entries of a TLB (R119, R125). -/
def tlbSize (agent : Nat) : Nat := if agent ≥ 165 then 8192 else if agent ≥ 161 then 256 else 96

/-- An entry kept in its TLB, in place of one for the same page and, when the TLB is full, of another (log entry 110). -/
def State.tlbPut (s : State) (e : TlbEntry) (va : Nat) : State :=
  let keep := s.tlb.filter fun x => !(x.agent == e.agent && x.asid == e.asid && x.vpn == va / 2 ^ x.bits)
  let mine := keep.filter fun x => x.agent == e.agent
  if mine.length < tlbSize e.agent then { s with tlb := keep ++ [e] }
  else
    let old := mine[Config.victim s.free % mine.length]?
    { s with tlb := keep.filter (fun x => some x != old) ++ [e] }

/-- The entry an agent finds: in its own TLB, else, for a cluster, in its die's L2 TLB, whence it is copied (R125). -/
def State.tlbLook (s : State) (agent asid va : Nat) : Option TlbEntry × State :=
  match s.tlbFind agent asid va with
  | some e => (some e, s)
  | none =>
    if agent ≥ 161 then (none, s)
    else match s.tlbFind (s.l2Tlb agent) asid va with
      | some e => (some { e with agent := agent }, s.tlbPut { e with agent := agent } va)
      | none => (none, s)

/-- PA of the leaf entry, and its mask bit, for an address under a TLB entry. -/
def TlbEntry.leafOf (e : TlbEntry) (va : Nat) : Nat × Nat :=
  if e.bits = 16 then (e.loc + 8 * (va / 4096 % 16), va / 4096 % 16) else (e.loc, 0)

/-- Whether an access under an entry must set a bit of its leaf whose line waits (R16, R29, R113); kinds 1, 2 and 5 write. -/
def State.leafHeld (s : State) (e : TlbEntry) (va kind : Nat) : Bool :=
  let (pa, i) := e.leafOf va
  s.lineWaits pa && (!bitOf e.acc i || ([1, 2, 5].contains kind && !bitOf e.dirty i))

/-- The entry with a leaf bit set by an atomic OR (R113): bit 8 ACCESSED, bit 9 DIRTY. -/
def State.orLeaf (s : State) (e : TlbEntry) (va bit : Nat) : State :=
  let (pa, i) := e.leafOf va
  let has := if bit = 8 then bitOf e.acc i else bitOf e.dirty i
  if has then s
  else
    let old := leVal (s.homeBytes pa 8)
    let s := if bitOf old bit then s else s.homeWriteVal pa 8 (old + 2 ^ bit)
    let e' := if bit = 8 then { e with acc := e.acc + 2 ^ i } else { e with dirty := e.dirty + 2 ^ i }
    let up := s.l2Tlb e.agent
    { s with tlb := s.tlb.map fun x => if x = e then e' else if x = { e with agent := up } then { e' with agent := up } else x }

/-- A translation kept in the TLB after a walk (R106, R112), ACCESSED set (R113). -/
def State.tlbFill (s : State) (agent asid va : Nat) : Walk → State
  | .leaf bits pte loc acc dirty =>
    let e : TlbEntry := ⟨agent, asid, va / 2 ^ bits, bits, s.gen asid, pte, loc, acc, dirty⟩
    let s := s.tlbPut e va
    State.orLeaf (if agent ≥ 161 then s else s.tlbPut { e with agent := s.l2Tlb agent } va) e va 8
  | _ => s

/-- The ports set in a die's entry for a peer and in service (R24). -/
def State.peerPorts (s : State) (die pa : Nat) : List Nat :=
  (List.range 12).filter fun i =>
    (s.reg (peerRtOff die (fld pa 40 11))).getLsbD i && atD s.ports i .down != .down

/-- The port a die's request to a peer line takes: number (L XOR (L >> 9)) mod m of the m ports, L being PA[50:8] (R24). -/
def State.peerPort (s : State) (die pa : Nat) : Option Nat :=
  let ps := s.peerPorts die pa
  let l := fld pa 8 43
  ps[(l ^^^ l / 2 ^ 9) % ps.length]?

/-- Whether an access in a peer's address lies in a window that is open there, so that the peer makes it wait (R24, R29; log
entry 44). -/
def State.peerWaits (s : State) (pa : Nat) : Bool := isPeer pa && (Config.peerWindow pa s.free).isSome

/-- What stands between a translated address and its target: R12, R16, R21, R24, R29, R137. The link of host memory is tested
before any copy is looked for, so a PHASE access to a host line that the L1 or the RDC holds fails too while it is down, which
R21 does not say (DESIGN CHOICE, log entry 128). -/
def State.reach (s : State) (agent kind pa cls : Nat) : Xl :=
  if !frameOk pa cls then .access
  else if isSram pa then .ok pa cls
  else if isHost pa && !s.hostOk then .access
  else if isPeer pa && (s.peerPort (s.agentDie agent) pa).isNone then .access
  else if kind = 2 ∧ cls = 3 ∧ (isHost pa ∨ isRegs pa) then .access
  else if s.lineWaits pa then .wait false
  else .ok pa cls

/-- The outcome of an access under a leaf (R114, R272): permission first, then MIGRATING, then the target, which for the core's
frames below 2 MiB is its SRAM (R46; log entry 10). -/
def State.leafOut (s : State) (mc : Bool) (agent kind va bits : Nat) (pte : DWord) : Xl :=
  let e := pte.toNat
  let need := if kind = 3 then 3 else if kind = 0 ∨ kind = 4 then 1 else 2
  let cls := fld e 4 2
  let pa := pteFrame e + va % 2 ^ bits
  let own := mcOwn mc pa
  if !bitOf e need || !frameOk (pteFrame e) cls || (!own && (s.poolPte mc e || s.inPool pa)) then .access
  else if bitOf e 10 then .wait false
  else s.reach agent kind (if own then s.sramPa pa else pa) (if own then 0 else cls)

/-- Translates one access (R106, R110 to R114): by a TLB entry of the current generation, else by a walk. -/
def State.xlate (s : State) (agent asid va kind : Nat) : Xl × State :=
  if !s.spaceOn asid || decide (va ≥ 2 ^ 48) then (.access, s)
  else
    match s.tlbLook agent asid va with
    | (some e, s) =>
      let out := s.leafOut (asid == mcAsid) agent kind va e.bits e.pte
      (match out with
        | .ok .. => if s.leafHeld e va kind then (.wait false, s) else (out, s.orLeaf e va 8)
        | _ => (out, s))
    | (none, s) =>
      let s := s.touchWalk asid va
      match s.walk asid va with
      | .bad => (.access, s)
      | .wait => (.wait false, s)
      | .absent r => (if r then .wait true else .page, s)
      | .leaf bits pte loc acc dirty =>
        let out := s.leafOut (asid == mcAsid) agent kind va bits pte
        if !frameOk (pteFrame pte.toNat) (fld pte.toNat 4 2) || pte.getLsbD 10 then (out, s)
        else (out, s.tlbFill agent asid va (.leaf bits pte loc acc dirty))

/-- Whether an access fails for no other reason than that the link of its function to host memory is down (R21). -/
def State.linkFails (s : State) (agent asid va kind : Nat) : Bool :=
  !s.hostOk && (match (State.xlate { s with pcie := [true, true] } agent asid va kind).1 with
    | .ok pa _ => isHost pa
    | _ => false)

/-- Whether it lies on an UNCACHED page that its link keeps away. -/
def State.uncachedFails (s : State) (agent asid va kind : Nat) : Bool :=
  s.linkFails agent asid va kind && (match (State.xlate { s with pcie := [true, true] } agent asid va kind).1 with
    | .ok _ cls => cls == 3
    | _ => false)

/-- R113: the leaf's DIRTY before the first byte of a store commits. An entry that has left the TLB since the check is walked for
again. -/
def State.markDirty (s : State) (agent asid va : Nat) : State :=
  match s.tlbLook agent asid va with
  | (some e, s) => s.orLeaf e va 9
  | (none, s) =>
    match s.walk asid va with
    | .leaf bits pte loc acc dirty =>
      let s := s.tlbFill agent asid va (.leaf bits pte loc acc dirty)
      (match s.tlbFind agent asid va with
        | some e => s.orLeaf e va 9
        | none => s)
    | _ => s

/-- R116: the first access to an absent replayable page posts a record and makes the page outstanding. -/
def State.postReplay (s : State) (kind cl asid va : Nat) : State :=
  let vpn := va / 4096
  if asid == mcAsid || s.replays.contains (asid, vpn) || decide (s.replays.length ≥ 1024) then s
  else
    let base := s.regFld 0x910 12 40 * 4096
    let ok := isLocal base || isHost base
    let (wrote, s) := s.ringPut base (s.regFld 0x910 0 4) ok true 0x91C 0x918 0x920
      [vpn * 4096 + asid * 2 ^ 48, kind + cl * 256, s.ptime, 0]
    let s := { s with replays := s.replays ++ [(asid, vpn)] }
    if wrote then s.raiseMsi false (s.regFld 0x924 0 11) else s

/-- R124: line requests of a space with HSE = 1, each by its first address; every 2^S-th writes a record. -/
def State.hotness (s : State) (die cl asid kind : Nat) (vas : List Nat) : State :=
  let sel := s.regFld 0x980 0 5
  if sel = 0 ∨ asid = mcAsid ∨ !(s.space asid).hse then s
  else vas.foldl (fun s va =>
    let n := atD s.hs die 0 + 1
    let s := { s with hs := modAt s.hs die fun _ => n }
    if n % 2 ^ sel ≠ 0 then s
    else
      let base := s.regFld 0x988 12 40 * 4096
      (s.ringPut base (s.regFld 0x988 0 4) (isLocal base || isHost base) true 0x994 0x990 0x998
        [va + asid * 2 ^ 48, kind + cl * 256 + die * 2 ^ 24, s.ptime, 0]).2) s

/-- Bytes an engine or the front end accesses at home through translation, line by line: none while a page or a line fails or
waits; with the address of the first that does. -/
def State.engineXlate (s : State) (agent asid va n kind : Nat) : Xl × Nat × State :=
  let lines := (List.range ((va % 256 + n + 255) / 256)).map fun i => if i = 0 then va else (va / 256 + i) * 256
  lines.foldl (fun acc v =>
    match acc.1 with
    | .ok pa cls =>
      let (x, s) := acc.2.2.xlate agent asid v kind
      (match x with
        | .ok p c => (if v = va then .ok p c else .ok pa cls, va, s)
        | y => (y, v, s))
    | _ => acc) (.ok 0 0, va, s)

/-- A byte an agent reads at home through translation; 0 where it does not translate. -/
def State.engineByte (s : State) (agent asid va kind : Nat) : Byte × Bool × State :=
  match s.xlate agent asid va kind with
  | (.ok pa _, s) =>
    let s := (s.demandHome [pa]).touchBy none [pa]
    (s.targetByte pa, s.poisoned pa, s)
  | (_, s) => (0, false, s)

/-- Consecutive bytes an agent reads at home through translation, and whether one lies in a poisoned sector. -/
def State.engineBytes (s : State) (agent asid va n kind : Nat) : List Byte × Bool × State :=
  (List.range n).foldl (fun (acc : List Byte × Bool × State) i =>
    let (b, p, s) := acc.2.2.engineByte agent asid (va + i) kind
    (acc.1 ++ [b], acc.2.1 || p, s)) ([], false, s)

end Sys2Proof.Machine
end

