-- ==== Sys2Proof/Machine/Space.lean ====
section
/-!
DEFINITION. Machine/Space.lean: address-space commands and bumps (R105 to R108), replay answers (R117), migration (R120)
and class changes (R144).
-/
namespace Sys2Proof.Machine

/-! ### ASCMD (R107) -/

/-- The result fields of ASCMD: BUSY, ERR and GEN. -/
def State.asResult (s : State) (busy : Bool) (err : Nat) (gen : Half) : State :=
  s.setReg 0x908 (BitVec.ofNat 64 ((s.reg 0x908).toNat % 2 ^ 12 + gen.toNat * 2 ^ 12 + err * 2 ^ 28 + b2n busy * 2 ^ 31))

def State.asBusy (s : State) : Bool := (s.reg 0x908).getLsbD 31

/-- Where the space table's entry of an ASID stands (R105). -/
def State.asAt (s : State) (asid : Nat) : Nat := s.regFld 0x900 16 36 * 65536 + asid * 64

/-- The space table's entry of an ASID (R105): root, HSE, RECBASE and RGENBASE, unless a check of ACTIVATE fails. -/
def State.asEntry (s : State) (asid : Nat) : Option (Nat × Bool × Nat × Nat) :=
  let at' := s.asAt asid
  let w (i : Nat) : Nat := leVal (s.homeBytes (at' + 8 * i) 8)
  let w0 := w 0
  let rsv := fld w0 52 12 != 0 || fld w0 2 10 != 0 || bitOf w0 0 || fld (w 1) 48 16 != 0 || fld (w 2) 48 16 != 0
    || [3, 4, 5, 6, 7].any fun i => w i != 0
  let root := fld w0 12 40 * 4096
  if rsv || !isLocal root then none else some (root, bitOf w0 1, fld (w 1) 0 48, fld (w 2) 0 48)

/-- Step 1 of a bump (R108). -/
def State.bumpStart (s : State) (asid : Nat) : State :=
  let x := s.space asid
  s.setSpace asid { x with gen := x.gen + 1 }

/-- A bump is asked for: it begins at once unless an earlier one of the space runs (R108). -/
def State.bumpAsk (s : State) (asid : Nat) (who : BumpFor) : State :=
  let idle := s.bumps.all fun b => b.1 != asid
  let s := { s with bumps := s.bumps ++ [(asid, who)] }
  if idle then s.bumpStart asid else s

/-- ACTIVATE and BUMP with the space's entry read (R107, R145). -/
def State.ascmdEntry (s : State) (op asid : Nat) : State :=
  let x := s.space asid
  let s := (s.demandHome [s.asAt asid]).touchBy none [s.asAt asid]
  match s.asEntry asid with
  | none => s.asResult false 3 x.gen
  | some (root, hse, rb, gb) =>
    if op = 1 then
      (s.setSpace asid { live := true, gen := 0, root := root, hse := hse, recbase := rb, rgenbase := gb, retiring := false }).asResult
        false 0 0
    else
      let s := s.setSpace asid { x with root := root, hse := hse, recbase := rb, rgenbase := gb }
      let s := s.bumpAsk asid .ascmd
      s.asResult true 0 (s.space asid).gen

/-- ASCMD: the command in OP on the space in ASID; ignored while BUSY. One whose entry waits at its home stays BUSY until it has
been read (R16, R29). -/
def State.ascmd (s : State) (op asid : Nat) : State :=
  if s.asBusy then s
  else
    let s := s.setReg 0x908 (BitVec.ofNat 64 (setFld (setFld (s.reg 0x908).toNat 0 10 asid) 10 2 op))
    let x := s.space asid
    match op with
    | 0 => s.asResult false (if x.live then 0 else 1) x.gen
    | 3 =>
      if !x.live then s.asResult false 1 x.gen
      else (s.setSpace asid { x with live := false, retiring := true }).asResult true 0 x.gen
    | o =>
      if o = 1 ∧ x.live then s.asResult false 2 x.gen
      else if o = 2 ∧ !x.live then s.asResult false 1 x.gen
      else if s.lineWaits (s.asAt asid) then s.asResult true 0 x.gen
      else s.ascmdEntry o asid

/-- An ACTIVATE or BUMP whose entry has waited goes on. -/
def State.ascmdResume (s : State) : State :=
  let asid := s.regFld 0x908 0 10
  let op := s.regFld 0x908 10 2
  if !s.asBusy || op == 0 || op == 3 || s.bumps.any (fun b => b.1 == asid && b.2 == .ascmd) || s.lineWaits (s.asAt asid) then s
  else s.ascmdEntry op asid

/-- Whether a task of a space is incomplete (R63). -/
def Task.open (t : Task) : Bool :=
  match t.state with
  | .pending => true
  | .ready => true
  | .running => true
  | .faulted => true
  | _ => false

/-- Whether a prefetch of the space is outstanding. -/
def State.prefOf (s : State) (asid : Nat) : Bool :=
  s.clusters.any fun k => k.pend.any fun p => match p.pay with | .pref _ a _ _ _ => a == asid | _ => false

/-- The end of a RETIRE (R107): no incomplete task and no request of the space is left, write-backs of its TCBs and prefetches
among them. -/
def State.retireComplete (s : State) : State :=
  let asid := s.regFld 0x908 0 10
  let x := s.space asid
  let teams := s.clusters.any fun k => k.teams.any fun t => t.asid == asid && !t.mc
  let busy := s.tasks.any (fun t => t.asid == asid && t.open) || teams || s.xfers.any (fun t => t.asid == asid)
    || s.saved.any (fun v => v.team.asid == asid) || s.memattr.any (fun m => m.asid == asid)
    || s.bumps.any (fun b => b.1 == asid) || s.notices.any (fun n => n.back && n.asid == asid) || s.prefOf asid
  if !x.retiring || busy then s
  else
    let s := s.setSpace asid Space.reset
    let s := { s with tlb := s.tlb.filter fun (e : TlbEntry) => e.asid != asid }
    s.asResult false 0 x.gen

/-! ### Leaves of a range -/

/-- The level-3 leaf or larger leaf of a page: its bits, entry address and value. -/
def State.leafAt (s : State) (asid va : Nat) : Option (Nat × Nat × Nat) :=
  match s.walk asid va with
  | .leaf 16 _ loc _ _ => let pa := loc + 8 * (va / 4096 % 16); some (16, pa, leVal (s.homeBytes pa 8))
  | .leaf b pte loc _ _ => some (b, loc, pte.toNat)
  | _ => none

/-- Whether the walk of a page of a range waits at a table's home (R16, R29). -/
def State.leavesWait (s : State) (asid base pages : Nat) : Bool :=
  (List.range pages).any fun i => s.walk asid (base + 4096 * i) == .wait

/-- The distinct leaves of a range of pages: entry address and bits. -/
def State.leavesOf (s : State) (asid base pages : Nat) : List (Nat × Nat) :=
  ((List.range pages).filterMap fun i => (s.leafAt asid (base + 4096 * i)).map fun l => (l.2.1, l.1)).eraseDups

/-- A PTE rewritten at home. -/
def State.modPte (s : State) (pa : Nat) (g : Nat → Nat) : State :=
  let (e, s) := s.homeVal pa 8
  s.homeWriteVal pa 8 (g e)

/-- Whether a physical byte lies in a page of the range. -/
def State.inRange (s : State) (asid base pages pa : Nat) : Bool :=
  (s.leavesOf asid base pages).any fun l =>
    let b := if l.2 = 16 then 12 else l.2
    pa / 2 ^ b == pteFrame (leVal (s.homeBytes l.1 8)) / 2 ^ b

/-! ### Class changes (R144) -/

/-- A range whose ends split a larger leaf, or with a page of V = 0, is refused (R40). So is one with a page whose walk breaks
R111 although V = 1, which R40 does not name (DESIGN CHOICE, log entry 69). -/
def State.attrOk (s : State) (asid base pages : Nat) : Bool :=
  (List.range pages).all fun i =>
    match s.leafAt asid (base + 4096 * i) with
    | none => false
    | some (b, _, _) =>
      let b := if b = 16 then 12 else b
      let va := base + 4096 * i
      let lo := va / 2 ^ b * 2 ^ b
      decide (base ≤ lo ∧ lo + 2 ^ b ≤ base + 4096 * pages)

/-- Step 1: MIGRATING in every leaf, and a bump. -/
def State.attrStart (s : State) (m : MemAttr) : State :=
  let s := (s.leavesOf m.asid m.base m.pages).foldl (fun s l => s.modPte l.1 fun e => if bitOf e 10 then e else e + 2 ^ 10) s
  { s with memattr := s.memattr ++ [m] }.bumpAsk m.asid (.memattr m.k)

/-- Steps 2 and 3, and the second bump. -/
def State.attrMiddle (s : State) (m : MemAttr) : State :=
  let here := s.inRange m.asid m.base m.pages
  let s := s.writebackAll (fun a _ => here a) fun _ => false
  let lines := ((s.partials.filter fun p => here p.pa).map (·.pa / 256)).eraseDups
  let s := lines.foldl (fun s l => s.mergeLine l none) s
  let svt := s.svt.map fun e => if here (e.word * 8) then (match e.scope with
    | .cluster _ => { e with scope := .wide }
    | _ => e) else e
  let out (x : Sector) : Bool := !here (x.no * 64)
  let s := (List.range 161).foldl (fun s c => (s.dropPref c fun n => here (n * 64)).modCl c fun k =>
    { k with clean := k.clean.filter out }) s
  let s := { s with svt := svt, dir := s.dir.filter (fun e => !here (e.line * 256)), rdc := s.rdc.map fun (l : List Sector) => l.filter out }
  let s := (s.leavesOf m.asid m.base m.pages).foldl (fun s l => s.modPte l.1 fun e => setFld (setFld e 4 2 m.cls) 10 1 0) s
  { s with memattr := s.memattr.map fun x => if x = m then { x with second := true } else x }.bumpAsk m.asid (.memattr m.k)

/-! ### Migration (R120, R121) -/

def State.migEnd (s : State) (err : Nat) : State :=
  let c := (s.reg 0x950).toNat
  let s := s.setReg 0x950 (BitVec.ofNat 64 (setFld (setFld (setFld c 28 2 err) 30 1 1) 31 1 0))
  { s with mig := none }.raiseMsi false (fld c 14 11)

/-- The checks of R120, then step 1; the checks wait with the lines of the tables (R16, R29). -/
def State.migBegin (s : State) (m : Migration) : State :=
  let badPage (i : Nat) : Bool := match s.leafAt m.asid ((m.vpn + i) * 4096) with
    | some (12, _, e) => bitOf e 10
    | _ => true
  if !(s.space m.asid).live then s.migEnd 3
  else if s.leavesWait m.asid (4096 * m.vpn) m.count then s
  else if (List.range m.count).any badPage then s.migEnd 1
  else if (List.range m.count).any (fun i => !isLocal (m.frame + 4096 * i)) then s.migEnd 2
  else
    let s := (List.range m.count).foldl (fun s i => match s.leafAt m.asid ((m.vpn + i) * 4096) with
      | some (_, pa, _) => s.modPte pa (· + 2 ^ 10)
      | none => s) s
    { s with mig := some { m with begun := true } }.bumpAsk m.asid .migration

/-- GO (R120). -/
def State.migStart (s : State) : State :=
  if s.mig.isSome then s
  else
    let m : Migration := ⟨s.regFld 0x940 48 10, s.regFld 0x940 12 36, s.regFld 0x948 12 40 * 4096, s.regFld 0x950 1 9 + 1,
      false, false⟩
    (State.setRegFld { s with mig := some m } 0x950 31 1 1).migBegin m

/-- A migration whose checks have waited goes on. -/
def State.migResume (s : State) : State :=
  match s.mig with
  | some m => if m.begun then s else s.migBegin m
  | none => s

/-- Every copy of a frame in a cache is dropped, instruction caches among them: what it held before is not hit there once a page
has moved in (R171). -/
def State.dropFrame (s : State) (frame : Nat) : State :=
  let here (n : Nat) : Bool := n / 64 == frame / 4096
  let s := (List.range 161).foldl (fun s c => if ((s.cl c).clean ++ (s.cl c).icache).any fun x => here x.no then
      (s.dropPref c here).modCl c fun k => { k with
        clean := k.clean.filter fun x => !here x.no
        icache := k.icache.filter fun x => !here x.no }
    else s) (s.recall none ((List.range 4096).map (frame + ·)))
  { s with rdc := s.rdc.map fun (l : List Sector) => l.filter fun x => !here x.no }

/-- One page moved (steps 2 and 3): its bytes and its poison, then the new FRAME with MIGRATING clear. -/
def State.migPage (s : State) (m : Migration) (i : Nat) : State :=
  match s.leafAt m.asid ((m.vpn + i) * 4096) with
  | none => s
  | some (_, pa, e) =>
    let old := pteFrame e
    let new := m.frame + 4096 * i
    let s := ((s.demandHome ((List.range 64).map fun j => old + 64 * j)).touchBy none
      ((List.range 4096).map (old + ·))).dropFrame new
    let bytes := s.homeBytes old 4096
    let bad := (List.range 64).filter fun j => s.poisoned (old + 64 * j)
    let s := s.homePut (cellsAt new bytes)
    let s := bad.foldl (fun s j => s.setPois (new / 64 + j) true) s
    s.modPte pa fun e => setFld (setFld e 12 40 (new / 4096)) 10 1 0

/-- Whether a line that a migration reads or writes in step 2 or 3 waits at its home (R16, R29). -/
def State.migWaits (s : State) (m : Migration) : Bool :=
  s.leavesWait m.asid (4096 * m.vpn) m.count || (List.range m.count).any fun i =>
    match s.leafAt m.asid ((m.vpn + i) * 4096) with
    | none => false
    | some (_, _, e) => (List.range 16).any fun j => s.lineWaits (pteFrame e + 256 * j) || s.lineWaits (m.frame + 4096 * i + 256 * j)

/-- Steps 2 and 3 of a migration, and the second bump. -/
def State.migMiddle (s : State) (m : Migration) : State :=
  let s := (List.range m.count).foldl (fun s i => s.migPage m i) s
  { s with mig := some { m with second := true } }.bumpAsk m.asid .migration

/-! ### Bumps (R108) -/

/-- Whether what follows a bump must wait with a line at its home (R16, R29): the rewriting of leaves, the copy of pages. -/
def State.afterWaits (s : State) : BumpFor → Bool
  | .ascmd => false
  | .memattr n => (match s.memattr.find? fun m => m.k == n with
    | some m => !m.second && s.leavesWait m.asid m.base m.pages
    | none => false)
  | .migration => (match s.mig with
    | some m => !m.second && s.migWaits m
    | none => false)

/-- Steps 2 to 4 of the bump at place `k` of the list, if it is its space's oldest and every dirty byte and partial can go home; the
next one of the space then starts. REPL updates reach every die, so that the frames hold every byte written through them, and entries
of the old generation leave the TLBs, so that the wrap of G meets none. -/
def State.bumpFinish (s : State) (k : Nat) : State :=
  match s.bumps[k]? with
  | none => s
  | some (asid, who) =>
    if (s.bumps.take k).any (fun b => b.1 == asid) || (List.range 161).any (fun c => s.unflushed c fun _ a => a == asid)
        || s.partialsHeld (· == asid) || s.afterWaits who then s
    else
      let s := s.replAll.writebackAll (fun _ a => a == asid) (· == asid)
      let s := { s with
        bumps := s.bumps.eraseIdx k
        tlb := s.tlb.filter fun (e : TlbEntry) => e.asid != asid || e.gen == (s.space asid).gen }
      let s := if s.bumps.any (fun b => b.1 == asid) then s.bumpStart asid else s
      match who with
      | .ascmd => s.asResult false 0 (s.space asid).gen
      | .memattr n => (match s.memattr.find? fun m => m.k == n with
        | some m => if m.second then { s with memattr := s.memattr.filter fun x => x.k != n } else s.attrMiddle m
        | none => s)
      | .migration => (match s.mig with
        | some m => if m.second then { s with mig := some { m with count := 0 } } else s.migMiddle m
        | none => s)

/-- Step 4 of a migration: the second bump is over, so DONE is set and VEC raised (R121). -/
def State.migFinish (s : State) : State :=
  match s.mig with
  | some m => if m.second && m.count == 0 then s.migEnd 0 else s
  | none => s

/-! ### Replay answers (R117) -/

def State.rplAnswer (s : State) (v : Nat) : State :=
  { s with replays := s.replays.filter fun p => p != (fld v 48 10, fld v 12 36) }

end Sys2Proof.Machine
end

