-- ==== Sys2Proof/Machine/TaskState.lean ====
section
/-!
DEFINITION. Machine/TaskState.lean: task states and their write-back (R62, R63), and a task's fault (R80).
-/
namespace Sys2Proof.Machine

/-- STATE encodings (R63). -/
def TaskState.code : TaskState → Nat
  | .pending => 0
  | .ready => 1
  | .running => 2
  | .done => 3
  | .faulted => 4
  | .cancelled => 5
  | .skipped => 6

/-- DONE, SKIPPED and CANCELLED are complete (R63). -/
def TaskState.complete : TaskState → Bool
  | .done => true
  | .cancelled => true
  | .skipped => true
  | _ => false

/-- The agent of the front end, on D0. -/
def frontEnd : Nat := engineAgent 0

/-- Bytes the front end writes through translation at home; none while a page waits, dropped where it fails (R62). -/
def State.fePut (s : State) (asid va : Nat) (bs : List Byte) : Xl × State :=
  let (x, _, s) := s.engineXlate frontEnd asid va bs.length 5
  match x with
  | .ok _ _ =>
    ((List.range bs.length).zip bs).foldl (fun acc b =>
      match acc.2.xlate frontEnd asid (va + b.1) 5 with
      | (.ok pa _, s) => (acc.1, (s.markDirty frontEnd asid (va + b.1)).homePutBy [(pa, b.2)])
      | (_, s) => (acc.1, s)) (x, s)
  | _ => (x, s)

/-- The write-back of a notice (R62): FCAUSE, STATE and FTEAM, and a LOOP's ITER; whether its page lets it through. -/
def State.noticeBack (s : State) (n : Notice) : Bool × State :=
  if !n.back then (true, s)
  else
    let word := [BitVec.ofNat 8 n.cause, BitVec.ofNat 8 n.state]
    let (x, s) := s.fePut n.asid (n.tcba + 38) word
    match x with
    | .wait post => (false, if post then s.postReplay 5 0xFFFF n.asid n.tcba else s)
    | _ =>
      let s := (s.fePut n.asid (n.tcba + 30) (leBytes 2 n.team)).2
      (true, match n.ctl with
        | none => s
        | some i => (s.fePut n.asid (n.tcba + 12) (leBytes 4 i)).2)

/-- One notice against those held before it: its write-back behind an earlier one of the same TCB, its record behind an earlier
one of the same queue (R44, R62). -/
def State.noticeOne (s : State) (n : Notice) : State :=
  let hold (s : State) (n : Notice) : State := { s with notices := s.notices ++ [n] }
  if n.back && s.notices.any (fun m => m.back && m.asid == n.asid && m.tcba == n.tcba) then hold s n
  else
    let (done, s) := s.noticeBack n
    if !done then hold s n
    else match n.event with
      | none => s
      | some (q, src, code, i0, i1, intr) =>
        if s.notices.any (fun m => m.before q (if n.back then [] else n.seqs)) || s.ringWaits q then hold s { n with back := false, seqs := [] } else s.postNow q src code i0 i1 intr

/-- The notices that nothing holds back any longer are carried out, in order. -/
def State.drainNotices (s : State) : State := s.notices.foldl State.noticeOne { s with notices := [] }

def State.notify (s : State) (n : Notice) : State := { s with notices := s.notices ++ [n] }.drainNotices

/-- A task changed in the window. -/
def State.modTask (s : State) (seq : Nat) (g : Task → Task) : State :=
  { s with tasks := s.tasks.map fun t => if t.seq = seq then g t else t }

def State.task? (s : State) (seq : Nat) : Option Task := s.tasks.find? fun t => t.seq == seq

/-- The write-back of a task's present state with the record its change causes (R62); a COPY has no TCB. -/
def State.reportTask (s : State) (seq : Nat) (event : Option (Nat × Bool)) : State :=
  match s.task? seq with
  | none => s
  | some t =>
    let info := match t.copy with
      | some j => (j.dst, t.head.toNat)
      | none => (t.tcba, 0)
    let ev := event.map fun e => (t.queue, 1, e.1, info.1, info.2, e.2)
    match t.copy with
    | some _ => (match ev with
      | some (q, src, code, i0, i1, intr) => s.postEvent q src code i0 i1 intr
      | none => s)
    | none =>
      let ctl := match t.tcb.kind with
        | .loop => some t.iter
        | _ => none
      s.notify ⟨true, [t.seq], t.asid, t.tcba, ctl, t.state.code, t.fcause.toNat, t.fteam.toNat, ev⟩

/-- A task enters a state, with its write-back. -/
def State.enterState (s : State) (seq : Nat) (st : TaskState) : State :=
  (s.modTask seq fun t => { t with state := st }).reportTask seq none

/-- The contexts of a resident team are discarded: its cohorts, outstanding results and fibres go; what its matrix queue
holds retires (R80, R248), and its resources stay held until R249 frees them. -/
def State.discardTeam (s : State) (cl slot : Nat) : State :=
  let s := s.modCl cl fun k => { k with
    cohorts := k.cohorts.filter fun h => h.team != slot
    pend := k.pend.filter fun p => p.kind == .pref || p.slot != slot
    phases := k.phases.filter fun p => p.slot != slot }
  s.modTeam cl slot fun t => { t with ended := true, fibres := t.fibres.map fun f => { f with live := false, wait := .none } }

/-- Every resident team of a task, by cluster and slot. -/
def State.teamsOf (s : State) (seq : Nat) : List (Nat × Nat) :=
  (((List.range s.clusters.length).zip s.clusters).map fun (c, k) =>
    (k.teams.filter fun t => t.seq == seq && !t.mc).map fun t => (c, t.slot)).flatten

/-- R80, items 1 to 3: a task becomes FAULTED, its resident and saved teams are discarded, and the record posted. -/
def State.faultNow (s : State) (seq cause team : Nat) : State :=
  match s.task? seq with
  | none => s
  | some t =>
    if t.state ≠ .running ∧ t.state ≠ .ready then s
    else
      let s := (s.teamsOf seq).foldl (fun s p => s.discardTeam p.1 p.2) s
      let s := { s with saved := s.saved.filter fun v => v.team.seq != seq }
      let s := s.modTask seq fun t => { t with
        state := .faulted
        fault := none
        fcause := BitVec.ofNat 8 cause
        fteam := BitVec.ofNat 16 team }
      s.reportTask seq (some (0x11, false))

/-- R80: a team faults its task. Its fibres stop; the first cause is recorded, that of the lower team index among those of one
nanosecond of package time, and the task becomes FAULTED when that nanosecond is over (State.settleFaults). -/
def State.faultTask (s : State) (seq cause team : Nat) : State :=
  match s.task? seq with
  | none => s
  | some t =>
    if t.state ≠ .running ∧ t.state ≠ .ready then s
    else
      let mine := (s.teamsOf seq).filter fun p => match s.team? p.1 p.2 with | some x => x.index == team | none => false
      let s := mine.foldl (fun s p => s.discardTeam p.1 p.2) s
      let first := match t.fault with
        | some (c, m, at') => if at' = s.ptime ∧ team < m then (cause, team, at') else (c, m, at')
        | none => (cause, team, s.ptime)
      s.modTask seq fun t => { t with fault := some first }

/-- Tasks whose fault lies in an earlier nanosecond become FAULTED (R80). -/
def State.settleFaults (s : State) : State :=
  s.tasks.foldl (fun s t => match t.fault with
    | some (cause, team, at') => if at' < s.ptime then s.faultNow t.seq cause team else s
    | none => s) s

end Sys2Proof.Machine
end

