-- ==== Sys2Proof/Machine/Ops.lean ====
section
/-!
DEFINITION. Machine/Ops.lean: the named operations over fibres and cohorts: registers and pending results (R290 to R294),
the pool and dissolution (R180, R184), waits and their releases (R186 to R200), poison origins (R217), instruction fetch
and pad checks (R287, R354), taking a trap (R263 to R268) and returning from one (R269), and the management core's
interrupts, double faults and takeover (R46 to R51).
-/
namespace Sys2Proof.Machine

/-! ### Registers of a fibre -/

/-- Register n; vz reads 0, full and unpoisoned (R203). -/
def Fibre.reg (f : Fibre) (n : Nat) : VReg := if n = 255 then VReg.of 0 else atD f.v n (VReg.of 0)
/-- Register n written; vz discards (R203). -/
def Fibre.setReg (f : Fibre) (n : Nat) (r : VReg) : Fibre := if n = 255 then f else { f with v := modAt f.v n fun _ => r }
/-- Predicate n; p7 reads true, unpoisoned (R204). -/
def Fibre.pred (f : Fibre) (n : Nat) : Pred := if n % 8 = 7 then ⟨true, none⟩ else atD f.p (n % 8) ⟨false, none⟩
/-- Predicate n written; p7 discards (R204). -/
def Fibre.setPred (f : Fibre) (n : Nat) (r : Pred) : Fibre := if n % 8 = 7 then f else { f with p := modAt f.p (n % 8) fun _ => r }
/-- A result written. -/
def Fibre.apply (f : Fibre) : Dst → Fibre
  | .v n r => f.setReg n r
  | .p n r => f.setPred n r
  | .x n r => { f with x := modAt f.x (n % 4) fun _ => r }

/-- Whether a latch entry holds a register. -/
def Latch.holds (e : Latch) (r : Nat) : Bool := decide (e.reg ≤ r ∧ r < e.reg + e.n)

/-- A cohort's latched registers that are written are dropped (R210). -/
def State.unlatch (s : State) (c id : Nat) (regs : List Nat) : State :=
  s.modCl c fun k => { k with latches := k.latches.map fun l => l.filter fun e => !(e.cohort == id && regs.any e.holds) }

/-- A cohort's latch entries are dropped (R210). -/
def State.unlatchAll (s : State) (c id : Nat) : State :=
  s.modCl c fun k => { k with latches := k.latches.map fun l => l.filter fun e => e.cohort != id }

/-- The vector registers among results. -/
def lateRegs (l : List Late) : List Nat := l.filterMap fun x => match x.dst with | .v n _ => some n | _ => none

/-- The register writes of some results, one write-back, seen by the uniform tags (R211): what was stored once of a register written
is expanded, and a register that gets one value in every fibre written may be stored once. -/
def Team.retag (t : Team) (ws : List (Nat × Nat × VReg)) (share : Nat → Bool) : Team :=
  let of (r : Nat) : List (Nat × VReg) := (ws.filter fun w => w.1 == r).map (·.2)
  let one (l : List (Nat × VReg)) : Bool := match l with
    | [] => false
    | x :: rest => rest.all fun y => y.2 == x.2
  { t with uni := (t.uni.filter fun u => !ws.any fun w => w.1 == u.1 && u.2.contains w.2.1)
      ++ ((ws.map (·.1)).eraseDups.filter fun r => one (of r) && share r).map fun r => (r, (of r).map (·.1)) }

/-- The vector registers among results, with the fibre and the value of each. -/
def lateWrites (l : List Late) : List (Nat × Nat × VReg) :=
  l.filterMap fun x => match x.dst with | .v n r => if n = 255 then none else some (n, x.fibre, r) | _ => none

/-- Pending results of a cohort that land at or before a distance are written, nearest first; with none, all (R292 to R294). -/
def State.land (s : State) (c id : Nat) (upto : Option Nat) : State :=
  match s.cohort? c id with
  | none => s
  | some co =>
    let due (l : Late) : Bool := match upto with | some d => decide (l.land ≤ d) | none => true
    let now := sortBy (fun a b => decide (a.land < b.land)) (co.late.filter due)
    if now.isEmpty then s
    else
      let s := now.foldl (fun s l => s.modFibre c co.team l.fibre fun f => f.apply l.dst) s
      let s := s.modTeam c co.team fun t => t.retag (lateWrites now) (Config.uniformTag s.free)
      (s.unlatch c id (lateRegs now)).modCohort c id fun k => { k with late := k.late.filter fun l => !due l }

/-- Register n of a fibre as a debugger reads it: as it will stand once every pending result has landed (R211, R294). -/
def State.debugReg (s : State) (c slot f n : Nat) : VReg :=
  let late := (s.cl c).cohorts.flatMap fun h => if h.team = slot then h.late.filter fun l => l.fibre == f else []
  ((sortBy (fun a b => decide (a.land < b.land)) late).foldl (fun y l => y.apply l.dst) (s.fibre c slot f)).reg n

/-! ### The pool and dissolution -/

/-- A fibre enters the pool at `pc` (R180); released ones enter in the next cycle (R201). -/
def State.toPool (s : State) (c slot f : Nat) (pc : Addr) (rel : Rel) (delay : Nat) : State :=
  s.modFibre c slot f fun x => { x with pc := pc, wait := .none, rel := rel, entered := (s.cl c).cycle + delay }

/-- Pending results are written and the cohort dissolves (R184, R294). A FIXED cohort is not disbanded: its paths split and park,
which is no dissolution, so its results stay pending (R191, R430). -/
def State.dissolve (s : State) (c id : Nat) : State :=
  match s.cohort? c id with
  | none => s
  | some co =>
    if co.fixed.isSome then s.modCohort c id fun k => { k with blocked := none }
    else (((s.land c id none).unlatchAll c id).countCl c 0x148 1).dropCohort c id

/-- One unit of distance and STALL pass for a cohort; nothing more of it issues for STALL cycles of the slice's pipeline, which run
from the end of the operand phase (R193, R291). -/
def State.passed (s : State) (x : Ctx) (stall : Nat) : State :=
  s.modCohort x.c x.co.id fun k => { k with dist := k.dist + 1 + stall, rest := (k.rest.1, stall), blocked := none }

/-- An instruction issued that dissolves its cohort; a FIXED cohort only goes on from it (R184, R294, R430). -/
def State.disband (s : State) (x : Ctx) (stall : Nat) : State := (s.dissolve x.c x.co.id).passed x stall

/-- The cohort goes on: every fibre of the issue at its next address. -/
def State.goOn (s : State) (x : Ctx) (stall : Nat) (next : Nat → Addr) : State :=
  (x.fs.foldl (fun s f => s.modFibre x.c x.co.team f fun y => { y with pc := next f }) s).passed x stall

/-- Each fibre of the issue enters the pool at its own next address. -/
def State.allToPool (s : State) (x : Ctx) (next : Nat → Addr) : State :=
  x.fs.foldl (fun s f => s.toPool x.c x.co.team f (next f) .plain 0) s

/-- The cohort dissolves and each fibre of the issue enters the pool at its own next address. -/
def State.scatter (s : State) (x : Ctx) (stall : Nat) (next : Nat → Addr) : State := (s.disband x stall).allToPool x next

/-- D1 and D2: together when every next address is equal, else dissolved (R184, R352). -/
def State.transfer (s : State) (x : Ctx) (stall : Nat) (next : Nat → Addr) : State :=
  match x.fs with
  | [] => s
  | f :: r => if r.all fun g => next g == next f then s.goOn x stall next else s.scatter x stall next

/-! ### Waits and their releases -/

/-- Live members of a set (M of R195). -/
def Team.count (t : Team) (s : Nat) : Nat := (t.members s).length

/-- R195, R197: phases completed by arrivals. -/
def SetBar.step (b : SetBar) (m : Nat) : SetBar :=
  if m = 0 then { b with a := 0 } else ⟨b.p + BitVec.ofNat 16 (b.a / m), b.a % m⟩

/-- (P − L) mod 2^16 between 1 and 32,767 (R196, R199). -/
def phasePast (p l : Half) : Bool := decide (1 ≤ (p - l).toNat ∧ (p - l).toNat ≤ 32767)

/-- A parked fibre released. -/
def Fibre.wake (f : Fibre) (cycle : Nat) (rel : Rel) : Fibre := { f with wait := .none, rel := rel, entered := cycle + 1 }

/-- Set s: its barrier's phases, the fibres they release, and a completed CSYNC (R186, R195, R196). -/
def Team.settleSet (t : Team) (cycle id s : Nat) : Team :=
  let b := (atD t.bars s ⟨0, 0⟩).step (t.count s)
  let t := { t with bars := modAt t.bars s fun _ => b }
  let wake (f : Fibre) : Fibre :=
    if f.live && (f.wait == .bar s) && (!f.sets.getLsbD s || phasePast b.p (atD f.lph s 0)) then
      let f := (if f.sets.getLsbD s then { f with lph := modAt f.lph s (· + 1) } else f)
      f.wake cycle (if f.sets.getLsbD s then .bar s (id + 32 + s) else .plain)
    else f
  let t := { t with fibres := t.fibres.map wake }
  let ms := t.members s
  if !ms.isEmpty && (ms.all fun f => (t.fibre f).wait == .csync s) then
    { t with fibres := t.fibres.map fun f => if f.live && f.wait == .csync s then f.wake cycle (.csync s (id + 16 + s)) else f }
  else t

/-- A join slot at zero (R188). -/
def JoinSlot.zero : JoinSlot := ⟨0, 0, 0, false⟩

/-- Join slot j (R188, R190): the release of its parked fibres when its count is reached, aligned unless an END has lowered it
(R186), or when it fell to 0. -/
def Team.settleJoin (t : Team) (cycle id : Nat) (j : Nat) : Team :=
  let sl := atD t.joins j JoinSlot.zero
  let parked (f : Fibre) : Bool := f.live && f.wait == .join j
  let clear (f : Fibre) : Fibre := { f with jmask := f.jmask &&& ~~~(1#16 <<< j) }
  if t.fixed then
    -- per cohort: its own counted fibres have all arrived (R191)
    let w := t.width
    let ready (k : Nat) : Bool :=
      let own := t.live.filter fun f => f / w == k && (t.fibre f).jmask.getLsbD j
      !own.isEmpty && own.all fun f => (t.fibre f).wait == .join j
    let go (i : Nat) : Bool := parked (t.fibre i) && ready (i / w)
    let n := ((List.range t.fib).filter fun i => go i && (t.fibre i).jmask.getLsbD j).length
    let wake (i : Nat) : Fibre := if go i then clear ((t.fibre i).wake cycle .plain) else t.fibre i
    let t := { t with fibres := (List.range t.fibres.length).map wake }
    if n = 0 then t
    else { t with joins := modAt t.joins j fun k => if k.c ≤ n then JoinSlot.zero else { k with c := k.c - n, a := k.a - n } }
  else if 0 < sl.c ∧ sl.a = sl.c then
    { t with
      fibres := t.fibres.map fun f => if parked f then clear (f.wake cycle (.join (id + j) (!sl.byEnd))) else f
      joins := modAt t.joins j fun _ => JoinSlot.zero }
  else if sl.c = 0 ∧ t.fibres.any parked then
    { t with
      fibres := t.fibres.map fun f => if parked f then clear (f.wake cycle .plain) else f
      joins := modAt t.joins j fun k => { k with a := 0, byEnd := false } }
  else t

/-- Every wait of the team that its sets and join slots now satisfy. -/
def State.settle (s : State) (c slot : Nat) : State :=
  let k := s.cl c
  let s := s.modTeam c slot fun t =>
    let t := (List.range 16).foldl (fun t j => t.settleJoin k.cycle k.nextId j) t
    (List.range 16).foldl (fun t i => t.settleSet k.cycle k.nextId i) t
  s.modCl c fun k => { k with nextId := k.nextId + 64 }

/-- R198: while a team's count for b is at or above M > 0 it sends team arrivals to its die. -/
def State.gbarSend (s : State) (c slot : Nat) : State :=
  match s.team? c slot with
  | none => s
  | some t =>
    let m := t.count 0
    if m = 0 then s
    else
      let s := t.gbar.foldl (fun s bc =>
        let n := bc.2 / m
        if n = 0 then s
        else
          let g := s.gbar bc.1
          s.setGbar bc.1 { g with sums := modAt g.sums (s.dieOf c) (· + n) }) s
      s.modTeam c slot fun t => { t with gbar := (t.gbar.map fun (x : Nat × Nat) => (x.1, x.2 % m)).filter fun x => x.2 != 0 }

/-- R199: fibres whose GBAR.WAIT the phase known at their die satisfies; the acquire of R170 comes first. -/
def State.gbarWake (s : State) : State :=
  let ready (c : Nat) (f : Fibre) : Bool := match f.wait with
    | .gbar b v => f.live && phasePast (atD (s.gbar b).dphase (s.dieOf c) 0) v
    | _ => false
  (List.range s.clusters.length).foldl (fun s c =>
    if (s.cl c).teams.any (fun t => t.fibres.any (ready c)) then
      let s := s.acquire c
      let cyc := (s.cl c).cycle
      s.modCl c fun k => { k with teams := k.teams.map fun t =>
        { t with fibres := t.fibres.map fun f => if ready c f then f.wake cyc .plain else f } }
    else s) s

/-! ### Poison origins (R217, R218) -/

/-- Allocates an entry: the lowest free one, else entry 63 unwritten with the overflow counted; the core has no table. -/
def State.origin (s : State) (c cause : Nat) (pc : Addr) (addr asid slot fibre : Nat) : Half × State :=
  if c ≥ 160 then (0xFFFF, s)
  else
    let at' (n : Nat) : Nat := clOff c + 0x800 + 32 * n
    match (List.range 64).find? fun n => !(s.reg (at' n)).getLsbD 63 with
    | none => (BitVec.ofNat 16 (c * 256 + 63), s.countSat (clOff c + 0x160) 1)
    | some n =>
      let w (i v : Nat) (s : State) : State := s.setReg (at' n + 8 * i) (BitVec.ofNat 64 v)
      (BitVec.ofNat 16 (c * 256 + n),
        w 3 s.ptime (w 2 (fibre + slot * 2 ^ 16 + asid * 2 ^ 32) (w 1 addr (w 0 (pc.toNat + cause * 2 ^ 48 + 2 ^ 63) s))))

/-! ### Instruction fetch and pads -/

/-- What a fetch finds (R114, R146). -/
inductive Fetched where
  | ok (bytes : List Byte)
  | wait (post : Bool)
  | page
  | access
  | poison (sector : Nat) (found : Bool)   -- found: this fetch's read of HBM found it uncorrectable (R145)
deriving DecidableEq, Repr

/-- Sector n of an instruction cache. -/
def Cluster.code? (k : Cluster) (n : Nat) : Option Sector := k.icache.find? fun x => x.no == n

/-- The sector of a fetch and the 64 KiB of the cache: with more than 256 lines, one not just used goes (log entry 110). -/
def Cluster.codePut (k : Cluster) (x : Sector) (now : Nat) : Cluster :=
  let keep := k.icache.filter (fun y => y.no != x.no) ++ [x]
  let miss := k.imiss.filter (· != x.no / 4)
  if keep.length ≤ 256 then { k with icache := keep, imiss := miss }
  else
    let lines := (keep.map (·.no / 4)).eraseDups
    let old := lines.filter (· != x.no / 4)
    let gone := if lines.length ≤ 256 then none else old[Config.victim now % old.length]?
    { k with icache := keep.filter (fun y => some (y.no / 4) != gone), imiss := miss }

/-- The die's fetch agent brings sector n to a cluster, and to every cluster of the die that has missed on its line (R127).
Whether its read of HBM found the sector uncorrectable (R145). -/
def State.fillCode (s : State) (c n : Nat) (repl : Bool) : Bool × State :=
  if ((s.cl c).code? n).isSome then (false, s)
  else
    let pas := (List.range 64).map (64 * n + ·)
    let (bad, s) := s.demandRead pas
    let die := s.dieOf c
    let s := (s.touchBy (some c) pas).replFill die (64 * n) repl
    let x : Sector := ⟨n, s.free, s.poisoned (64 * n), repl, atD s.repl.applied die 0,
      if repl then pas.map (s.viewByte die) else s.homeBytes (64 * n) 64⟩
    let others := (List.range 161).filter fun o => o != c && s.dieOf o == die && (s.cl o).imiss.contains (n / 4)
    (!bad.isEmpty, (c :: others).foldl (fun s o => s.modCl o fun k => k.codePut x s.free) s)

/-- A line whose fetch waits at its home is noted as missed (R127). -/
def State.codeMiss (s : State) (c asid va : Nat) : State :=
  match s.tlbFind c asid va with
  | none => s
  | some e =>
    let pa := pteFrame e.pte.toNat + va % 2 ^ e.bits
    if s.lineWaits pa then s.modCl c fun k => { k with imiss := insSorted (pa / 256) k.imiss } else s

/-- Bytes read through a translation for execution and the instruction cache (R126, R127, R423); the core's SRAM, the register
space and UNCACHED pages are not cached (R137). -/
def State.fetch (s : State) (c asid va n : Nat) : Fetched × State :=
  let (x1, s) := s.xlate c asid va 3
  let (x2, s) := if va / 4096 = (va + n - 1) / 4096 then (x1, s) else s.xlate c asid ((va + n - 1) / 4096 * 4096) 3
  match x1, x2 with
  | .ok p1 cls, .ok p2 cls2 =>
    let first (i : Nat) : Bool := (va + i) / 4096 == va / 4096
    let pa (i : Nat) : Nat := if first i then p1 + i else p2 + (va + i) % 4096
    let class' (i : Nat) : Nat := if first i then cls else cls2
    let pas := (List.range n).map pa
    let read := (List.range n).filter fun i => !isSram (pa i) && !isRegs (pa i)
    let cached := read.filter fun i => class' i != 3
    let direct := (read.filter fun i => class' i == 3).map pa
    let (found, s) := ((cached.map fun i => (pa i / 64, class' i == 2)).eraseDups).foldl (fun (acc : List Nat × State) k =>
      let (bad, s) := acc.2.fillCode c k.1 k.2
      (if bad then acc.1 ++ [k.1] else acc.1, s)) ([], s)
    let (bad, s) := s.demandRead direct
    let s := s.touchBy none direct
    let pois (a : Nat) : Bool := if direct.contains a then s.poisoned a
      else match (s.cl c).code? (a / 64) with | some x => x.pois | none => false
    match (read.map pa).find? pois with
    | some a => (.poison (a / 64 * 64) (found.contains (a / 64) || bad.contains (a / 64 * 64)), s)
    | none =>
      (.ok (pas.map fun a => if direct.contains a then s.targetByte a
        else match (s.cl c).code? (a / 64) with
        | some x => atD x.bytes (a % 64) 0
        | none => s.targetByte a), s)
  | .wait p, _ => (.wait p, if p then s else s.codeMiss c asid va)
  | .page, _ => (.page, s)
  | .access, _ => (.access, s)
  | _, .wait p => (.wait p, s)
  | _, .page => (.page, s)
  | _, .access => (.access, s)

/-- The result of a pad check (R354). -/
inductive Pad where
  | pass
  | fail
  | wait
deriving DecidableEq, Repr

/-- Whether a base word is LPAD of a kind and tag, LEN 00 (R354). -/
def padWord (w kind tag : Nat) : Bool :=
  fld w 0 2 == 0 && fld w 2 10 == 0x185 && fld w 58 3 == kind && fld w 34 16 == tag

/-- The pad check of R354 at a target; a waiting target page posts its replay request, and a sector that this read finds
uncorrectable is logged (R145). -/
def State.padCheck (s : State) (c asid target kind tag : Nat) : Pad × State :=
  let (r, s) := s.fetch c asid target 8
  match r with
  | .ok bs => (if padWord (leVal bs) kind tag then .pass else .fail, s)
  | .wait post => (.wait, if post then s.postReplay 3 c asid target else s)
  | .poison sector true => (.fail, s.errMemory sector 0xFFFF)
  | _ => (.fail, s)

/-- ASID of a team's accesses. -/
def Team.space (t : Team) : Nat := if t.mc then mcAsid else t.asid

/-! ### The management core (R46 to R51) -/

/-- MC_STAT.IE written. -/
def State.setIe (s : State) (b : Bool) : State := s.setRegFld 0x228 0 1 (b2n b)
def State.ie (s : State) : Bool := (s.reg 0x228).getLsbD 0

/-- The core's team as R456 states it: one fibre, 255 registers at base 0, zero, full and unpoisoned. -/
def mcTeam (entry : Addr) : Team where
  slot := 0
  mc := true
  seq := 0
  tcb := 0
  index := 0
  asid := 0
  fib := 1
  regs := 255
  etag := 0
  trapv := 0
  frame := 0
  code := entry
  acc := 0
  scr := 0
  caddy := 0
  w64 := false
  fixed := false
  strictx := false
  fto := 0
  split := 0
  hls := 0
  bulk := false
  step := 0
  inter := false
  fpmode := 0
  fpstat := 0
  fpset := (0, 0)
  sysw := []
  privb := 0
  privs := 0
  fibres := [{ Fibre.blank 255 0 with live := true, pc := entry, sets := 1 }]
  uni := []
  bars := List.replicate 16 ⟨0, 0⟩
  joins := List.replicate 16 JoinSlot.zero
  gbar := []
  scratch := []
  scrPois := []
  tiles := []
  accPois := []
  claim := none
  matq := []
  matLast := 0
  charge := 0
  halted := false
  pinned := false
  ended := false
  placedAt := 0

/-- A cohort about to issue for the first time. -/
def Cohort.make (id team slice slot : Nat) (fixed : Option Nat) (fibres lanes : List Nat) : Cohort :=
  ⟨id, team, slice, slot, fixed, fibres, lanes, false, 0, 0, (0, 0), [], 0, .none, none, none⟩

/-- Every translation of the core is dropped (R421, R423). -/
def State.mcFlush (s : State) : State := { s with tlb := s.tlb.filter fun (e : TlbEntry) => e.asid != mcAsid }

/-- The core of D0 or D1 starts at the entry point of the verified image (R51, R54, R456). -/
def State.startCore (s : State) (d1 : Bool) : State :=
  let entry := BitVec.ofNat 48 (leVal ((s.boot.image.drop 16).take 4))
  let s := { s with core := { s.core with
    running := true, d1 := d1, wfi := false, raise := d1, root := BitVec.ofNat 64 bootTab, beat := s.ptime } }
  (s.mcFlush.modCl mcCluster fun k => { k with
    teams := [mcTeam entry], cohorts := [Cohort.make k.nextId 0 0 0 none [0] [0]], pend := [], phases := []
    nextId := k.nextId + 1 }).setIe false

/-- The running core stops. -/
def State.stopCore (s : State) : State :=
  { s with core := { s.core with running := false } }.modCl mcCluster fun k =>
    { k with teams := [], cohorts := [], pend := [], phases := [] }

/-- R51: the D1 core takes over; a takeover is final, so a failing D1 core only halts. -/
def State.takeover (s : State) : State :=
  let s := s.stopCore
  if s.core.d1 then s
  else (((s.startCore true).setReg 0x428 0).setReg 0x430 0).setReg 0x438 0

/-- Entry n of the vector table (R47): the address it holds, whether LPAD.h with tag n stands there, or whether the page or a
table of it waits (R354). -/
def State.mcVector (s : State) (n : Nat) : Pad × Addr × State :=
  let a := leVal (s.homeBytes (s.sramPa ((s.reg 0x210).toNat + 8 * n)) 8)
  let (r, s) := s.padCheck mcCluster mcAsid (a % 2 ^ 48) 4 n
  (if r = .pass ∧ ¬(a < 2 ^ 48 ∧ a % 4 = 0) then .fail else r, BitVec.ofNat 48 a, s)

/-- The core enters entry n with `pc` saved in MC_EPC and IE clear; a bad entry, or a trap while IE is 0, is a double
fault (R48). An entry whose page waits is entered once it no longer does (R354). Pending results are written first and distances
begin anew (R457). A double fault leaves MC_EPC as it was, though the trap's record is written, of which R48 says nothing (DESIGN
CHOICE, log entry 129). -/
def State.mcEnter (s : State) (n : Nat) (pc : Addr) (trap : Bool) : State :=
  if trap && !s.ie then s.takeover
  else match s.mcVector n with
    | (.fail, _, s) => s.takeover
    | (.wait, _, s) => s
    | (.pass, a, s) =>
      let s := (s.cl mcCluster).cohorts.foldl (fun s k => s.land mcCluster k.id none) s
      let s := (s.setReg 0x218 (pc.setWidth 64)).setIe false
      let s := s.modTeam mcCluster 0 fun t => t.modFibre 0 fun f => { f with pc := a, wait := .none }
      State.modCl { s with core := { s.core with wfi := false } } mcCluster fun (k : Cluster) => { k with
        cohorts := k.cohorts.map fun (h : Cohort) => { h with
          hold := .none, dist := 0, rest := (0, 0), blocked := none }
        latches := k.latches.map fun _ => [] }

/-- Interrupts by priority number (R47): entries 1, 2, 3, 4, 5, 6 in that order. -/
def State.mcPending (s : State) : Option Nat :=
  (List.range 7).find? fun n => decide (n ≥ 1) && (s.reg 0x200).getLsbD n && (s.reg 0x208).getLsbD n

/-- The boundary at which an interrupt is taken: the core runs with IE set, is in the middle of no instruction, and one is
pending and enabled (R48). -/
def State.mcTake (s : State) : Option Nat :=
  if s.core.running && s.ie && !((s.cl mcCluster).cohorts.any fun k => k.part.isSome) then s.mcPending else none

/-! ### Taking a trap (R263 to R268) -/

/-- A trap of an issue: cause, SUB, the trapping fibres with their INFO, and ORIGIN. -/
structure Trap where
  cause  : Nat
  sub    : Nat
  hits   : List (Nat × Nat)
  origin : Half
deriving DecidableEq, Repr

/-- A cause that every fibre of the issue takes (R264). -/
def Trap.all (x : Ctx) (cause sub info : Nat) : Trap := ⟨cause, sub, x.fs.map fun f => (f, info), 0xFFFF⟩

/-- The record of one trapping fibre (R267). -/
def State.trapRec (s : State) (x : Ctx) (iw : Code) (t : Trap) (f info : Nat) : TrapRec where
  pc := x.pc
  sub := BitVec.ofNat 8 t.sub
  cause := BitVec.ofNat 8 t.cause
  origin := t.origin
  npos := BitVec.ofNat 7 (if x.isMc then 1 else x.n)
  pos := BitVec.ofNat 6 (x.pos f)
  aligned := x.co.aligned || x.team.fixed
  pol := x.team.fixed
  w := x.team.w64
  fpmode := x.team.fpmode
  iw := iw
  mask := BitVec.ofNat 64 ((t.hits.map fun h => 2 ^ x.pos h.1).sum)
  info := BitVec.ofNat 64 info
  time := BitVec.ofNat 64 s.ptime

/-- The eight 8-byte words of a record (R267). -/
def TrapRec.words (r : TrapRec) : List Nat :=
  [r.cause.toNat + r.sub.toNat * 2 ^ 8 + r.pc.toNat * 2 ^ 16,
   r.fpmode.toNat + b2n r.w * 2 ^ 32 + b2n r.pol * 2 ^ 33 + b2n r.aligned * 2 ^ 34 + r.pos.toNat * 2 ^ 35
     + r.npos.toNat * 2 ^ 41 + r.origin.toNat * 2 ^ 48,
   r.iw.toNat % 2 ^ 64, r.iw.toNat / 2 ^ 64, r.mask.toNat, r.info.toNat, r.time.toNat, 0]

/-- One trapping fibre enters its handler, or faults the task (R80, R268). -/
def State.trapFibre (s : State) (x : Ctx) (iw : Code) (t : Trap) (h : Nat × Nat) : State :=
  let r := s.trapRec x iw t h.1 h.2
  (s.toPool x.c x.co.team h.1 x.team.trapv .plain 0).modFibre x.c x.co.team h.1 fun f => { f with tm := true, trec := some r }

/-- Takes a trap: the issue commits nothing; the trapping fibres go to the handler, the others to the pool at the
trapping instruction (R263, R268). With no handler, in a handler, or without its pad, the task faults (R80). A handler
page that waits makes the trap wait (R354). On the management core, entry 0 is entered (R48). -/
def State.takeTrap (s : State) (x : Ctx) (iw : Code) (t : Trap) : State :=
  if x.isMc then
    let r := s.trapRec x iw t 0 ((t.hits.head?.map (·.2)).getD 0)
    (s.homePut (cellsAt (s.sramPa ((s.reg 0x210).toNat + 64)) (recBytes r.words))).mcEnter 0 x.pc true
  else if x.team.trapv = 0 ∨ t.hits.any (fun h => (x.fib h.1).tm) then
    s.faultTask x.team.seq t.cause x.team.index
  else match s.padCheck x.c x.team.space x.team.trapv.toNat 4 x.team.etag.toNat with
    | (.wait, s) => s
    | (.fail, s) => s.faultTask x.team.seq 0x04 x.team.index
    | (.pass, s) =>
      let s := ((s.land x.c x.co.id none).dissolve x.c x.co.id).allToPool x fun f => (x.fib f).pc
      t.hits.foldl (fun s h => s.trapFibre x iw t h) s

/-- Returns a fibre from its handler: TM clears, its record reads 0, and it enters the pool at the resumption address:
the record's PC, or PC plus the length that IW[1:0] gives (R269). -/
def State.trapReturn (s : State) (x : Ctx) (next : Bool) (f : Nat) : State :=
  match (x.fib f).trec with
  | none => s
  | some r =>
    let len := match r.iw.toNat % 4 with | 1 => 12 | 2 => 16 | _ => 8
    let pc := if next then r.pc + BitVec.ofNat 48 len else r.pc
    (s.toPool x.c x.co.team f pc .plain 0).modFibre x.c x.co.team f fun y => { y with tm := false, trec := none }

end Sys2Proof.Machine
end

