-- ==== Sys2Proof/Machine/Operands.lean ====
section
/-!
DEFINITION. Machine/Operands.lean: how an instruction issues (R263 to R266, R282, R287): its operands in each fibre
(R203, R205, R285, R286), the traps of ranks 3 to 10, the waits for full and empty registers (R207 to R209), what an
issue counts (R192 to R194, R210), and how results reach their destinations (R214, R215, R290 to R296).
-/
namespace Sys2Proof.Machine

/-- What a meaning answers. -/
abbrev Out := Host.Outcome State Fault Refusal

/-! ### Operands -/

/-- A vector operand: its INFO number (R264), its field, its registers, and what the instruction does with it. -/
structure Use where
  op  : Nat
  n   : Nat
  w   : Nat
  ix  : Bool
  rd  : Bool
  wr  : Bool
  fe  : Bool
  blk : Bool                     -- a block of registers rather than one operand
deriving DecidableEq, Repr

/-- Registers an operand of a kind takes; the caddy kinds follow the standing claim (R391). -/
def kindWords (cl : Option Claim) : Kind → Nat
  | .v32 => 1
  | .v64 => 2
  | .v128 => 4
  | .vk => (match cl with | some k => if k.kw64 then 2 else 1 | none => 1)
  | .vv => (match cl with | some k => if k.vw64 then 2 else 1 | none => 1)
  | _ => 0

/-- The vector operands of an instruction in the order of their INFO numbers. -/
def shapeUses (sh : Shape) (f : Fields) (cl : Option Claim) : List Use :=
  let u (op n : Nat) (k : Kind) (cnt : Nat) (ix rd wr fe : Bool) : Use :=
    ⟨op, n, if cnt = 0 then kindWords cl k else cnt, sh.alu && ix, rd, wr, fe, cnt != 0⟩
  [u 0 f.dst.toNat sh.dst sh.dstN f.ixD false true false,
   u 1 f.sa.toNat sh.sa sh.saN f.ixA true sh.saw (f.fe.getLsbD 0),
   u 2 f.sb.toNat (if sh.alu && f.immB then .no else sh.sb) 0 f.ixB true false (f.fe.getLsbD 1),
   u 3 f.sc.toNat sh.sc 0 f.ixC true false (f.fe.getLsbD 2),
   u 4 (f.ext.toNat % 256) sh.e0 0 false false true false,
   u 4 (f.ext.toNat / 256 % 256) sh.e1 0 false false true false].filter fun x => x.w != 0

/-- The lowest register an operand names in a fibre: the field, or BASE + k (R205). -/
def Use.first (u : Use) (f : Fibre) : Nat :=
  if u.ix then (atD f.x (u.n / 64) 0).toNat % 256 + u.n % 64 else u.n

/-- The registers an operand names; vz names none (R203). -/
def Use.regs (u : Use) (f : Fibre) : List Nat :=
  if !u.ix && u.n == 255 then [] else (List.range u.w).map (u.first f + ·)

/-- The register a RANGE trap names, if the operand leaves the window (R203, R205, R286). -/
def Use.range (u : Use) (f : Fibre) (regs : Nat) : Option Nat :=
  if u.ix then
    let e := u.first f
    let lim := min ((atD f.x (u.n / 64) 0).toNat / 256) regs
    if e % u.w != 0 || decide (e + u.w - 1 ≥ lim) then some e else none
  else if u.blk then (u.regs f).find? fun r => decide (r ≥ regs)
  else if u.n != 255 && decide (u.n ≥ regs) then some u.n else none

/-- Whether a register of the operand is empty. -/
def Use.empty (u : Use) (f : Fibre) : Option Nat := (u.regs f).find? fun r => !(f.reg r).full

/-- A 64-bit read (R215). -/
def readPair (a b : VReg) : Nat × Option Half :=
  if a.pois || b.pois then
    let o := if a.pois then a.origin else b.origin
    (0x7FF8000000000000 + o.toNat, some o)
  else (a.val.toNat + b.val.toNat * 2 ^ 32, none)

/-- A read of 32, 64 or 128 bits, the lowest register first (R215); of no register it is vz. -/
def readRegs : List VReg → Nat × Option Half
  | [] => (0, none)
  | [a] => if a.pois then (0x7FC00000 + a.origin.toNat, some a.origin) else (a.val.toNat, none)
  | [a, b] => readPair a b
  | a :: b :: c :: d :: _ =>
    let x := readPair a b
    let y := readPair c d
    (x.1 + y.1 * 2 ^ 64, x.2 <|> y.2)
  | a :: b :: _ => readPair a b

/-- The operand as read in a fibre. -/
def Use.read (u : Use) (f : Fibre) : Nat × Option Half := readRegs ((u.regs f).map f.reg)

/-- Registers written with a value or with poison (R214, R215). -/
def vecDsts (regs : List Nat) (v : Nat) (p : Option Half) : List Dst :=
  (List.range regs.length).zip regs |>.map fun (k, r) =>
    .v r (match p with | some o => VReg.poisoned o | none => VReg.of (BitVec.ofNat 32 (v / 2 ^ (32 * k))))

/-- A predicate written; a poisoned one holds false (R318). -/
def predDst (n : Nat) (v : Bool) (p : Option Half) : Dst := .p (n % 8) ⟨v && p.isNone, p⟩

/-- The pending-result key of a destination: register, 256 + predicate, 264 + x-register. -/
def Dst.key : Dst → Nat
  | .v n _ => n
  | .p n _ => 256 + n % 8
  | .x n _ => 264 + n % 4

/-! ### An issue -/

/-- An instruction about to issue in a context. -/
structure Iss where
  x    : Ctx
  opc  : Nat
  f    : Fields
  sh   : Shape
  uses : Nat → List Use          -- by fibre

/-- What an entry adds to the common rules: operands found in a record, an ILLEGAL SUB of its own, and what else holds it. -/
structure Extra where
  uses : State → Ctx → Nat → List Use := fun _ _ _ => []
  bad  : State → Ctx → Option Nat := fun _ _ => none
  held : State → Iss → Bool := fun _ _ => false

/-- Whether a fibre index's generator is an ACCST's to step, which stands in its pair's queue: what uses the generator after it
waits, so that no result depends on time (R233, R404; log entry 133). -/
def State.genBusy (s : State) (c slot f : Nat) : Bool := match s.team? c slot with
  | some t => t.matq.any fun o => o.kind == .accst && o.sr && o.fibre == f && o.pois.isNone
  | none => false

def Iss.len (i : Iss) : Nat := i.f.len.bytes
/-- PC + len. -/
def Iss.next (i : Iss) : Addr := i.x.pc + BitVec.ofNat 48 i.len
def Iss.fib (i : Iss) (h : Nat) : Fibre := i.x.fib h
/-- The guard's value (R282). -/
def Iss.guard (i : Iss) (h : Nat) : Bool := ((i.fib h).pred i.f.gp.toNat).val != i.f.gn
/-- The guarded fibres in position order. -/
def Iss.on (i : Iss) : List Nat := i.x.fs.filter i.guard
def Iss.cl (i : Iss) : Nat := i.x.c
def Iss.slot (i : Iss) : Nat := i.x.co.team
def Iss.team (i : Iss) : Team := i.x.team

/-- An instruction whose guarded fibres use their generators. -/
def genExtra : Extra where
  held := fun s i => i.on.any fun h => s.genBusy i.cl i.slot h

/-- Cross-lane instructions apply FE in every fibre (R208). -/
def Iss.cross (i : Iss) : Bool := decide (0x1C0 ≤ i.opc ∧ i.opc < 0x200)
def Iss.stall (i : Iss) : Nat := if i.team.inter then 0 else i.f.stall.toNat

/-- The operand with an INFO number in a fibre. -/
def Iss.use? (i : Iss) (op h : Nat) : Option Use := (i.uses h).find? fun u => u.op == op

/-- A source as read in a fibre; unused ones read as vz. -/
def Iss.src (i : Iss) (op h : Nat) : Nat × Option Half :=
  match i.use? op h with
  | some u => u.read (i.fib h)
  | none => (0, none)

/-- An FP32 value widened exactly to FP64 (R284). -/
def widen32 (x : Nat) : Nat :=
  match fp32.decode x with
  | .nan n _ p => fp64.sign n + 0x7FF * 2 ^ 52 + p
  | .inf n => fp64.sign n + 0x7FF * 2 ^ 52
  | .fin n m e => (fp64.round .rne false n m e false).1

/-- Source B of a 96-bit or X-form (R284). -/
def Iss.immVal (i : Iss) : Nat :=
  let m := i.f.imm.toNat
  if i.sh.sb = .v64 then
    (match i.sh.bimm with
      | .plain => wrap 64 (sext 32 m)
      | .widen => widen32 m
      | .packed => m + (Config.immUpper i.f.imm).toNat * 2 ^ 32)
  else m

/-- Source B: the immediate where there is one. -/
def Iss.srcB (i : Iss) (h : Nat) : Nat × Option Half :=
  if i.sh.alu && i.f.immB then (i.immVal, none) else i.src 2 h

/-- A predicate source (R285). -/
def Iss.predSrc (i : Iss) (n : BitVec 8) (h : Nat) : Bool × Option Half :=
  let p := (i.fib h).pred (n.toNat % 8)
  (p.val != n.getLsbD 3, p.pois)

/-- A destination written in a fibre. -/
def Iss.vec (i : Iss) (op h v : Nat) (p : Option Half) : List Dst :=
  match i.use? op h with
  | some u => vecDsts (u.regs (i.fib h)) v p
  | none => []

/-- INFO of an operand's register. -/
def Use.info (u : Use) (f : Fibre) (r : Nat) : Nat := u.op * 256 + (if u.blk then r else u.first f) % 256

/-! ### Hazards (R297) -/

/-- The predicates V2P writes in a fibre: those its mask names, all of them when it is poisoned (R349). -/
def Iss.maskPreds (i : Iss) (h : Nat) : List Nat :=
  let b := i.srcB h
  (List.range 7).filter fun k => bitOf b.1 k || b.2.isSome

/-- Predicates read and written in a fibre, with INFO operand numbers; a second destination is operand 4. -/
def Iss.predUses (i : Iss) (h : Nat) : List (Nat × Nat) × List (Nat × Nat) :=
  let ps (op : Nat) (k : Kind) (n : BitVec 8) : List (Nat × Nat) := if k = .ps then [(op, n.toNat % 8)] else []
  let pd (op : Nat) (k : Kind) (n : BitVec 8) : List (Nat × Nat) := if k = .pd then [(op, n.toNat % 8)] else []
  (ps 1 i.sh.sa i.f.sa ++ ps 2 i.sh.sb i.f.sb ++ ps 3 i.sh.sc i.f.sc
      ++ (if i.opc = 0x146 then (List.range 7).map fun k => (1, k) else [])
      ++ (if i.opc = 0x188 then (List.range 7).map fun k => (4, k) else []),
   pd 0 i.sh.dst i.f.dst ++ pd 4 i.sh.sc i.f.sc ++ (if i.opc = 0x00D ∨ i.opc = 0x00E then [(4, i.f.md 0 3)] else [])
      ++ (if i.opc = 0x147 then (i.maskPreds h).map fun k => (0, k) else []))

/-- INFO of a HAZARD in a fibre, the lowest operand number first. -/
def Iss.hazard (i : Iss) (h : Nat) : Option Nat :=
  let fb := i.fib h
  let pend := i.x.co.late.filter fun l => l.fibre == h
  let pending (key : Nat) : Bool := pend.any fun l => l.dst.key == key
  let passes (key : Nat) : Bool := pend.any fun l => l.dst.key == key && decide (l.land ≥ i.x.co.dist + i.sh.lat)
  let us := i.uses h
  let rd : List (Nat × Nat × Nat) :=
    (us.filter fun u => u.rd && decide (u.op < 6)).flatMap (fun u => (u.regs fb).map fun r => (u.op, u.info fb r, r))
      ++ (us.filter (·.ix)).map (fun u => (u.op, u.first fb, 264 + u.n / 64))
      ++ (if i.sh.sa = .xr then [(1, i.f.sa.toNat, 264 + i.f.sa.toNat % 4)] else [])
      ++ (i.predUses h).1.map (fun p => (p.1, p.2, 256 + p.2))
      ++ [(5, i.f.gp.toNat, 256 + i.f.gp.toNat)]
  let wr : List (Nat × Nat × Nat) :=
    (us.filter (·.wr)).flatMap (fun u => (u.regs fb).map fun r => (u.op, u.info fb r, r))
      ++ (if i.sh.dst = .xr then [(0, i.f.dst.toNat, 264 + i.f.dst.toNat % 4)] else [])
      ++ (i.predUses h).2.map (fun p => (p.1, p.2, 256 + p.2))
  let hits := (rd.filter fun t => pending t.2.2 && t.2.2 != 263) ++ (wr.filter fun t => passes t.2.2 && t.2.2 != 263)
  (minNat? (hits.map (·.1))).bind fun op => (hits.find? fun t => t.1 == op).map fun t => op * 256 + t.2.1 % 256

/-! ### Traps of the issue (R264) -/

/-- A cause one fibre meets. -/
structure Hit where
  rank   : Nat
  cause  : Nat
  sub    : Nat
  info   : Nat
  origin : Half
deriving DecidableEq, Repr

/-- The live fibres of a FIXED cohort off the issuing path, which a cross-lane instruction may read (R191, R365). -/
def Iss.offPath (i : Iss) : List Nat :=
  if i.cross && i.x.co.fixed.isSome then i.x.co.fibres.filter fun h => (i.fib h).live && !i.x.fs.contains h else []

/-- INFO of an empty source with FE = 1 off the path. It traps every fibre of the issue, since only these can trap (R208, R264,
R365; log entry 115). -/
def Iss.offEmpty (i : Iss) (h : Nat) : Option Nat :=
  i.offPath.findSome? fun o => (i.uses o).findSome? fun u =>
    if u.rd && u.fe then (u.empty (i.fib o)).map fun _ => u.info (i.fib h) (u.first (i.fib h)) else none

/-- The first of ranks 5 to 8 that a fibre meets. NOP's guard has no effect (R288). -/
def Iss.early (i : Iss) (haz : Bool) (h : Nat) : Option Hit :=
  let fb := i.fib h
  let g := i.guard h
  match (if g then (i.uses h).findSome? (fun u => (u.range fb i.team.regs).map fun r => u.op * 256 + r % 256) else none) with
  | some info => some ⟨5, 0x05, 0, info, 0xFFFF⟩
  | none =>
    match (if i.opc = 0x380 then none else (fb.pred i.f.gp.toNat).pois) with
    | some o => some ⟨6, 0x07, 1, i.f.gp.toNat, o⟩
    | none =>
      let fe (u : Use) : Option Nat := if u.rd && u.fe then (u.empty fb).map (u.info fb) else none
      match ((if g || i.cross then (i.uses h).findSome? fe else none) <|> i.offEmpty h) with
      | some info => some ⟨7, 0x06, 0, info, 0xFFFF⟩
      | none =>
        match (if g && haz && i.opc != 0x380 then i.hazard h else none) with
        | some info => some ⟨8, 0x0B, 0, info, 0xFFFF⟩
        | none => none

/-- Rank 9: the first poisoned operand the instruction consumes (R216). -/
def Iss.consumed (i : Iss) (h : Nat) : Option Hit :=
  let fb := i.fib h
  let one (op : Nat) : Option Hit :=
    let pr (k : Kind) (n : BitVec 8) : Option Hit :=
      if k = .ps then (fb.pred (n.toNat % 8)).pois.map fun o => ⟨9, 0x07, 0, op * 256 + n.toNat % 8, o⟩ else none
    match i.use? op h with
    | some u => (u.read fb).2.map fun o => ⟨9, 0x07, 0, u.info fb (u.first fb), o⟩
    | none => if op = 1 then pr i.sh.sa i.f.sa else none
  if i.guard h then i.sh.cons.findSome? one else none

/-- Order of the causes that share a rank: PAGE, ACCESS, POISON (R264). -/
def causeOrder (c : Nat) : Nat := if c = 0x08 then 0 else if c = 0x09 then 1 else 2

/-- The trap of the first-ranked cause among fibres' hits, taken by the fibres that meet it; SUB and ORIGIN are those of
the lowest position. -/
def trapOf (hits : List (Nat × Hit)) : Option Trap :=
  match minNat? (hits.map fun h => h.2.rank * 4 + causeOrder h.2.cause) with
  | none => none
  | some r =>
    match hits.filter fun h => h.2.rank * 4 + causeOrder h.2.cause == r with
    | [] => none
    | h :: t => some ⟨h.2.cause, h.2.sub, (h :: t).map fun y => (y.1, y.2.info), if h.2.cause = 0x07 then h.2.origin else 0xFFFF⟩

/-- The hits of an issue's fibres under a test. -/
def Iss.hits (i : Iss) (test : Nat → Option Hit) : List (Nat × Hit) :=
  i.x.fs.filterMap fun h => (test h).map fun x => (h, x)

/-- The registers that hold a fibre back: empty sources with FE = 0, empty destinations (R208, R209). -/
def Iss.waitsOn (i : Iss) (h : Nat) : List Nat :=
  let fb := i.fib h
  let g := i.guard h
  (i.uses h).flatMap fun u =>
    if (u.rd && !u.fe && (g || i.cross)) || (u.wr && g) then (u.regs fb).filter fun r => !(fb.reg r).full else []

/-- What holds the issue back, by fibre, the fibres off the path among them (R208, R365). -/
def Iss.waits (i : Iss) : List (Nat × Nat) :=
  (i.x.fs.flatMap fun h => (i.waitsOn h).map fun r => (h, r))
    ++ i.offPath.flatMap fun h => (i.uses h).flatMap fun u =>
      if u.rd && !u.fe then ((u.regs (i.fib h)).filter fun r => !((i.fib h).reg r).full).map fun r => (h, r) else []

/-- What becomes of an instruction before its own effect. -/
inductive Verdict where
  | run
  | held
  | blocked
  | trap (t : Trap)
deriving DecidableEq, Repr

/-- SUB of an ILLEGAL trap at decode, if any (R46, R287, R420). -/
def Iss.illegal (i : Iss) (s : State) (e : Extra) : Option Nat :=
  match i.f.illegal i.opc with
  | some n => some n
  | none =>
    if (i.sh.noCore && i.x.isMc) || (i.sh.onlyCore && !i.x.isMc) then some 3 else e.bad s i.x

/-- Whether debug hazard mode applies (R297). -/
def Iss.haz (i : Iss) (s : State) : Bool := !i.x.isMc && !i.team.inter && (s.reg (clOff i.cl + 0x180)).getLsbD 0

/-- Whether the phase mark of a fibre of the cohort, on whichever path, holds an instruction of groups 8 to C (R388). -/
def Iss.marked (i : Iss) : Bool :=
  decide (0x200 ≤ i.opc ∧ i.opc < 0x340) && (i.x.fs ++ i.x.co.fibres).any fun h => (i.fib h).live && (i.fib h).phase

/-- The common checks in order: decode, ranks 5 to 8, the waits, rank 9, ALIGNX (rank 10), the phase mark (R388), the entry's own
hold. -/
def Iss.verdict (i : Iss) (s : State) (e : Extra) : Verdict :=
  match i.illegal s e with
  | some n => .trap (Trap.all i.x 0x01 n 0)
  | none =>
    match trapOf (i.hits (i.early (i.haz s))) with
    | some t => .trap t
    | none =>
      if !i.waits.isEmpty then .blocked
      else match trapOf (i.hits i.consumed) with
        | some t => .trap t
        | none =>
          if i.sh.xlane && i.team.strictx && !(i.x.co.aligned || i.team.fixed) then .trap (Trap.all i.x 0x10 0 0)
          else if i.marked || e.held s i then .held
          else .run

/-- The issue of an opcode in a context. -/
def State.iss (s : State) (x : Ctx) (opc : Nat) (f : Fields) (e : Extra) : Iss :=
  let sh := shapeOf opc f
  let us := shapeUses sh f x.team.claim
  ⟨x, opc, f, sh, fun h => us ++ e.uses s x h⟩

/-- The context of the cohort that is issuing, results due at its distance written (R292). -/
def State.ready (s : State) : Option (State × Ctx) :=
  match s.ctx? with
  | none => none
  | some x =>
    let s := s.land x.c x.co.id (some x.co.dist)
    some (s, x.again s)

/-- One attempt to issue: the common rules, then the instruction's own effect. With no cohort issuing, nothing happens. -/
def State.issue (s : State) (opc : Nat) (f : Fields) (go : State → Iss → State) (e : Extra := {}) : Out :=
  match s.ready with
  | none => .next s
  | some (s, x) =>
    let i := s.iss x opc f e
    .next (match i.verdict s e with
      | .run => go s i
      | .held => s
      | .blocked => s.modCohort x.c x.co.id fun k => { k with
          blocked := some ((k.blocked.map (·.1)).getD (s.cl x.c).cycle, (k.blocked.map (·.2.1)).getD x.team.split.toNat,
            i.waits) }
      | .trap t => s.takeTrap x (f.code opc) t)

/-- A trap of the instruction's own checks. -/
def State.trapNow (s : State) (i : Iss) (t : Trap) : State := s.takeTrap i.x (i.f.code i.opc) t

/-! ### What an issue counts (R192 to R194, R210) -/

/-- Whether a fibre runs off its home lane (R183). -/
def Ctx.foreign (x : Ctx) (h : Nat) : Bool :=
  x.team.homeLane h != x.co.slice * 32 + x.lane h || (x.co.fixed.isSome && decide (x.pos h ≥ 32))

/-- Whether a fibre's sources are read. -/
def Iss.reads (i : Iss) (h : Nat) : Bool := i.guard h || i.cross

/-- Whether a register stands tagged uniform for every fibre that reads it (R211). -/
def Iss.uniform (i : Iss) (r : Nat) : Bool :=
  i.team.uni.any fun u => u.1 == r && (i.x.fs.filter i.reads).all u.2.contains

/-- Whether a read of a register comes from no bank (R192): the cohort's latch holds it, or it is tagged uniform. -/
def Iss.free (i : Iss) (ls : List Latch) (r : Nat) : Bool :=
  (ls.any fun e => e.cohort == i.x.co.id && e.holds r) || i.uniform r

/-- Registers a fibre's sources take from the banks: vz, immediates, latched and uniform-tagged ones are not among them. -/
def Iss.banked (i : Iss) (ls : List Latch) (h : Nat) : List Nat :=
  (i.uses h).flatMap fun u => if u.rd then (u.regs (i.fib h)).filter fun r => !i.free ls r else []

/-- Cycles of one half beyond 1: of its operand phase, for bank excess and foreign reads, and of its write-back, for foreign writes
(R192, R193). -/
def Iss.halfCost (i : Iss) (ls : List Latch) (half : Nat) : Nat × Nat :=
  let fs := i.x.fs.filter fun h => i.x.pos h / 32 == half && i.reads h
  let rows := (fs.flatMap fun h =>
    (i.banked ls h).map fun r => (i.team.homeLane h / 2, ((i.fib h).base + r) % 4, (i.fib h).base + r)).eraseDups
  let b := maxNat (rows.map fun r => (rows.filter fun q => q.1 == r.1 && q.2.1 == r.2.1).length - 1)
  let fr := (fs.filter fun h => i.x.foreign h && !(i.banked ls h).isEmpty).length
  let writes (h : Nat) : Bool := i.guard h && (i.uses h).any fun u => u.wr && !(u.regs (i.fib h)).isEmpty
  let fw := (fs.filter fun h => i.x.foreign h && writes h).length
  (b + (fr + 15) / 16, (fw + 15) / 16)

/-- The entry HOLD fills: the source's registers, when every reading fibre names the same ones and they are not vz (R210). -/
def Iss.held (i : Iss) : Option Latch :=
  match (shapeUses i.sh i.f i.team.claim).find? (fun u => u.op == i.f.hold.toNat && u.rd && i.f.hold != 0) with
  | none => none
  | some u =>
    match ((i.x.fs.filter i.reads).map fun h => u.regs (i.fib h)).eraseDups with
    | [r :: rest] => some ⟨i.x.co.id, r, rest.length + 1, 2⟩
    | _ => none

/-- A slice's operand latch after an issue (R210): the cohort's entries age, HOLD's source enters, the least recently filled of four
entries goes. An entry whose register is written is dropped when the result is (State.land). -/
def Iss.latchNext (i : Iss) (ls : List Latch) : List Latch :=
  if i.team.inter then ls
  else
    let old := ls.filterMap fun e =>
      if e.cohort ≠ i.x.co.id then some e
      else if e.left ≤ 1 then none else some { e with left := e.left - 1 }
    let new := i.held.toList
    let all := (old.filter fun e => new.all fun n => !(n.cohort == e.cohort && n.reg == e.reg && n.n == e.n)) ++ new
    all.drop (all.length - 3)

/-- Cycles that the operand phase of an issue takes, the second half's own among them (R178, R193). -/
def Iss.phase (i : Iss) (ls : List Latch) : Nat :=
  1 + (i.halfCost ls 0).1 + (i.halfCost ls 1).1 + b2n (i.x.fs.any fun h => i.x.pos h / 32 == 1)
/-- Cycles that the write-back adds (R193). -/
def Iss.back (i : Iss) (ls : List Latch) : Nat := (i.halfCost ls 0).2 + (i.halfCost ls 1).2
/-- Cycles beyond what the issue takes without bank excess and foreign fibres, which CF_XBAR counts (R194). -/
def Iss.extra (i : Iss) (ls : List Latch) : Nat := (i.halfCost ls 0).1 + (i.halfCost ls 1).1 + i.back ls

/-- The instruction issues: its number, the latch, the cycles it takes, the slice's place in its cycle and the former's counters. -/
def State.account (s : State) (i : Iss) : State :=
  let (n, s) := s.fresh i.cl
  let ls := atD (s.cl i.cl).latches i.x.co.slice []
  let s := s.modCohort i.cl i.x.co.id fun k => { k with issued := n, rest := ((s.cl i.cl).cycle + i.phase ls, 0) }
  let s := s.modCl i.cl fun k => { k with
    used := modAt k.used i.x.co.slice (· + 1)
    latches := modAt k.latches i.x.co.slice i.latchNext
    xbar := if i.x.isMc then k.xbar else (k.xbar + i.extra ls) % 2 ^ 32
    turn := some (k.cycle, match k.turn with
      | some (c, j) => if c = k.cycle then max j i.x.co.slice else i.x.co.slice
      | none => i.x.co.slice)
    busy := modAt k.busy i.x.co.slice fun _ => some (k.cycle + i.phase ls + i.back ls) }
  if i.x.isMc then s
  else s.countCl i.cl 0x150 (i.x.fs.filter i.x.foreign).length

/-- Number of the cohort's last issue. -/
def State.issueNo (s : State) (i : Iss) : Nat :=
  match s.cohort? i.cl i.x.co.id with
  | some k => k.issued
  | none => 0

/-! ### Results -/

/-- What one fibre of an issue produces: destinations, FPSTAT flags (R226), its generator after stepping (R233). -/
structure Res where
  h     : Nat
  dsts  : List Dst
  flags : Flags
  gen   : Option Word
deriving DecidableEq, Repr

/-- Flags ORed into FPSTAT in a cycle (R227). -/
def Team.flag (t : Team) (cycle : Nat) (fl : Flags) : Team :=
  { t with
    fpstat := t.fpstat ||| fl.setWidth 32
    fpset := (cycle, if t.fpset.1 = cycle then t.fpset.2 ||| fl.setWidth 32 else fl.setWidth 32) }

/-- Flags of a team ORed into FPSTAT (R227). -/
def State.orFlags (s : State) (c slot : Nat) (fl : Flags) : State :=
  if fl = 0 then s else s.modTeam c slot fun t => t.flag (s.cl c).cycle fl

/-- Fixed-latency results: pending until their distance in native mode, written at once in interlocked mode (R290 to R296). -/
def State.produce (s : State) (i : Iss) (rs : List Res) : State :=
  let s := rs.foldl (fun s r =>
    let s := s.orFlags i.cl i.slot r.flags
    match r.gen with
    | some g => s.modFibre i.cl i.slot r.h fun f => { f with gen := g }
    | none => s) s
  if i.team.inter then
    let s := rs.foldl (fun s r => s.modFibre i.cl i.slot r.h fun f => r.dsts.foldl Fibre.apply f) s
    s.modTeam i.cl i.slot fun t => t.retag (lateWrites (rs.flatMap fun r => r.dsts.map fun d => ⟨0, r.h, d⟩)) (Config.uniformTag s.free)
  else
    let land := i.x.co.dist + i.sh.lat
    s.modCohort i.cl i.x.co.id fun k => { k with late := k.late ++ rs.flatMap fun r => r.dsts.map fun d => ⟨land, r.h, d⟩ }

/-- The issue completes with fixed-latency results and the cohort goes on at PC + len. -/
def State.finish (s : State) (i : Iss) (rs : List Res) : State :=
  ((s.account i).produce i rs).goOn i.x i.stall fun _ => i.next

/-- Registers written empty (R207); earlier results still to land there are discarded (R293). -/
def State.markEmpty (s : State) (i : Iss) (h : Nat) (regs : List Nat) : State :=
  let s := s.modFibre i.cl i.slot h fun f => { f with
    v := regs.foldl (fun v r => if r = 255 then v else modAt v r fun x => { x with full := false }) f.v }
  s.modCohort i.cl i.x.co.id fun k => { k with
    late := k.late.filter fun l => !(l.fibre == h && (match l.dst with | .v n _ => regs.contains n | _ => false)) }

/-- An outstanding result of a fibre, its destinations empty until it arrives. -/
def State.request (s : State) (i : Iss) (kind : PendKind) (h : Nat) (regs : List Nat) (code : Nat) (pay : Payload) : State :=
  let p : Pend := ⟨kind, i.slot, h, regs, s.issueNo i, i.x.pc, code, pay⟩
  (s.markEmpty i h regs).modCl i.cl fun k => { k with pend := k.pend ++ [p] }

/-- The registers an arrival fills. -/
def regsOf (v : Nat) (n : Nat) (p : Option Half) : List VReg :=
  (List.range n).map fun k =>
    match p with | some o => VReg.poisoned o | none => VReg.of (BitVec.ofNat 32 (v / 2 ^ (32 * k)))

/-- A variable-latency result computed by the slice (R207): FDIV, FSQRT, DDIV, DSQRT and the slow sources of S2V. -/
def State.finishVar (s : State) (i : Iss) (rs : List (Nat × Nat × Option Half × Flags)) : State :=
  let s := s.account i
  let s := rs.foldl (fun s (h, v, p, fl) =>
    match i.use? 0 h with
    | some u =>
      let regs := u.regs (i.fib h)
      s.request i .arith h regs 0 (.bits (regsOf v regs.length p) fl)
    | none => s) s
  s.goOn i.x i.stall fun _ => i.next

/-- The meaning of an opcode that computes each guarded fibre's result from that fibre alone (R318). -/
def State.alu (s : State) (opc : Nat) (f : Fields) (res : Iss → Nat → Res) (e : Extra := {}) : Out :=
  s.issue opc f (fun s i => s.finish i (i.on.map (res i))) e

end Sys2Proof.Machine
end

