-- ==== Sys2Proof/Machine/Flags.lean ====
section
/-!
DEFINITION. Machine/Flags.lean: carries and comparisons (R323, R324), the boolean codes of R326, saturation (R321), the
choice of a rounding mode (R232, R320), and the exceptions an instruction ORs into FPSTAT (R226, R227).
-/
namespace Sys2Proof.Machine

/-- A 32-bit sum with carry-in: the word and the carry (R323). -/
def addCarry (a b : Nat) (cin : Bool) : Nat × Bool :=
  let s := a + b + b2n cin
  (s % 2 ^ 32, decide (s ≥ 2 ^ 32))

/-- A 32-bit difference with borrow-in: the word and the borrow (R323). -/
def subBorrow (a b : Nat) (bin : Bool) : Nat × Bool :=
  ((a + 2 ^ 33 - b - b2n bin) % 2 ^ 32, decide (a < b + b2n bin))

/-- A source as a number: unsigned, or two's complement of w bits (R321). -/
def asInt (unsigned : Bool) (w x : Nat) : Int := if unsigned then (x % 2 ^ w : Nat) else sext w x

/-- CMP of ISET (R321). -/
def icmp (code : Nat) (a b : Int) : Bool :=
  match code with
  | 0 => decide (a = b)
  | 1 => decide (a ≠ b)
  | 2 => decide (a < b)
  | 3 => decide (a ≤ b)
  | 4 => decide (a > b)
  | _ => decide (a ≥ b)

/-- OP1 and OP2 of BOP on words (R326). -/
def bopWord (code : Nat) (x y : Word) : Word :=
  match code with
  | 0 => x &&& y
  | 1 => x ||| y
  | 2 => x ^^^ y
  | 3 => x &&& ~~~y
  | 4 => x ||| ~~~y
  | 5 => ~~~(x &&& y)
  | 6 => ~~~(x ||| y)
  | _ => ~~~(x ^^^ y)

/-- OP1 and OP2 of PLOP on single bits (R326, R349). -/
def bopBit (code : Nat) (x y : Bool) : Bool :=
  match code with
  | 0 => x && y
  | 1 => x || y
  | 2 => x != y
  | 3 => x && !y
  | 4 => x || !y
  | 5 => !(x && y)
  | 6 => !(x || y)
  | _ => x == y

/-- The w-bit result of an exact one: wrapped, or clamped to the type's range with SAT (R321). -/
def satTo (sat unsigned : Bool) (w : Nat) (x : Int) : Nat :=
  if !sat then wrap w x
  else if unsigned then (if x < 0 then 0 else if x ≥ 2 ^ w then 2 ^ w - 1 else x.toNat)
  else wrap w (max (-(2 ^ (w - 1))) (min x (2 ^ (w - 1) - 1)))

/-- The mode of RND in an arithmetic instruction (R320). -/
def arithMode (fpmode : Word) (rnd : Nat) : RMode := if rnd = 0 then fmRm fpmode else rmOf rnd

/-- The mode of RND in a conversion, and whether it is stochastic (R232, R320). -/
def convMode (fpmode : Word) (rnd : Nat) : RMode × Bool :=
  if rnd = 1 then (.rne, true)
  else if rnd = 0 then (fmRm fpmode, fmSr fpmode)
  else (rmOf rnd, false)

/-- A result in one fibre: a poisoned one sets no flag (R318). -/
def Iss.resV (i : Iss) (h v : Nat) (p : Option Half) (fl : Flags) : Res :=
  ⟨h, i.vec 0 h v p, if p.isSome then 0 else fl, none⟩

/-- A predicate result in one fibre. -/
def Iss.resP (i : Iss) (h : Nat) (v : Bool) (p : Option Half) (fl : Flags) : Res :=
  ⟨h, [predDst i.f.dst.toNat v p], if p.isSome then 0 else fl, none⟩

end Sys2Proof.Machine
end

