-- ==== Sys2Proof/Machine/Fp.lean ====
section
/-!
DEFINITION. Machine/Fp.lean: group 2, FP32 instructions (R329 to R335).
-/
namespace Sys2Proof.Machine

/-- FPMODE of the issue. -/
def Iss.fpm (i : Iss) : Word := i.team.fpmode

/-- A source after DAZ (R318). -/
def Iss.inp (i : Iss) (f : Fmt) (x : Nat) : FV × Flags := f.input i.fpm x

/-- A value negated on request (R329). -/
def FV.negIf (x : FV) (n : Bool) : FV := if n then x.neg else x

/-- SAT of R330: the rounded result clamped to [+0, 1.0], its flags kept. -/
def Fmt.satIf (f : Fmt) (sat : Bool) (r : Nat × Flags) : Nat × Flags := (if sat then f.clamp01 r.1 else r.1, r.2)

/-- The rounding mode of MOD[2:0] (R320). -/
def Iss.mode (i : Iss) : RMode := arithMode i.fpm (i.f.md 0 3)

/-- One source: value bits and flags of an operation on A. -/
def Iss.f1 (i : Iss) (f : Fmt) (h : Nat) (op : FV → Nat × Flags) : Nat × Option Half × Flags :=
  let a := i.src 1 h
  let x := i.inp f a.1
  let r := op x.1
  (r.1, a.2, x.2 ||| r.2)

/-- Two sources. -/
def Iss.f2 (i : Iss) (f : Fmt) (h : Nat) (op : FV → FV → Nat × Flags) : Nat × Option Half × Flags :=
  let a := i.src 1 h
  let b := i.srcB h
  let x := i.inp f a.1
  let y := i.inp f b.1
  let r := op x.1 y.1
  (r.1, a.2 <|> b.2, x.2 ||| y.2 ||| r.2)

/-- Three sources. -/
def Iss.f3 (i : Iss) (f : Fmt) (h : Nat) (op : FV → FV → FV → Nat × Flags) : Nat × Option Half × Flags :=
  let a := i.src 1 h
  let b := i.srcB h
  let c := i.src 3 h
  let x := i.inp f a.1
  let y := i.inp f b.1
  let z := i.inp f c.1
  let r := op x.1 y.1 z.1
  (r.1, a.2 <|> b.2 <|> c.2, x.2 ||| y.2 ||| z.2 ||| r.2)

/-- Such a value as a fixed-latency result. -/
def Iss.resF (i : Iss) (h : Nat) (r : Nat × Option Half × Flags) : Res := i.resV h r.1 r.2.1 r.2.2

/-- A variable-latency instruction of the slice: its value and flags arrive later (R207, R318). -/
def State.aluVar (s : State) (opc : Nat) (f : Fields) (res : Iss → Nat → Nat × Option Half × Flags) : Out :=
  s.issue opc f fun s i => s.finishVar i (i.on.map fun h =>
    let r := res i h
    (h, r.1, r.2.1, if r.2.1.isSome then 0 else r.2.2))

/-- x + y, x * y, x * y + z, x / y and sqrt(x) with the modifiers of R329 (R330, R336). -/
def Iss.fAdd (i : Iss) (f : Fmt) (sat : Bool) (h : Nat) : Nat × Option Half × Flags :=
  i.f2 f h fun a b => f.satIf sat (f.add i.fpm i.mode (a.negIf (i.f.m 3)) (b.negIf (i.f.m 4)))
def Iss.fMul (i : Iss) (f : Fmt) (sat : Bool) (h : Nat) : Nat × Option Half × Flags :=
  i.f2 f h fun a b => f.satIf sat (f.mul i.fpm i.mode (a.negIf (i.f.m 3)) b)
def Iss.fFma (i : Iss) (f : Fmt) (sat : Bool) (h : Nat) : Nat × Option Half × Flags :=
  i.f3 f h fun a b c => f.satIf sat (f.fma i.fpm i.mode (a.negIf (i.f.m 3)) b (c.negIf (i.f.m 4)))
def Iss.fDiv (i : Iss) (f : Fmt) (sat : Bool) (h : Nat) : Nat × Option Half × Flags :=
  i.f2 f h fun a b => f.satIf sat (f.div i.fpm i.mode (a.negIf (i.f.m 3)) b)
def Iss.fSqrt (i : Iss) (f : Fmt) (sat : Bool) (h : Nat) : Nat × Option Half × Flags :=
  i.f1 f h fun a => f.satIf sat (f.sqrt i.fpm i.mode a)
/-- Minimum or maximum (R331). -/
def Iss.fMinMax (i : Iss) (f : Fmt) (isMax : Bool) (h : Nat) : Nat × Option Half × Flags :=
  i.f2 f h fun a b => f.minmax i.fpm (fmLmm i.fpm) isMax a b
/-- FSET and DSET (R332). -/
def Iss.fSet (i : Iss) (f : Fmt) (h : Nat) : Res :=
  let a := i.src 1 h
  let b := i.srcB h
  let x := i.inp f a.1
  let y := i.inp f b.1
  let c := i.predSrc i.f.sc h
  let r := fcmp (i.f.md 0 4) x.1 y.1
  i.resP h (r.1 && c.1) (a.2 <|> b.2 <|> c.2) (x.2 ||| y.2 ||| r.2)

/-- FADD. -/
def execFadd (f : Fields) (s : State) : Out := s.alu 0x080 f fun i h => i.resF h (i.fAdd fp32 (f.m 5) h)
/-- FMUL. -/
def execFmul (f : Fields) (s : State) : Out := s.alu 0x081 f fun i h => i.resF h (i.fMul fp32 (f.m 5) h)
/-- FFMA. -/
def execFfma (f : Fields) (s : State) : Out := s.alu 0x082 f fun i h => i.resF h (i.fFma fp32 (f.m 5) h)
/-- FMIN. -/
def execFmin (f : Fields) (s : State) : Out := s.alu 0x083 f fun i h => i.resF h (i.fMinMax fp32 false h)
/-- FMAX. -/
def execFmax (f : Fields) (s : State) : Out := s.alu 0x084 f fun i h => i.resF h (i.fMinMax fp32 true h)
/-- FSET. -/
def execFset (f : Fields) (s : State) : Out := s.alu 0x085 f fun i h => i.fSet fp32 h
/-- FCLASS (R333). -/
def execFclass (f : Fields) (s : State) : Out :=
  s.alu 0x086 f fun i h => let a := i.src 1 h; i.resV h (2 ^ fp32.classBit a.1) a.2 0
/-- FRND (R334): no flag but NV for a signalling NaN. -/
def execFrnd (f : Fields) (s : State) : Out :=
  s.alu 0x087 f fun i h =>
    let a := i.src 1 h
    let r := fp32.frnd i.fpm i.mode (i.inp fp32 a.1).1
    i.resV h r.1 a.2 r.2
/-- FSQRT. -/
def execFsqrt (f : Fields) (s : State) : Out := s.aluVar 0x08A f fun i h => i.fSqrt fp32 (f.m 5) h
/-- FDIV. -/
def execFdiv (f : Fields) (s : State) : Out := s.aluVar 0x08B f fun i h => i.fDiv fp32 (f.m 5) h

/-! ### Approximate functions (R234, R335) -/

/-- Results of special sources (R335): none where the bound of R234 applies. -/
def Approx.special (g : Approx) (w : Word) (x : FV) : Option (Nat × Flags) :=
  let one : Nat := 0x3F800000
  let inf (n : Bool) : Nat := fp32.sign n + fp32.infBits
  let zero (n : Bool) : Nat := fp32.sign n
  match x with
  | .nan .. => some (fp32.nanOut (fmNanp w) [x])
  | .inf n =>
    match g with
    | .rcp => some (zero n, 0)
    | .rsq => some (if n then fp32.invalid else (0, 0))
    | .exp2 => some (if n then 0 else inf false, 0)
    | .log2 => some (if n then fp32.invalid else (inf false, 0))
    | .sin => some fp32.invalid
    | .cos => some fp32.invalid
    | .tanh => some (fp32.sign n + one, 0)
  | .fin n 0 _ =>
    match g with
    | .rcp => some (inf n, fDZ)
    | .rsq => some (inf n, fDZ)
    | .exp2 => some (one, 0)
    | .log2 => some (inf true, fDZ)
    | .sin => some (zero n, 0)
    | .cos => some (one, 0)
    | .tanh => some (zero n, 0)
  | .fin n _ _ =>
    match g with
    | .rsq => if n then some fp32.invalid else none
    | .log2 => if n then some fp32.invalid else none
    | _ => none

/-- One approximate function in a fibre. -/
def Iss.fApprox (i : Iss) (g : Approx) (h : Nat) : Nat × Option Half × Flags :=
  let a := i.src 1 h
  let x := i.inp fp32 a.1
  let r : Nat × Flags := match g.special i.fpm x.1 with
    | some r => r
    | none =>
      let v := match x.1 with
        | .fin n m e => g.value (fmApx i.fpm) a.1 n m e
        | _ => 0
      if fmFtz32 i.fpm && fp32.isSub v then (fp32.sign (bitOf v 31), fUF ||| fNX ||| fDN)
      else (v, if g = .exp2 ∧ v = fp32.infBits then fOF ||| fNX else 0)
  (r.1, a.2, x.2 ||| r.2)

/-- FRCP. -/
def execFrcp (f : Fields) (s : State) : Out := s.alu 0x088 f fun i h => i.resF h (i.fApprox .rcp h)
/-- FRSQ. -/
def execFrsq (f : Fields) (s : State) : Out := s.alu 0x089 f fun i h => i.resF h (i.fApprox .rsq h)
/-- FEXP2. -/
def execFexp2 (f : Fields) (s : State) : Out := s.alu 0x08C f fun i h => i.resF h (i.fApprox .exp2 h)
/-- FLOG2. -/
def execFlog2 (f : Fields) (s : State) : Out := s.alu 0x08D f fun i h => i.resF h (i.fApprox .log2 h)
/-- FSIN. -/
def execFsin (f : Fields) (s : State) : Out := s.alu 0x08E f fun i h => i.resF h (i.fApprox .sin h)
/-- FCOS. -/
def execFcos (f : Fields) (s : State) : Out := s.alu 0x08F f fun i h => i.resF h (i.fApprox .cos h)
/-- FTANH. -/
def execFtanh (f : Fields) (s : State) : Out := s.alu 0x090 f fun i h => i.resF h (i.fApprox .tanh h)

end Sys2Proof.Machine
end

