-- ==== Sys2Proof/Machine/Dp.lean ====
section
/-!
DEFINITION. Machine/Dp.lean: group 3, FP64 (R336) and packed 16-bit instructions (R337, R338).
-/
namespace Sys2Proof.Machine

/-- DADD. -/
def execDadd (f : Fields) (s : State) : Out := s.alu 0x0C0 f fun i h => i.resF h (i.fAdd fp64 false h)
/-- DMUL. -/
def execDmul (f : Fields) (s : State) : Out := s.alu 0x0C1 f fun i h => i.resF h (i.fMul fp64 false h)
/-- DFMA. -/
def execDfma (f : Fields) (s : State) : Out := s.alu 0x0C2 f fun i h => i.resF h (i.fFma fp64 false h)
/-- DMIN. -/
def execDmin (f : Fields) (s : State) : Out := s.alu 0x0C3 f fun i h => i.resF h (i.fMinMax fp64 false h)
/-- DMAX. -/
def execDmax (f : Fields) (s : State) : Out := s.alu 0x0C4 f fun i h => i.resF h (i.fMinMax fp64 true h)
/-- DSET. -/
def execDset (f : Fields) (s : State) : Out := s.alu 0x0C5 f fun i h => i.fSet fp64 h
/-- DDIV. -/
def execDdiv (f : Fields) (s : State) : Out := s.aluVar 0x0C6 f fun i h => i.fDiv fp64 false h
/-- DSQRT. -/
def execDsqrt (f : Fields) (s : State) : Out := s.aluVar 0x0C7 f fun i h => i.fSqrt fp64 false h

/-- The element format of a packed instruction (R337). -/
def Iss.pkFmt (i : Iss) : Fmt := if i.f.m 0 then bf16 else fp16

/-- Elements 0 and 1 computed independently, their flags ORed (R337). -/
def Iss.packed (i : Iss) (h : Nat) (op : Fmt → FV → FV → FV → Nat × Flags) : Res :=
  let f := i.pkFmt
  let a := i.src 1 h
  let b := i.srcB h
  let c := i.src 3 h
  let one (k : Nat) : Nat × Flags :=
    let x := i.inp f (fld a.1 (16 * k) 16)
    let y := i.inp f (fld b.1 (16 * k) 16)
    let z := i.inp f (fld c.1 (16 * k) 16)
    let r := op f x.1 y.1 z.1
    (r.1, x.2 ||| y.2 ||| (if i.sh.sc = .v32 then z.2 else 0) ||| r.2)
  let lo := one 0
  let hi := one 1
  i.resV h (lo.1 + hi.1 * 2 ^ 16) (a.2 <|> b.2 <|> c.2) (lo.2 ||| hi.2)

/-- Rounding mode, NA and SAT of a packed instruction (R337). -/
def Iss.pkMode (i : Iss) : RMode := arithMode i.fpm (i.f.md 1 3)

/-- PKADD. -/
def execPkadd (f : Fields) (s : State) : Out :=
  s.alu 0x0D0 f fun i h => i.packed h fun t a b _ => t.satIf (f.m 5) (t.add i.fpm i.pkMode (a.negIf (f.m 4)) b)
/-- PKMUL. -/
def execPkmul (f : Fields) (s : State) : Out :=
  s.alu 0x0D1 f fun i h => i.packed h fun t a b _ => t.satIf (f.m 5) (t.mul i.fpm i.pkMode (a.negIf (f.m 4)) b)
/-- PKFMA: NA negates A, and with it the product (R329, R337). -/
def execPkfma (f : Fields) (s : State) : Out :=
  s.alu 0x0D2 f fun i h => i.packed h fun t a b c =>
    t.satIf (f.m 5) (t.fma i.fpm i.pkMode (a.negIf (f.m 4)) b c)
/-- PKMIN. -/
def execPkmin (f : Fields) (s : State) : Out :=
  s.alu 0x0D3 f fun i h => i.packed h fun t a b _ => t.minmax i.fpm (fmLmm i.fpm) false a b
/-- PKMAX. -/
def execPkmax (f : Fields) (s : State) : Out :=
  s.alu 0x0D4 f fun i h => i.packed h fun t a b _ => t.minmax i.fpm (fmLmm i.fpm) true a b

/-- a0 * b0 + a1 * b1 + c, rounded once (R236, R338). -/
def dot2 (w : Word) (a0 a1 b0 b1 c : FV) : Nat × Flags :=
  let p0 := if a0.isNan || b0.isNan then some (.fin false 0 0) else a0.prod b0
  let p1 := if a1.isNan || b1.isNan then some (.fin false 0 0) else a1.prod b1
  let bad := p0.isNone || p1.isNone
  if [a0, a1, b0, b1, c].any FV.isNan then
    let r := fp32.nanOut (fmNanp w) [a0, a1, b0, b1, c]
    (r.1, if bad then r.2 ||| fNV else r.2)
  else match p0, p1 with
    | some x, some y => fp32.sumOut w (fmRm w) [x, y, c]
    | _, _ => fp32.invalid

/-- FDOT2. -/
def execFdot2 (f : Fields) (s : State) : Out :=
  s.alu 0x0D5 f fun i h =>
    let t := i.pkFmt
    let a := i.src 1 h
    let b := i.srcB h
    let c := i.src 3 h
    let a0 := i.inp t (fld a.1 0 16)
    let a1 := i.inp t (fld a.1 16 16)
    let b0 := i.inp t (fld b.1 0 16)
    let b1 := i.inp t (fld b.1 16 16)
    let z := i.inp fp32 c.1
    let r := dot2 i.fpm a0.1 a1.1 b0.1 b1.1 z.1
    i.resV h r.1 (a.2 <|> b.2 <|> c.2) (a0.2 ||| a1.2 ||| b0.2 ||| b1.2 ||| z.2 ||| r.2)

end Sys2Proof.Machine
end

