-- ==== Sys2Proof/Machine/Conv.lean ====
section
/-!
DEFINITION. Machine/Conv.lean: group 4, conversions (R231, R232, R339 to R343).
-/
namespace Sys2Proof.Machine

/-- A conversion format: floating, or integer of a width. -/
inductive CvtFmt where
  | flt (f : Fmt)
  | int (unsigned : Bool) (w : Nat)
deriving DecidableEq, Repr

/-- The format of a CVT code (R339). -/
def cvtFmt (c : Nat) : CvtFmt :=
  match c with
  | 0 => .flt fp32
  | 1 => .flt fp16
  | 2 => .flt bf16
  | 3 => .flt e4m3
  | 4 => .flt e5m2
  | 5 => .flt e2m1
  | 7 => .int false 8
  | 8 => .int true 8
  | 9 => .int false 16
  | 10 => .int false 32
  | 11 => .flt fp64
  | _ => .int false 64

def CvtFmt.width : CvtFmt → Nat
  | .flt f => f.bits
  | .int _ w => w

/-- A converted element: bits, flags, and the generator after it. -/
structure Conv where
  bits  : Nat
  flags : Flags
  gen   : Word
deriving DecidableEq, Repr

/-- The mode for a finite value (R232, R233): a stochastic conversion steps the generator for an inexact one; an exact one beyond
the range overflows as under RNE. -/
def stepMode (m : RMode × Bool) (inexact : Bool) (g : Word) : RMode × Word :=
  if m.2 then (if inexact then (.sr (genStep g).toNat, genStep g) else (.rne, g)) else (m.1, g)

/-- A conversion whose rounding is stochastic uses the fibre's generator (R232, R404). -/
def convExtra : Extra where
  held := fun s i => (convMode i.team.fpmode (i.f.md 0 3)).2 && i.on.any fun h => s.genBusy i.cl i.slot h

/-- A value rounded into a floating format with the special values of R231. -/
def Fmt.convOut (f : Fmt) (w : Word) (m : RMode × Bool) (g : Word) (x : FV) : Conv :=
  match x with
  | .fin n k e =>
    let (md, g) := stepMode m (f.inexact k e) g
    let r := f.round md (ftzOf w f) n k e false
    ⟨r.1, r.2, g⟩
  | y =>
    let r := f.out w m.1 y
    ⟨r.1, r.2, g⟩

/-- Limits of an integer type. -/
def intMin (unsigned : Bool) (w : Nat) : Int := if unsigned then 0 else -(2 ^ (w - 1))
def intMax (unsigned : Bool) (w : Nat) : Int := if unsigned then 2 ^ w - 1 else 2 ^ (w - 1) - 1

/-- An integer saturated to a type; out of range sets NV (R231, R341). -/
def intSat (unsigned : Bool) (w : Nat) (x : Int) (fl : Flags) : Nat × Flags :=
  if x < intMin unsigned w then (wrap w (intMin unsigned w), fNV)
  else if x > intMax unsigned w then (wrap w (intMax unsigned w), fNV)
  else (wrap w x, fl)

/-- A value converted to an integer type (R231). -/
def convInt (unsigned : Bool) (wd : Nat) (m : RMode × Bool) (g : Word) (x : FV) : Conv :=
  match x with
  | .nan .. => ⟨0, fNV, g⟩
  | .inf n => ⟨wrap wd (if n then intMin unsigned wd else intMax unsigned wd), fNV, g⟩
  | .fin n k e =>
    let inexact := (quant k e 0 false).2 != 0
    let (md, g) := stepMode m inexact g
    let r := roundInt md n k e
    let v : Int := if n then -(r.1 : Int) else r.1
    let q := intSat unsigned wd v (if inexact then fNX else 0)
    ⟨q.1, q.2, g⟩

/-- One element of a CVT (R341). -/
def convert (w : Word) (m : RMode × Bool) (dt st : CvtFmt) (g : Word) (x : Nat) : Conv :=
  match st with
  | .flt f =>
    let y := f.input w x
    let r := match dt with
      | .flt d => d.convOut w m g y.1
      | .int u k => convInt u k m g y.1
    { r with flags := r.flags ||| y.2 }
  | .int u k =>
    let v := asInt u k x
    match dt with
    | .flt d => d.convOut w m g (.fin (decide (v < 0)) v.natAbs 0)
    | .int u' k' => let q := intSat u' k' v 0; ⟨q.1, q.2, g⟩

/-- Elements converted in order, the generator threaded through; bits packed from bit 0 (R222, R341). -/
def convertAll (w : Word) (m : RMode × Bool) (dt st : CvtFmt) : Word → List Nat → Nat × Flags × Word
  | g, [] => (0, 0, g)
  | g, x :: xs =>
    let r := convert w m dt st g x
    let t := convertAll w m dt st r.gen xs
    (r.bits + t.1 * 2 ^ dt.width, r.flags ||| t.2.1, t.2.2)

/-- The source elements of a CVT (R340). -/
def Iss.cvtElems (i : Iss) (wd ws a b : Nat) : List Nat :=
  let e := i.f.md 3 3
  if wd ≥ 32 then [fld a (if ws ≥ 32 then 0 else e * ws) ws]
  else
    let h := 16 / wd
    if h * ws ≥ 32 then
      (List.range h).map (fun k => fld a (k * ws) ws) ++ (List.range h).map (fun k => fld b (k * ws) ws)
    else
      (List.range h).map (fun k => fld a ((e * h + k) * ws) ws) ++ (List.range h).map (fun k => fld b ((e * h + h + k) * ws) ws)

/-- CVT. A fibre whose source is poisoned computes nothing and does not step its generator (R232). -/
def execCvt (f : Fields) (s : State) : Out :=
  s.alu 0x100 f (e := convExtra) fun i h =>
    let dt := cvtFmt (bitsOf f.sc.toNat 0 4)
    let st := cvtFmt (bitsOf f.sc.toNat 4 4)
    let a := i.src 1 h
    let b := i.srcB h
    match a.2 <|> b.2 with
    | some o => i.resV h 0 (some o) 0
    | none =>
      let g := (i.fib h).gen
      let r := convertAll i.fpm (convMode i.fpm (f.md 0 3)) dt st g (i.cvtElems dt.width st.width a.1 b.1)
      { i.resV h r.1 none r.2.1 with gen := if r.2.2 = g then none else some r.2.2 }

/-- FMT of MXQ and MXDQ (R342): the format and its emax. -/
def mxFmt (c : Nat) : Fmt × Nat :=
  match c with
  | 0 => (e2m1, 2)
  | 1 => (e4m3, 8)
  | _ => (e5m2, 15)

/-- The shared scale S (R342). -/
def mxScale (emax : Nat) (b : FV) : Nat :=
  match b with
  | .nan .. => 0xFF
  | .inf _ => 0xFF
  | .fin _ m e => if m = 0 then 0 else (min (max ((Nat.log2 m : Int) + e - emax + 127) 0) 254).toNat

/-- MXQ (R342). -/
def execMxq (f : Fields) (s : State) : Out :=
  s.alu 0x101 f (e := convExtra) fun i h =>
    let (t, emax) := mxFmt (f.md 3 2)
    let a := i.src 1 h
    let b := i.srcB h
    match a.2 <|> b.2 with
    | some o => i.resV h 0 (some o) 0
    | none =>
      let y := i.inp fp32 b.1
      let sc := mxScale emax y.1
      if f.m 5 then i.resV h sc none (if y.1.isSig then fNV else 0)
      else
        let x := i.inp fp32 a.1
        let nv : Flags := x.2 ||| y.2 ||| (if x.1.isSig || y.1.isSig then fNV else 0)
        if sc = 0xFF then
          i.resV h (if t = e4m3 then 0x7F else if t = e5m2 then 0x7E else 0) none (nv ||| (if t = e2m1 then fNV else 0))
        else
          let v : FV := match x.1 with
            | .fin n m e => .fin n m (e + 127 - sc)
            | z => z
          let g := (i.fib h).gen
          let r := t.convOut i.fpm (convMode i.fpm (f.md 0 3)) g v
          { i.resV h r.bits none (nv ||| r.flags) with gen := if r.gen = g then none else some r.gen }

/-- MXDQ (R343). -/
def execMxdq (f : Fields) (s : State) : Out :=
  s.alu 0x102 f fun i h =>
    let (t, _) := mxFmt (f.md 3 2)
    let a := i.src 1 h
    let b := i.srcB h
    let k := f.md 0 3
    let sc := b.1 % 256
    let e := t.decode (fld a.1 (k * t.bits) t.bits)
    let r : Nat × Flags := match e with
      | .nan .. => fp32.nanOut (fmNanp i.fpm) [e]
      | .inf n => if sc = 0xFF then (fp32.qnan, 0) else fp32.infOut n
      | .fin n m q => if sc = 0xFF then (fp32.qnan, 0) else fp32.round (fmRm i.fpm) (fmFtz32 i.fpm) n m (q + sc - 127) false
    i.resV h r.1 (a.2 <|> b.2) r.2

end Sys2Proof.Machine
end

