-- ==== Sys2Proof/Machine/Boot.lean ====
section
/-!
DEFINITION. Machine/Boot.lean: boot (R54, R55), the verified image, attestation (R56) and package reset.
-/
namespace Sys2Proof.Machine

/-- Bytes of an image's header, body and signatures (R55). That the header's length counts the body alone is not said (DESIGN
CHOICE, log entry 18). -/
def imageLen (img : List Byte) : Nat := 64 + leVal ((img.drop 12).take 4) + 384 + 29792

/-- Stage 3 (R54, R55): magic, zero reserved bytes, this stepping, at most 64 MiB, both signatures, and an SVN of the fused minimum or
above. -/
def imageOk (img : List Byte) : Bool :=
  leVal (img.take 4) == 0x4B4C4E46 && (((img.drop 24).take 40).all fun b => b == 0) && leVal ((img.drop 20).take 4) == 0x04A2
    && decide (imageLen img ≤ 0x4000000) && decide (imageLen img ≤ img.length) && Config.imageVerifies img
    && decide (Config.minSvn ≤ leVal ((img.drop 8).take 4))

/-- MC_STAT.BOOT (R49). -/
def State.setBoot (s : State) (code : Nat) : State := s.setRegFld 0x228 16 16 code

/-- Whether stage 2 has trained the PCI Express links, and stage 4 the Ryndi ports (R54). -/
def State.linksTrained (s : State) : Bool := [3, 4, 0x0010, 0x8003].contains (s.regFld 0x228 16 16)
def State.portsTrained (s : State) : Bool := s.regFld 0x228 16 16 == 0x0010

/-- Stage 4 and the jump (R54): the Ryndi ports are trained, the image's body lies in both cores' SRAM from 0, and the boot ROM's
tables in its last 64 KiB (R456). -/
def State.bootRun (s : State) : State :=
  let img := s.boot.cand
  let body := (img.drop 64).take (min (leVal ((img.drop 12).take 4)) 0x1F0000)
  let put (m : Memory) (b : Nat) : Memory := bootEntries.foldl (fun m e => m.putBytes (b + e.1) (leBytes 8 e.2)) (m.putBytes b body)
  let s := { s with
    mem := put (put s.mem sramBase) (sramBase + 0x200000)
    ports := List.replicate 12 .full
    boot := { s.boot with image := img, stage := 0 } }
  (s.setBoot 0x0010).startCore false

/-- The boot ROM enters stage n, with an image to verify (R54). -/
def State.bootStage (s : State) (n : Nat) : State := State.setBoot { s with boot := { s.boot with stage := n } } n

/-- The ROM halts (stage 2), or waits for recovery (stage 3). -/
def State.bootFail (s : State) (code : Nat) (waits : Bool) : State :=
  State.setBoot { s with boot := { s.boot with stage := 0, waits := waits } } code

/-- The end of the stage that runs (R54), one stage a step (log entry 114). Until stage 2 is over nothing comes through a
function. A verified recovery image is written to flash. -/
def State.bootTick (s : State) : State :=
  match s.boot.stage with
  | 0 => s
  | 1 => State.bootStage { s with spares := s.boot.record } 2
  | 2 =>
    if s.boot.trained then
      State.bootStage { s with pcie := [true, true], boot := { s.boot with cand := s.boot.flash.getD [], recov := false } } 3
    else s.bootFail 0x8002 false
  | 3 =>
    if imageOk s.boot.cand then
      State.bootStage (if s.boot.recov then { s with boot := { s.boot with flash := some s.boot.cand } } else s) 4
    else s.bootFail 0x8003 true
  | _ => s.bootRun

/-- The spares a repair record names (R15 to R17, R54). -/
def sparesOf (l : List (Option Nat × List Nat × List Nat × List Nat)) : List Spares :=
  (List.range 4).map fun d =>
    match l[d]? with
    | some (pair, off, slices, chans) =>
      { Spares.reset with
        pair := pair
        offline := off
        slices := if slices.length = 24 then slices else Spares.reset.slices
        used := slices.contains 24
        spared := chans }
    | none => Spares.reset

/-- What of a die's spares outlives a reset: the decisions, not what was under way (R18). -/
def Spares.kept (sp : Spares) : Spares := { sp with draining := [], copying := [] }

/-- Package reset: every register and table at its reset value, host and peer memory as they were, what flash holds too, and
the boot ROM in its first stage (R18, R54). -/
def State.packageReset (s : State) (b : BootInput) : State :=
  let r := State.reset
  let record := if s.boot.flash.isNone then sparesOf b.spares
    else if s.boot.stage = 1 then s.boot.record else s.spares.map Spares.kept
  let r := { r with
    agenda := s.agenda
    free := s.free
    mem := s.mem.filter fun c => isHost c.1 || isPeer c.1
    boot := { r.boot with flash := some (s.boot.flash.getD b.image), record := record, trained := b.trained } }
  r.bootStage 1

/-- BOOTCTL.GO (R54): the ROM repeats stage 3 on the image at PA 0 while it waits for recovery. -/
def State.bootGo (s : State) : State :=
  if !s.boot.waits then s
  else
    let s := (s.demandHome (List.range 64)).touchBy none (List.range 64)
    let cand := s.homeBytes 0 (min (imageLen (s.homeBytes 0 64)) 0x4000000)
    State.bootStage { s with boot := { s.boot with cand := cand, recov := true, waits := false } } 3

/-! ### Attestation (R56) -/

/-- ATTGO: a request while one is in progress is ignored; a buffer outside local HBM ends it at once. -/
def State.attGo (s : State) : State :=
  let buf := s.regFld 0x728 15 37 * 32768
  if s.boot.att.isSome || !isLocal buf then s
  else { s with boot := { s.boot with
    att := some (buf, (List.range 4).flatMap fun k => leBytes 8 (s.reg (0x700 + 8 * k)).toNat) } }

/-- Bytes 0 to 127 of a report. -/
def State.reportHead (s : State) (nonce : List Byte) : List Byte :=
  let img := s.boot.image
  leBytes 4 0x4B525054 ++ leBytes 2 1 ++ leBytes 2 0x04A2 ++ nonce
    ++ (Config.sha256 (img.take (64 + leVal ((img.drop 12).take 4)))).toList ++ (img.drop 8).take 4
    ++ [BitVec.ofNat 8 (b2n s.core.d1), 0, 0, 0] ++ (Config.sha256 (Config.repairRecord (s.spares.map fun x => (x.pair, x.offline, x.slices, x.spared)))).toList
    ++ (List.range 4).flatMap fun d => leBytes 4 (s.spareStat d)

/-- The report written to its buffer; ATTGO reads 0. -/
def State.attFinish (s : State) : State :=
  match s.boot.att with
  | none => s
  | some (buf, nonce) =>
    let head := s.reportHead nonce
    let bytes := head ++ (Config.signRsa head).toList ++ (Config.signSlh head).toList
    { s.homeWrite (cellsAt buf bytes) with boot := { s.boot with att := none } }

end Sys2Proof.Machine
end

