-- ==== Sys2Proof/Machine/RegWrite.lean ====
section
/-!
DEFINITION. Machine/RegWrite.lean: writes of the device register space (R5, R6, R20) with what each starts.
-/
namespace Sys2Proof.Machine

/-- TL_VALUE (R407): ignored while a number is outstanding and for the counters only hardware writes. -/
def State.tlValueSet (s : State) (key v wm : Nat) : State :=
  let t := s.timeline key
  if !t.out.isEmpty || hwCounter key then s
  else
    let new := BitVec.ofNat 64 ((t.value.toNat - (t.value.toNat &&& wm)) ||| (v &&& wm))
    s.tlWrite key { t with value := new, issued := new }

/-- TL_ERRV (R407): any write sets all ones. -/
def State.tlErrvSet (s : State) (key : Nat) : State :=
  s.setTimeline key { s.timeline key with errv := BitVec.allOnes 64 }

/-- GB_CTL b (R200): a write whose bytes include bits [15:0] clears COUNT and the die and team counts. -/
def State.gbWrite (s : State) (b v wm : Nat) : State :=
  let g := s.gbar b
  let new := (g.word - (g.word &&& wm)) ||| (v &&& wm)
  let g := { g with asid := fld new 48 10, expect := BitVec.ofNat 16 new }
  if wm &&& 0xFFFF = 0 then s.setGbar b g
  else
    let clear (t : Team) : Team := { t with gbar := t.gbar.filter fun x => x.1 != b }
    let s := s.setGbar b { g with count := 0, sums := [0, 0, 0, 0], flight := [0, 0, 0, 0] }
    { s with
      clusters := s.clusters.map fun k => if k.teams.any (fun t => t.gbar.any fun x => x.1 == b) then
        { k with teams := k.teams.map clear } else k
      saved := s.saved.map fun w => { w with team := clear w.team } }

/-- FRW_CTL (R25, R28): opening a window, or a new EPOCH, begins its element counts anew (log entry 24). -/
def State.frwWrite (s : State) (off v wm : Nat) : State :=
  let old := s.reg off
  let s := s.regWritePlain off v wm
  let new := s.reg off
  let w := (off - 0x1410) / 32
  if (new.getLsbD 7 && !old.getLsbD 7) || fld new.toNat 48 16 != fld old.toNat 48 16 then
    State.unstall { s with fabric := s.fabric.filter fun x => x.1 / 2 ^ 28 != w }
  else s.unstall

/-- VF_DB and VF_EV (R45): a range beyond the last page or ring, or VF Enable, leaves the register unchanged. -/
def State.vfWrite (s : State) (off v wm : Nat) : State :=
  let t := s.regWritePlain off v wm
  let x := (t.reg off).toNat
  let bad := if off % 16 = 0 then decide (fld x 0 8 + fld x 8 8 > 256) else decide (fld x 0 10 + fld x 10 11 > 1024)
  if bad || Config.vfEnable s.free then s else t

/-- DBG_BK (R424): RESUME releases the cluster's held cohorts and clears. -/
def State.dbgWrite (s : State) (off cl v wm : Nat) : State :=
  let s := s.regWritePlain off v wm
  if !(s.reg off).getLsbD 2 then s
  else (s.setRegFld off 2 1 0).modCl cl fun k => { k with
    cohorts := k.cohorts.map fun (h : Cohort) => if h.hold = .bkpt then { h with hold := .resumed } else h }

/-- A record appended by the firmware (R459). -/
def State.fwRecord (s : State) : State :=
  let base := s.regFld 0x400 12 40 * 4096
  (s.ringPut base (s.regFld 0x400 0 4) (isLocal base) false 0x408 0x410 0x418
    [s.ptime, (s.reg 0x428).toNat, (s.reg 0x430).toNat, (s.reg 0x438).toNat]).2

/-- A write to the management core's and the other registers of D0's block that starts something. -/
def State.dieZeroWrite (s : State) (r v wm : Nat) : State :=
  let p := s.regWritePlain r v wm
  if r = 0x210 then
    (if p.core.raise then State.mcRaise { p with core := { p.core with raise := false } } 1 else p)
  else if r = 0x220 then { p with core := { p.core with beat := p.ptime } }
  else if r = 0x428 ∨ r = 0x430 then (if wm = 2 ^ 64 - 1 then p else s)
  else if r = 0x438 then (if wm = 2 ^ 64 - 1 then p.fwRecord else s)
  else if r = 0x500 then (if bitOf (v &&& wm) 0 then p.bootGo else p)
  else if r = 0x720 then (if bitOf (v &&& wm) 0 then s.attGo else s)
  else if r = 0x908 then
    (if wm &&& 0xFFFF = 0 then s
     else
      let new := ((s.reg r).toNat - ((s.reg r).toNat &&& wm)) ||| (v &&& wm)
      s.ascmd (fld new 10 2) (fld new 0 10))
  else if r = 0x928 then (p.rplAnswer (p.reg r).toNat).drainNotices
  else if r = 0x950 then (if bitOf (v &&& wm) 0 && !(s.reg r).getLsbD 31 then p.migStart else p)
  else if 0xC00 ≤ r ∧ r < 0x1400 then s.gbWrite ((r - 0xC00) / 8) v wm
  else if 0x1400 ≤ r ∧ r < 0x1600 ∧ r % 32 = 16 then s.frwWrite r v wm
  else if 0x1400 ≤ r ∧ r < 0x1600 then p.unstall
  else if 0x1610 ≤ r ∧ r < 0x1800 then s.vfWrite r v wm
  else p

/-- One register written: `v` under the bit mask `wm`. -/
def State.regWrite (s : State) (off v wm : Nat) : State :=
  let d := off / 0x4000000
  let r := off % 0x4000000
  if 0x400000 ≤ r ∧ r < 0x420000 then
    let key := d * 4096 + (r - 0x400000) / 32
    (if r % 32 = 0 then s.tlValueSet key v wm else if r % 32 = 16 then s.tlErrvSet key else s)
  else if r = 0x1800 ∨ r = 0x1808 then
    (if s.slotsUsed d ≠ 0 then s else s.regWritePlain off v wm)
  else if 0x200000 ≤ r ∧ r < 0x228000 ∧ r % 0x1000 = 0x188 then
    s.dbgWrite off (d * 40 + (r - 0x200000) / 0x1000) v wm
  else if 0x200000 ≤ r ∧ r < 0x228000 ∧ r % 0x1000 = 0x154 then
    let old := s.regView off
    let m := wm &&& mask 31 0
    s.modCl (d * 40 + (r - 0x200000) / 0x1000) fun k => { k with xbar := (old - (old &&& m)) ||| (v &&& m) }
  else if 0x200000 ≤ r ∧ r < 0x228000 ∧ r % 0x1000 = 0x020 then
    let s := s.regWritePlain off v wm
    s.modCl (d * 40 + (r - 0x200000) / 0x1000) fun k => k.setSkip (s.regFld off 0 4)
  else if d = 0 then s.dieZeroWrite r v wm
  else s.regWritePlain off v wm

/-- A write of n bytes from an offset of the register space, the registers it reaches in ascending order. -/
def State.regStore (s : State) (off n v : Nat) : State :=
  let words := (List.range ((off % 4 + n + 3) / 4)).map fun k => off / 4 * 4 + 4 * k
  let regs := (words.filterMap fun w => (regAt w).map fun x => (x.1, x.2.width)).eraseDups
  regs.foldl (fun s x =>
    -- the bytes of this register that the write covers
    let lo := max off x.1
    let hi := min (off + n) (x.1 + x.2)
    if hi ≤ lo then s
    else
      let w := 8 * (hi - lo)
      s.regWrite x.1 (fld v (8 * (lo - off)) w * 2 ^ (8 * (lo - x.1))) ((2 ^ w - 1) * 2 ^ (8 * (lo - x.1)))) s

end Sys2Proof.Machine
end

