-- ==== Sys2Proof/Machine/Data.lean ====
section
/-!
DEFINITION. Machine/Data.lean: data accesses of fibres: effective addresses and apertures (R314, R315, R372), the checks
of R373 and R266, what a store writes (R130, R134 to R137, R376) and how a load finds its value (R133, R146, R153, R375).
-/
namespace Sys2Proof.Machine

/-! ### Targets -/

/-- Where an access goes: team scratchpad, a virtual address, or nowhere (a permission violation). -/
inductive Target where
  | scr (off : Nat)
  | mem (va : Nat)
  | bad (va : Nat)
deriving DecidableEq, Repr

/-- Whether n bytes touch a spill area of the team (R315). -/
def Team.inSpill (t : Team) (va n : Nat) : Bool := spillMeets t.priv va n

/-- A global virtual address (R110, R315). -/
def Team.globalT (t : Team) (va n : Nat) : Target :=
  if va ≥ 2 ^ 48 then .bad va else if t.inSpill va n then .bad va else .mem va

/-- Private offset o of fibre h (R315). -/
def Team.privT (t : Team) (h o : Nat) : Target :=
  let size := t.privs.toNat
  let va := t.privb.toNat + h * size + o
  if size = 0 ∨ o + 1024 ≥ size ∨ va ≥ 2 ^ 48 then .bad va else .mem va

/-- The signed offset of a 96-bit form (R372), modulo 2^64. -/
def Iss.offset (i : Iss) : Nat := if i.f.len = .m then wrap 64 (sext 32 i.f.imm.toNat) else 0

/-- The effective address and its target (R314, R372). -/
def Iss.target (i : Iss) (h a n : Nat) : Nat × Target :=
  let t := i.team
  let e64 := (a + i.offset) % 2 ^ 64
  let e32 := (a + i.offset) % 2 ^ 32
  match i.f.sp with
  | 0 => (e64,
      if e64 / 2 ^ 48 = 0 then t.globalT e64 n
      else if fld e64 32 16 != 0 then .bad e64
      else if e64 / 2 ^ 48 = 0xFFF0 then .scr e32
      else if e64 / 2 ^ 48 = 0xFFF8 then t.privT h e32
      else .bad e64)
  | 1 => (e64, t.globalT e64 n)
  | 2 => (e32, .scr e32)
  | 3 => (e32, t.privT h e32)
  | _ => (e32, t.globalT ((t.frame + e32) % 2 ^ 48) n)

/-- Bytes of the table a claim takes, and where they begin (R251). -/
def Claim.bytes (k : Claim) : Nat := 2 ^ k.b * (if k.kw64 && k.vw64 then 256 else 128)
def Team.caddyBase (t : Team) : Nat := t.scr * 1024 - t.caddy * 2048

/-- Whether n bytes of scratchpad lie outside the allocation or touch a claimed byte (R373). -/
def Team.scrBad (t : Team) (off n : Nat) : Bool :=
  decide (off + n > t.scr * 1024) || (match t.claim with
    | some k => decide (off < t.caddyBase + k.bytes ∧ t.caddyBase < off + n)
    | none => false)

/-- One lane's access. -/
structure Lane where
  h   : Nat
  ea  : Nat
  tgt : Target
  n   : Nat
deriving DecidableEq, Repr

/-- A guarded fibre's access of n bytes at the address in SA. -/
def Iss.lane (i : Iss) (n h : Nat) : Lane :=
  let x := i.target h (i.src 1 h).1 n
  ⟨h, x.1, x.2, n⟩

/-- BOUNDS, then MISALIGN (R373). -/
def Iss.laneHit (i : Iss) (l : Lane) : Option Hit :=
  match l.tgt with
  | .scr off =>
    if i.team.scrBad off l.n then some ⟨13, 0x0F, 0, off, 0xFFFF⟩
    else if l.ea % l.n ≠ 0 then some ⟨14, 0x0D, 0, l.ea, 0xFFFF⟩
    else none
  | _ => if l.ea % l.n ≠ 0 then some ⟨14, 0x0D, 0, l.ea, 0xFFFF⟩ else none

/-- The virtual address of a lane, for INFO and origins. -/
def Lane.va (l : Lane) : Nat := match l.tgt with | .scr o => o | .mem v => v | .bad v => v

/-- A lane after translation (R114). -/
inductive Got where
  | scr (off : Nat)
  | at (pa cls : Nat)
  | wait (post : Bool)
  | page
  | access
deriving DecidableEq, Repr

def State.gotLane (s : State) (i : Iss) (kind : Acc) (l : Lane) : Got × State :=
  match l.tgt with
  | .scr off => (.scr off, s)
  | .bad _ => (.access, s)
  | .mem va =>
    let (x, s) := s.xlate i.cl i.team.space va kind
    (match x with
      | .ok pa cls => .at pa cls
      | .wait p => .wait p
      | .page => .page
      | .access => .access, s)

/-- Every lane translated, in position order. -/
def State.gotAll (s : State) (i : Iss) (kind : Acc) (ls : List Lane) : List (Lane × Got) × State :=
  ls.foldl (fun acc l =>
    let (g, s) := acc.2.gotLane i kind l
    (acc.1 ++ [(l, g)], s)) ([], s)

/-- Whether a store-like instruction's lanes may all proceed (R266, R376). -/
inductive Ready where
  | trap (t : Trap)
  | wait
  | ok (ls : List (Lane × Got))
deriving DecidableEq, Repr

/-- Rank 15 of a translated lane. -/
def Got.hit (l : Lane) : Got → Option Hit
  | .page => some ⟨15, 0x08, 0, l.va, 0xFFFF⟩
  | .access => some ⟨15, 0x09, 0, l.va, 0xFFFF⟩
  | _ => none

/-- R266: every lane is checked before any commits; with a fault nothing waits. -/
def State.checkLanes (s : State) (i : Iss) (kind : Acc) (ls : List Lane) : Ready × State :=
  match trapOf (ls.filterMap fun l => (i.laneHit l).map fun x => (l.h, x)) with
  | some t => (.trap t, s)
  | none =>
    let (gs, s) := s.gotAll i kind ls
    match trapOf (gs.filterMap fun g => (g.2.hit g.1).map fun x => (g.1.h, x)) with
    | some t => (.trap t, s)
    | none =>
      let waits := gs.filterMap fun g => match g.2 with
        | .wait p => some (g.1.va, p)
        | _ => none
      if waits.isEmpty then (.ok gs, s)
      else (.wait, waits.foldl (fun s w => if w.2 then s.postReplay kind i.cl i.team.space w.1 else s) s)

/-- Whether an address translates to an UNCACHED page. -/
def State.uncached (s : State) (c asid va kind : Nat) : Bool :=
  match (s.xlate c asid va kind).1 with
  | .ok _ 3 => true
  | _ => false

/-- The coalescer's requests in the order they leave, each by its first byte: one a distinct line, at the lowest position that
touches it (R129); one a lane, of at most 8 bytes, on UNCACHED pages (R137). -/
def State.requests (s : State) (i : Iss) (kind : Acc) (n : Nat) (vas : List Nat) : List Nat :=
  let un := vas.map fun v => s.uncached i.cl i.team.space v kind
  let all := vas.zip un
  (List.range all.length).flatMap fun k => match all[k]? with
    | some (v, true) => if n = 16 then [v, v + 8] else [v]
    | some (v, false) =>
      if (all.take k).any fun x => !x.2 && x.1 / 256 == v / 256 then []
      else [(minNat? ((all.filter fun x => !x.2 && x.1 / 256 == v / 256).map (·.1))).getD v]
    | none => []

/-- The coalescer's requests counted (R148) and sampled (R124). -/
def State.coalesce (s : State) (i : Iss) (kind : Acc) (n : Nat) (vas : List Nat) : State :=
  let rs := s.requests i kind n vas
  (s.countCl i.cl 0x114 rs.length).hotness (s.dieOf i.cl) i.cl i.team.space kind rs

/-- Whether an outstanding result is a prefetch of a sector. -/
def Pend.prefAt (p : Pend) (sector : Nat) : Bool := match p.pay with | .pref _ _ _ pa _ => pa / 64 == sector | _ => false

/-- A prefetch still outstanding on the sector counts late (R148); the demand's own request takes its place. -/
def State.lateHit (s : State) (c sector : Nat) : State :=
  let here (p : Pend) : Bool := p.prefAt sector
  if (s.cl c).pend.any here then
    (s.countCl c 0x108 1).modCl c fun k => { k with pend := k.pend.filter fun p => !here p }
  else s

/-! ### Stores -/

/-- Bytes written to the scratchpad; a word covered whole loses its poison (R147). -/
def Team.scrPut (t : Team) (cells : List (Nat × Byte)) : Team :=
  let full (w : Nat) : Bool := (List.range 8).all fun k => cells.any fun c => c.1 == 8 * w + k
  { t with
    scratch := cells.foldl (fun m c => Tab.set 0 m c.1 c.2) t.scratch
    scrPois := if t.scrPois.isEmpty then [] else t.scrPois.filter fun w => !full w }

/-- Scratchpad bytes. -/
def Team.scrBytes (t : Team) (off n : Nat) : List Byte := (List.range n).map fun k => Tab.get 0 t.scratch (off + k)

/-- Whether a scratchpad byte lies in a poisoned word. -/
def Team.scrPoisoned (t : Team) (off n : Nat) : Bool := (List.range n).any fun k => t.scrPois.contains ((off + k) / 8)

/-- Bytes to the target of an UNCACHED page, at most 8 to a request (R137). -/
def State.uncachedPut (s : State) (pa : Nat) (bs : List Byte) : State :=
  let one (s : State) (pa : Nat) (bs : List Byte) : State :=
    if isRegs pa then s.regStore (pa - 2 ^ 49) bs.length (leVal bs) else s.homePutBy (cellsAt pa bs)
  if bs.length ≤ 8 then one s pa bs else one (one s pa (bs.take 8)) (pa + 8) (bs.drop 8)

/-- A store's demand accesses to the sectors of some bytes (R148). -/
def State.demandStore (s : State) (c : Nat) (pas : List Nat) : State :=
  ((pas.map (· / 64)).eraseDups).foldl (fun s n => (s.demand c n).lateHit c n) s

/-- Bytes of PHASE stores enter the L1, which may give lines up for them (R127); the core's SRAM has no cache (R46). -/
def State.phasePut (s : State) (c asid : Nat) (cells : List (Nat × Byte)) : State :=
  let s := s.homePut (cells.filter fun x => isSram x.1)
  let cells := cells.filter fun x => !isSram x.1
  let s := (s.demandStore c (cells.map (·.1))).l1Put c asid cells
  ((cells.map (·.1 / 256)).eraseDups).foldl (fun s l => s.l1Trim c l) s

/-- REPL writes: one number a line, in the order the lines are first touched (R129, R136); the fibres keep the last. -/
def State.replLines (s : State) (i : Iss) (ws : List (Nat × List (Nat × Byte))) : State :=
  let cells := ws.flatMap (·.2)
  let lines := (cells.map (·.1 / 256)).eraseDups
  lines.foldl (fun s l =>
    let (n, s) := s.replPut (s.dieOf i.cl) (cells.filter fun c => c.1 / 256 == l)
    ((ws.filter fun w => w.2.any fun c => c.1 / 256 == l).map (·.1)).foldl
      (fun s h => s.modFibre i.cl i.slot h fun f => { f with repl := n }) s) s

/-- The instruction's writes performed (R130, R376): `ws` in position order. -/
def State.storeAll (s : State) (i : Iss) (ws : List (Lane × Got × List Byte)) : State :=
  let s := ws.foldl (fun s w => match w.1.tgt with
    | .mem va => s.markDirty i.cl i.team.space va
    | _ => s) s
  let scr := ws.flatMap fun w => match w.2.1 with | .scr o => cellsAt o w.2.2 | _ => []
  let s := if scr.isEmpty then s else s.modCurTeam i.x fun t => t.scrPut scr
  let of (cls : Nat) : List (Nat × List (Nat × Byte)) := ws.filterMap fun w => match w.2.1 with
    | .at pa c => if c = cls then some (w.1.h, cellsAt pa w.2.2) else none
    | _ => none
  let phase := (of 0).flatMap (·.2)
  let s := if phase.isEmpty then s else s.phasePut i.cl i.team.space phase
  let live := (of 1).flatMap (·.2)
  let s := if live.isEmpty then s else (s.dirTouch i.cl true (live.map (·.1))).homePut live
  let s := (s.demandStore i.cl ((of 2).flatMap fun w => w.2.map (·.1))).replLines i (of 2)
  ws.foldl (fun s w => match w.2.1 with
    | .at pa 3 => s.uncachedPut pa w.2.2
    | _ => s) s

/-! ### Loads -/

/-- Origins allocated by one issue: cause and sector or page, with the origin (R217). -/
abbrev Memo := List ((Nat × Nat) × Half)

/-- The origin of a cause at a sector or page, allocated once an issue. -/
def State.originFor (s : State) (m : Memo) (c cause key addr : Nat) (pc : Addr) (asid slot h : Nat) : Half × Memo × State :=
  match m.lookup (cause, key) with
  | some o => (o, m, s)
  | none =>
    let (o, s) := s.origin c cause pc addr asid slot h
    (o, m ++ [((cause, key), o)], s)

/-- What bytes make of a destination: sign-extended, zero-extended, or as they are (R375). -/
def loadVal (signed : Bool) (bs : List Byte) : Nat :=
  if signed then wrap 32 (sext (8 * bs.length) (leVal bs)) else leVal bs

/-- Bytes of memory as an access of a class finds them, the poisoned sector among them, and whether this read of HBM found it
so (R145): through the L1 and the RDC for PHASE and REPL (R127, R133, R153), at the target otherwise (R134, R137) and in the
core's SRAM (R46). -/
def State.readMem (s : State) (c pa cls n : Nat) : List Byte × Option Nat × Bool × State :=
  let pas := (List.range n).map (pa + ·)
  if isRegs pa then
    let (v, s) := s.regLoad (pa - 2 ^ 49) (min n 8)
    let (w, s) := if n > 8 then s.regLoad (pa - 2 ^ 49 + 8) 8 else (0, s)
    (leBytes n (v + w * 2 ^ 64), none, false, s)
  else if isSram pa then (s.homeBytes pa n, if pas.any s.poisoned then some (pa / 64 * 64) else none, false, s)
  else if cls = 0 ∨ cls = 2 then
    let covered := pas.all fun a => (Tab.get none (s.cl c).dirty a).isSome
    let (found, s) := if !covered && s.missHome c (pa / 64) (cls == 2) then s.demandRead pas else ([], s)
    let s := if covered then s else s.fill c (pa / 64) (cls == 2)
    let bs := pas.map (s.l1Byte c)
    (bs.map (·.1), if bs.any (·.2) then some (pa / 64 * 64) else none, !found.isEmpty, s)
  else
    let (found, s) := s.demandRead pas
    let s := if cls = 1 then (s.dirTouch c false pas).touch pas else s.touchBy none pas
    (s.homeBytes pa n, if pas.any s.poisoned then some (pa / 64 * 64) else none, !found.isEmpty, s)

/-- Origins of an issue whose loads are outstanding, for those that arrive later (R217). -/
def State.keepShared (s : State) (c issue : Nat) (m : Memo) : State :=
  if m.isEmpty then s
  else s.modCl c fun k => { k with
    shared := k.shared.filter (fun x => k.pend.any fun p => p.issue == x.1.2.2) ++ m.map fun x => ((x.1.1, x.1.2, issue), x.2) }

/-- The page of an address as an origin's issue tells pages apart: its size is that of its leaf (R217). -/
def State.pageKey (s : State) (c asid va : Nat) : Nat :=
  match s.tlbFind c asid va with
  | some e => va / 2 ^ e.bits * 64 + e.bits
  | none => match s.walk asid va with
    | .leaf b _ _ _ _ => va / 2 ^ b * 64 + b
    | _ => va / 4096 * 64 + 12

/-- One destination of a load: its fibre, registers and access. -/
structure LoadReq where
  lane   : Lane
  regs   : List Nat
  signed : Bool
  code   : Nat
deriving DecidableEq, Repr

/-- Whether an earlier load of the fibre waits for the same sector: a later read never returns an older write (R150). -/
def State.behind (s : State) (i : Iss) (h va : Nat) : Bool :=
  (s.cl i.cl).pend.any fun p => p.slot == i.slot && p.fibre == h && p.kind == .load
    && (match p.pay with | .load v _ _ => v / 64 == va / 64 | _ => false)

/-- Whether a load of a fibre still waits that was made earlier and that UNCACHED accesses must not pass (R137, R151): its page
waits, or it is UNCACHED itself. -/
def State.sendsFirst (s : State) (c slot h asid : Nat) (ps : List Pend) : Bool :=
  ps.any fun p => p.kind == .load && p.slot == slot && p.fibre == h && (match p.pay with
    | .load va _ _ => (match (s.xlate c asid va 0).1 with | .wait _ => true | .ok _ 3 => true | _ => false)
    | _ => false)

/-- Every die has applied the fibre's REPL updates and those its reads may have returned (R155). -/
def State.replAhead (s : State) (f : Fibre) : Bool := s.repl.applied.all fun n => decide (f.repl ≤ n ∧ f.saw ≤ n)

/-- A fibre has seen what its die has applied of REPL memory (R150, R155, R162). -/
def State.replSeen (s : State) (c slot h : Nat) : State :=
  s.modFibre c slot h fun f => { f with saw := max f.saw (atD s.repl.applied (s.dieOf c) 0) }

/-- A value read that is on its way: one of memory can be read again after a context save (R270). -/
def Lane.payload (l : Lane) (signed : Bool) (vs : List VReg) : Payload :=
  match l.tgt with
  | .mem va => .old va l.n signed vs
  | _ => .bits vs 0

/-- One load request made (R375): the value is fixed now for the scratchpad, an L1 hit and an UNCACHED target; else at its
arrival. A translation that fails defers the fault as poison (R114, R213). -/
def State.loadOne (s : State) (i : Iss) (m : Memo) (q : LoadReq) : Memo × State :=
  let asid := i.team.space
  let pay (s : State) (v : Nat) (p : Option Half) : State :=
    s.request i .load q.lane.h q.regs q.code (q.lane.payload q.signed (regsOf v q.regs.length p))
  let later (s : State) : State := s.request i .load q.lane.h q.regs q.code (.load q.lane.va q.lane.n q.signed)
  let fail (s : State) (cause : Nat) : Memo × State :=
    let (o, m, s) := s.originFor m i.cl cause (s.pageKey i.cl asid q.lane.va) q.lane.va i.x.pc asid i.slot q.lane.h
    (m, pay s 0 (some o))
  let put (s : State) (bs : List Byte) (bad : Option (Nat × Nat)) (found : Bool) : Memo × State :=
    match bad with
    | some (key, addr) =>
      let (o, m, s) := s.originFor m i.cl 0x07 key addr i.x.pc asid i.slot q.lane.h
      (m, pay (if found then s.errMemory addr o.toNat else s) 0 (some o))
    | none => (m, pay s (loadVal q.signed bs) none)
  let (g, s) := s.gotLane i 0 q.lane
  match g with
  | .scr off =>
    put s (i.team.scrBytes off q.lane.n)
      (if i.team.scrPoisoned off q.lane.n then some (2 ^ 53 + off / 8, off) else none) false
  | .page => fail s 0x08
  | .access => fail s 0x09
  | .wait post => (m, later (if post then s.postReplay 0 i.cl asid q.lane.va else s))
  | .at pa cls =>
    if cls = 3 ∧ s.sendsFirst i.cl i.slot q.lane.h asid (s.cl i.cl).pend then (m, later s)
    else if cls = 3 then
      let (bs, bad, found, s) := s.readMem i.cl pa cls q.lane.n
      put s bs (bad.map fun a => (a / 64, a)) found
    else if cls ≠ 1 ∧ (s.cl i.cl).hit pa q.lane.n ∧ !s.behind i q.lane.h q.lane.va then
      let s := s.demand i.cl (pa / 64)
      let (bs, bad, found, s) := s.readMem i.cl pa cls q.lane.n
      let s := if cls = 2 then s.replSeen i.cl i.slot q.lane.h else s
      put s bs (bad.map fun a => (a / 64, a)) found
    else (m, later (s.lateHit i.cl (pa / 64)))

/-- Requests of a load instruction in position order, the lines they touch coalesced first. -/
def State.loadReqs (s : State) (i : Iss) (n : Nat) (vas : List Nat) (qs : List LoadReq) : State :=
  let (m, s) := qs.foldl (fun acc q => acc.2.loadOne i acc.1 q) (([] : Memo), s.coalesce i 0 n vas)
  s.keepShared i.cl (s.issueNo i) m

/-- Cycles that a scratchpad access takes: the most distinct 4-byte words that its lanes ask of one of the 64 banks (R128). An
allocation begins at a multiple of 1 KiB of the cluster's scratchpad, so a team's offset gives the bank. -/
def scrCycles (ls : List Lane) : Nat :=
  let words := (ls.flatMap fun l => match l.tgt with
    | .scr off => (List.range ((off % 4 + l.n + 3) / 4)).map (off / 4 + ·)
    | _ => []).eraseDups
  ((words.map (· % 64)).map fun b => (words.filter fun w => w % 64 == b).length).foldl max 0

/-- The slice issues again only when a scratchpad access has had its cycles (R128, log entry 127). -/
def State.scrPort (s : State) (i : Iss) (ls : List Lane) : State :=
  let n := scrCycles ls
  if n ≤ 1 then s
  else s.modCl i.cl fun k => { k with busy := modAt k.busy i.x.co.slice fun b => b.map (· + (n - 1)) }

/-- The virtual addresses among some lanes. -/
def lineVas (ls : List Lane) : List Nat := ls.filterMap fun l => match l.tgt with | .mem va => some va | _ => none

/-- Every request of a load instruction. -/
def State.loadAll (s : State) (i : Iss) (n : Nat) (qs : List LoadReq) : State :=
  (s.scrPort i (qs.map (·.lane))).loadReqs i n (lineVas (qs.map (·.lane))) qs

/-- An entry that a lower position comes to share: FIBRE, and the ADDR of a page's fault, are the lowest position's, which is the
lowest fibre's (R217, R218). -/
def State.originLower (s : State) (o : Half) (cause addr : Nat) (p : Pend) : State :=
  let a := clOff (o.toNat / 256) + 0x800 + 32 * (o.toNat % 64)
  if o = 0xFFFF ∨ s.reg a ≠ BitVec.ofNat 64 (p.pc.toNat + cause * 2 ^ 48 + 2 ^ 63) ∨ s.regFld (a + 16) 16 5 ≠ p.slot
      ∨ s.regFld (a + 16) 0 16 ≤ p.fibre then s
  else
    let s := s.setRegFld (a + 16) 0 16 p.fibre
    if cause = 0x07 then s else s.setReg (a + 8) (BitVec.ofNat 64 addr)

/-- The origin of a cause at a sector or page for the issue of an outstanding load, allocated once (R217). -/
def State.fillOrigin (s : State) (c cause key addr asid : Nat) (p : Pend) : Half × State :=
  match (s.cl c).shared.lookup (cause, key, p.issue) with
  | some o => (o, s.originLower o cause addr p)
  | none =>
    let (o, s) := s.origin c cause p.pc addr asid p.slot p.fibre
    (o, s.keepShared c p.issue [((cause, key), o)])

/-- The registers an outstanding load brings from memory at its physical address. -/
def State.loadRegs (s : State) (c asid : Nat) (p : Pend) (pa cls n : Nat) (sg : Bool) : List VReg × State :=
  let s := if cls = 0 ∨ cls = 2 then s.demand c (pa / 64) else s
  let (bs, bad, found, s) := s.readMem c pa cls n
  let s := if cls = 2 then s.replSeen c p.slot p.fibre else s
  match bad with
  | some a =>
    let (o, s) := s.fillOrigin c 0x07 (a / 64) a asid p
    (regsOf 0 p.regs.length (some o), if found then s.errMemory a o.toNat else s)
  | none => (regsOf (loadVal sg bs) p.regs.length none, s)

/-- Outstanding loads of a fibre whose class, address and size satisfy `here` take their value now. -/
def State.fixLoads (s : State) (i : Iss) (h : Nat) (here : Nat → Nat → Nat → Bool) : State :=
  (List.range (s.cl i.cl).pend.length).foldl (fun s k =>
    match (s.cl i.cl).pend[k]? with
    | none => s
    | some p =>
      match p.pay with
      | .load va n sg =>
        if p.kind = .load ∧ p.slot = i.slot ∧ p.fibre = h then
          (match s.xlate i.cl i.team.space va 0 with
            | (.ok pa cls, s) =>
              if here cls pa n then
                let (vs, s) := s.loadRegs i.cl i.team.space p pa cls n sg
                s.modCl i.cl fun c => { c with pend := modAt c.pend k fun p => { p with pay := .old va n sg vs } }
              else s
            | (_, s) => s)
        else s
      | _ => s) s

/-- LIVE accesses of a fibre to one line are performed in program order (R151), and so are those to the core's SRAM. -/
def State.fixLive (s : State) (i : Iss) (h pa : Nat) : State :=
  s.fixLoads i h fun cls a _ => (cls == 1 || isSram a) && a / 256 == pa / 256

/-- The lines of a fibre's LIVE accesses take their outstanding loads' values first (R151). -/
def State.settleLanes (s : State) (i : Iss) (ls : List (Lane × Got)) : State :=
  ls.foldl (fun s l => match l.2 with
    | .at pa cls => if cls = 1 ∨ isSram pa then s.fixLive i l.1.h pa else s
    | _ => s) s

/-- Whether an UNCACHED access of some lanes would pass an earlier load of its fibre that is not sent yet (R137, R151). -/
def State.sendsLater (s : State) (i : Iss) (ls : List (Lane × Got)) : Bool :=
  ls.any fun l => match l.2 with
    | .at _ 3 => s.sendsFirst i.cl i.slot l.1.h i.team.space (s.cl i.cl).pend
    | _ => false

/-- Whether a fibre has a load or atomic outstanding. -/
def State.loading (s : State) (i : Iss) (h : Nat) : Bool :=
  (s.cl i.cl).pend.any fun p => p.kind == .load && p.slot == i.slot && p.fibre == h

end Sys2Proof.Machine
end

