-- ==== Sys2Proof/Machine/Moves.lean ====
section
/-!
DEFINITION. Machine/Moves.lean: group 5, moves and predicates (R346 to R350).
-/
namespace Sys2Proof.Machine

/-- MOV (R347). -/
def execMov (f : Fields) (s : State) : Out :=
  s.alu 0x140 f fun i h => let a := i.src 1 h; i.resV h a.1 a.2 0

/-- MOVI: IMM32, sign-extended to 64 bits with W (R347). -/
def execMovi (f : Fields) (s : State) : Out := s.alu 0x141 f fun i h => i.resV h i.immVal none 0

/-- SEL (R347). -/
def execSel (f : Fields) (s : State) : Out :=
  s.alu 0x142 f fun i h =>
    let a := i.src 1 h
    let b := i.srcB h
    let c := i.predSrc f.sc h
    i.resV h (if c.1 && c.2.isNone then a.1 else b.1) (a.2 <|> b.2 <|> c.2) 0

/-- The value S2V writes (R348). -/
def State.s2v (s : State) (i : Iss) (src h : Nat) : Nat :=
  match src with
  | 0x00 => h
  | 0x01 => i.team.index
  | 0x02 => i.team.slot
  | 0x03 => i.x.pos h
  | 0x04 => i.x.n
  | 0x05 => i.team.homeLane h
  | 0x06 => 32 * i.x.co.slice + i.x.lane h
  | 0x07 => i.x.co.slice
  | 0x08 => i.cl
  | 0x09 => s.dieOf i.cl
  | 0x0A => i.team.asid
  | 0x0B => b2n (i.x.co.aligned || i.team.fixed)
  | 0x0C => (i.fib h).sets.toNat
  | 0x0D => i.team.live.length
  | 0x0E => b2n (i.fib h).tm
  | 0x10 => (s.cl i.cl).cycle
  | _ => s.ptime

/-- S2V (R348): slow sources are variable-latency (R207). -/
def execS2v (f : Fields) (s : State) : Out :=
  s.issue 0x143 f fun s i =>
    if f.sa.toNat < 0x10 then s.finish i (i.on.map fun h => i.resV h (s.s2v i f.sa.toNat h) none 0)
    else s.finishVar i (i.on.map fun h => (h, s.s2v i f.sa.toNat h, none, 0))

/-- PSET (R349). -/
def execPset (f : Fields) (s : State) : Out := s.alu 0x144 f fun i h => i.resP h (f.m 0) none 0

/-- PLOP (R349). -/
def execPlop (f : Fields) (s : State) : Out :=
  s.alu 0x145 f fun i h =>
    let a := i.predSrc f.sa h
    let b := i.predSrc f.sb h
    let c := i.predSrc f.sc h
    i.resP h (bopBit (f.md 3 3) (bopBit (f.md 0 3) a.1 b.1) c.1) (a.2 <|> b.2 <|> c.2) 0

/-- P2V (R349). -/
def execP2v (f : Fields) (s : State) : Out :=
  s.alu 0x146 f fun i h =>
    let ps := (List.range 7).map (i.fib h).pred
    let v := ((List.range 7).map fun k => if ((i.fib h).pred k).val then 2 ^ k else 0).sum + 128
    i.resV h v (ps.findSome? (·.pois)) 0

/-- V2P (R349): a poisoned mask selects nothing, and every predicate is poisoned. -/
def execV2p (f : Fields) (s : State) : Out :=
  s.alu 0x147 f fun i h =>
    let a := i.src 1 h
    let b := i.srcB h
    let sel := (List.range 7).filter fun k => b.2.isSome || bitOf b.1 k
    ⟨h, sel.map fun k => predDst k (bitOf a.1 k) (a.2 <|> b.2), 0, none⟩

/-- VXLD (R350): a poisoned source traps (R216). -/
def execVxld (f : Fields) (s : State) : Out :=
  s.issue 0x148 f fun s i =>
    let po (h : Nat) : Option Half := (i.src 1 h).2 <|> (i.srcB h).2
    let hits := i.on.filterMap fun h => (po h).map fun o => (h, (⟨9, 0x07, 0, 0x1000, o⟩ : Hit))
    match trapOf hits with
    | some t => s.trapNow i t
    | none => s.finish i (i.on.map fun h =>
        ⟨h, [.x (f.dst.toNat % 4) (BitVec.ofNat 16 ((i.src 1 h).1 + (i.srcB h).1))], 0, none⟩)

/-- VXST (R350). -/
def execVxst (f : Fields) (s : State) : Out :=
  s.alu 0x149 f fun i h => i.resV h (atD (i.fib h).x (f.sa.toNat % 4) 0).toNat none 0

end Sys2Proof.Machine
end

