-- ==== Sys2Proof/Machine/Flow.lean ====
section
/-!
DEFINITION. Machine/Flow.lean: control transfers (R352 to R355), FORK and END (R174, R175, R357, R358), SLEEP and YIELD
(R359, R360).
-/
namespace Sys2Proof.Machine

/-- The target that `off` gives (R345). -/
def Iss.offTarget (i : Iss) : Addr := i.x.pc + i.f.imm.signExtend 48

/-- BRA (R352). -/
def execBra (f : Fields) (s : State) : Out :=
  s.issue 0x180 f fun s i =>
    (s.account i).transfer i.x i.stall fun h => if i.guard h && (i.predSrc f.sa h).1 then i.offTarget else i.next

/-! ### Pad checks of BRX and CALLX (R353, R354) -/

/-- The pad check of one guarded fibre. -/
def State.padOf (s : State) (i : Iss) (kind h : Nat) : Pad × State :=
  let t := (i.src 1 h).1
  if t / 2 ^ 48 ≠ 0 ∨ t % 4 ≠ 0 then (.fail, s) else s.padCheck i.cl i.team.space t kind (i.f.imm.toNat % 2 ^ 16)

/-- Every guarded fibre's check, in position order. -/
def State.padsOf (s : State) (i : Iss) (kind : Nat) : List (Nat × Pad) × State :=
  i.on.foldl (fun acc h =>
    let (p, s) := acc.2.padOf i kind h
    (acc.1 ++ [(h, p)], s)) ([], s)

/-- CFI of the fibres whose check failed. -/
def cfiHits (i : Iss) (ps : List (Nat × Pad)) : List (Nat × Hit) :=
  ps.filterMap fun p => if p.2 = .fail then some (p.1, ⟨16, 0x04, 0, (i.src 1 p.1).1, 0xFFFF⟩) else none

/-- BRX (R353). -/
def execBrx (f : Fields) (s : State) : Out :=
  s.issue 0x181 f fun s i =>
    let (ps, s) := s.padsOf i 1
    match trapOf (cfiHits i ps) with
    | some t => s.trapNow i t
    | none =>
      if ps.any fun p => p.2 == .wait then s
      else (s.account i).transfer i.x i.stall fun h =>
        if i.guard h then BitVec.ofNat 48 (i.src 1 h).1 else i.next

/-! ### The return stack (R355) -/

/-- The spill slot k of fibre h (R315, R355). -/
def Iss.spillLane (i : Iss) (h k : Nat) : Lane :=
  let size := i.team.privs.toNat
  let va := (i.team.privb.toNat + h * size + size + 8 * k + 2 ^ 64 - 1024) % 2 ^ 64
  ⟨h, va, if size = 0 ∨ k ≥ 128 then .bad va else .mem va, 8⟩

/-- The spills that pushes by some fibres need: those with eight entries held. -/
def Iss.spills (i : Iss) (fs : List Nat) : List Lane :=
  (fs.filter fun h => decide ((i.fib h).rs.length ≥ 8)).map fun h => i.spillLane h (i.fib h).rssp

/-- RS7 as the spilled bytes. -/
def Iss.spillBytes (i : Iss) (h : Nat) : List Byte := leBytes 8 (atD (i.fib h).rs 7 0).toNat

/-- push: the oldest entry leaves when eight are held. -/
def Fibre.push (f : Fibre) (r : Addr) : Fibre :=
  if f.rs.length ≥ 8 then { f with rs := r :: f.rs.take 7, rssp := f.rssp + 1 } else { f with rs := r :: f.rs }

/-- The pushes performed, their spills written. -/
def State.pushAll (s : State) (i : Iss) (fs : List Nat) (ls : List (Lane × Got)) : State :=
  let s := (s.settleLanes i ls).storeAll i (ls.map fun l => (l.1, l.2, i.spillBytes l.1.h))
  fs.foldl (fun s h => s.modFibre i.cl i.slot h fun f => f.push i.next) s

/-- Whether a spill or fill of some lanes is held while a release or acquire of its fibre is pending (R155, R156). -/
def Iss.spillHeld (i : Iss) (ls : List Lane) : Bool := ls.any fun l => (i.fib l.h).phase

/-- CALL (R352): every fibre pushes. -/
def execCall (f : Fields) (s : State) : Out :=
  s.issue 0x182 f fun s i =>
    match s.checkLanes i 1 (i.spills i.x.fs) with
    | (.trap t, s) => s.trapNow i t
    | (.wait, s) => s
    | (.ok ls, s) => if i.spillHeld (i.spills i.x.fs) || s.sendsLater i ls then s else ((s.account i).pushAll i i.x.fs ls).goOn i.x i.stall fun _ => i.offTarget

/-- CALLX (R353): a spill that faults outranks a pad that fails (R264). -/
def execCallx (f : Fields) (s : State) : Out :=
  s.issue 0x183 f fun s i =>
    let (ps, s) := s.padsOf i 0
    match s.checkLanes i 1 (i.spills i.on) with
    | (.trap t, s) => s.trapNow i t
    | (r, s) =>
      match trapOf (cfiHits i ps) with
      | some t => s.trapNow i t
      | none =>
        match r with
        | .ok ls =>
          if ps.any (fun p => p.2 == .wait) || i.spillHeld (i.spills i.on) || s.sendsLater i ls then s
          else ((s.account i).pushAll i i.on ls).transfer i.x i.stall fun h =>
            if i.guard h then BitVec.ofNat 48 (i.src 1 h).1 else i.next
        | _ => s

/-- The spilled entries that pops need. -/
def Iss.fills (i : Iss) : List Lane :=
  (i.on.filter fun h => (i.fib h).rs.isEmpty && decide (0 < (i.fib h).rssp)).map fun h => i.spillLane h ((i.fib h).rssp - 1)

/-- pop: what RET finds in a fibre, and the fibre after it. -/
def Fibre.pop (f : Fibre) (filled : Addr) : Addr × Fibre :=
  match f.rs with
  | r :: rest => (r, { f with rs := rest })
  | [] => (filled, { f with rssp := f.rssp - 1 })

/-- The entries read: by fibre the address, or the poisoned sector. -/
def State.fillAll (s : State) (i : Iss) (gs : List (Lane × Got)) : List (Nat × Nat × Option Nat × Nat × Bool) × State :=
  gs.foldl (fun acc g => match g.2 with
    | .at pa cls =>
      let (bs, bad, found, s) := acc.2.readMem i.cl pa cls 8
      (acc.1 ++ [(g.1.h, leVal bs, bad, g.1.va, found)], s)
    | _ => acc) ([], s.settleLanes i gs)

/-- The spilled entries that RET reads now: while a page waits, none that is UNCACHED, so that none is read twice (R137). -/
def readable (gs : List (Lane × Got)) : List (Lane × Got) :=
  let waits := gs.any fun g => match g.2 with | .wait _ => true | _ => false
  gs.filter fun g => !waits || (match g.2 with | .at _ 3 => false | _ => true)

/-- RET (R355): ranks 15 and 16 of every guarded fibre come before any pop. -/
def execRet (f : Fields) (s : State) : Out :=
  s.issue 0x184 f fun s i =>
    if i.spillHeld i.fills then s else
    let (gs, s) := s.gotAll i 0 i.fills
    let faults := gs.filterMap fun g => (g.2.hit g.1).map fun x => (g.1.h, x)
    if (trapOf faults).isNone && s.sendsLater i gs then s else
    let (vals, s) := s.fillAll i (if faults.isEmpty then readable gs else [])
    let bad := vals.filter fun v => v.2.2.1.isSome
    let empty := i.on.filterMap fun h =>
      if (i.fib h).rs.isEmpty && (i.fib h).rssp == 0 then some (h, (⟨16, 0x04, 0, 0, 0xFFFF⟩ : Hit)) else none
    match trapOf faults, bad with
    | some t, _ => s.trapNow i t
    | none, b :: _ =>
      let (o, s) := s.origin i.cl 0x07 i.x.pc (b.2.2.1.getD 0) i.team.space i.slot b.1
      State.trapNow (bad.foldl (fun s v => if v.2.2.2.2 then s.errMemory (v.2.2.1.getD 0) o.toNat else s) s) i
        ⟨0x07, 2, bad.map fun v => (v.1, v.2.2.2.1), o⟩
    | none, [] =>
      match trapOf empty with
      | some t => s.trapNow i t
      | none =>
        let waits := gs.filterMap fun g => match g.2 with
          | .wait p => some (g.1.va, p)
          | _ => none
        if !waits.isEmpty then waits.foldl (fun s w => if w.2 then s.postReplay 0 i.cl i.team.space w.1 else s) s
        else
          let filled (h : Nat) : Addr := BitVec.ofNat 48 ((vals.lookup h).map (·.1) |>.getD 0)
          let goal (h : Nat) : Addr := if i.guard h then ((i.fib h).pop (filled h)).1 else i.next
          let s := i.on.foldl (fun s h => s.modFibre i.cl i.slot h fun y => (y.pop (filled h)).2) (s.account i)
          s.transfer i.x i.stall goal

/-- LPAD executed in sequence (R354). -/
def execLpad (f : Fields) (s : State) : Out := s.issue 0x185 f fun s i => s.finish i []

/-! ### FORK and END -/

/-- v0 to v15 of a parent, which FORK reads and waits for (R357); INFO names them as operand 4 (log entry 29). -/
def forkUses (x : Ctx) : List Use := [⟨4, 0, min 16 x.team.regs, false, true, false, false, true⟩]

/-- What FORK adds to the common operand rules; it waits for the generators of the indices it takes (R174, R404). -/
def forkExtra : Extra where
  uses := fun _ x _ => forkUses x
  held := fun s i => (((List.range i.team.fib).filter fun k => !(i.fib k).live).take i.on.length).any fun k => s.genBusy i.cl i.slot k

/-- A child (R174, R233); it starts outside trap mode, its window base its index's own. -/
def Fibre.child (parent old : Fibre) (team index regs : Nat) (target : Addr) (phase0 : Half) : Fibre :=
  { Fibre.blank regs (seedOf team index) with
    live := true
    pc := target
    v := (List.range regs).map fun n => if n < 16 then atD parent.v n (VReg.of 0) else VReg.of 0
    p := parent.p
    sets := 1
    lph := phase0 :: List.replicate 15 0
    base := old.base }

/-- One parent's child, if an index is free: the index and the state. The parent's registers are those FORK read at its distance
(R292). -/
def State.forkOne (s : State) (i : Iss) (target : Addr) (h : Nat) : Word × State :=
  match s.team? i.cl i.slot with
  | none => (BitVec.allOnes 32, s)
  | some t =>
    match (List.range t.fib).find? fun k => !(t.fibre k).live with
    | none => (BitVec.allOnes 32, s)
    | some k =>
      let c := (i.fib h).child (t.fibre k) t.index k t.regs target (atD t.bars 0 ⟨0, 0⟩).p
      let s := s.modTeam i.cl i.slot fun t => { t with uni := t.uni.filter fun u => !u.2.contains k }
      (BitVec.ofNat 32 k, (s.modFibre i.cl i.slot k fun _ => c).toPool i.cl i.slot k target .plain 0)

/-- FORK (R174, R357): children from the registers as read; d is one of the results that land, in their order, as the cohort dissolves
(R293, R294). -/
def execFork (f : Fields) (s : State) : Out :=
  s.issue 0x188 f (fun s i =>
    let target := i.offTarget
    let (p, s) := if i.on.isEmpty then (Pad.pass, s)
      else s.padCheck i.cl i.team.space target.toNat 3 (f.ext.toNat % 2 ^ 16)
    match p with
    | .wait => s
    | .fail => s.trapNow i ⟨0x04, 0, i.on.map fun h => (h, target.toNat), 0xFFFF⟩
    | .pass =>
      let (rs, s) := i.on.foldl (fun acc h =>
        let (v, s) := acc.2.forkOne i target h
        (acc.1 ++ [(h, v)], s)) (([] : List (Nat × Word)), s.account i)
      (s.produce i (rs.map fun r => ⟨r.1, i.vec 0 r.1 r.2.toNat none, 0, none⟩)).scatter i.x i.stall fun _ => i.next)
    forkExtra

/-- One fibre ends (R175, R190). -/
def Team.endFibre (t : Team) (h : Nat) : Team :=
  let m := (t.fibre h).jmask
  { t.modFibre h fun f => { f with live := false, wait := .none, sets := 0, jmask := 0, phase := false, tm := false, trec := none } with
    joins := (List.range 16).map fun j =>
      let k := atD t.joins j JoinSlot.zero
      if m.getLsbD j then { k with c := k.c - 1, byEnd := true } else k }

/-- The flags of an outstanding result whose value is already computed. -/
def Pend.flags (p : Pend) : Flags := match p.pay with | .bits _ fl => fl | _ => 0

/-- A release or acquire goes on without fibres that have ended: its writes and signals are still made, and nothing returns to them
(R175, R388). -/
def PhaseOp.without (p : PhaseOp) (fs : List Nat) : PhaseOp :=
  { p with fibres := p.fibres.filter fun h => !fs.contains h, vars := p.vars.map fun v => if fs.contains v.fibre then { v with dst := 255 } else v }

/-- Fibres of a team end: their outstanding values and pending results will be discarded (R209), the flags of the instructions that
committed are not (R227), and the effects of R190, R197 and R198 follow. The team ends with its last fibre, and the cohorts of a FIXED
one go with it (R173, R191, R249). -/
def State.endFibres (s : State) (c slot : Nat) (fs : List Nat) : State :=
  let gone (p : Pend) : Bool := p.kind != .pref && p.slot == slot && fs.contains p.fibre
  let s := ((s.cl c).pend.filter gone).foldl (fun s p => s.orFlags c slot p.flags) s
  let s := s.modTeam c slot fun t => fs.foldl Team.endFibre t
  let s := s.modCl c fun k => { k with
    pend := k.pend.filter fun p => !gone p
    phases := k.phases.map fun p => if p.slot = slot then p.without fs else p
    cohorts := k.cohorts.map fun (h : Cohort) => if h.team = slot then { h with late := h.late.filter fun l => !fs.contains l.fibre } else h }
  let s := (s.settle c slot).gbarSend c slot
  match s.team? c slot with
  | none => s
  | some t =>
    if t.live.isEmpty && !t.mc then
      (s.modTeam c slot fun t => { t with ended := true }).modCl c fun k => { k with cohorts := k.cohorts.filter fun h => h.team != slot }
    else s

/-- END (R175, R358). -/
def execEnd (f : Fields) (s : State) : Out :=
  s.issue 0x189 f fun s i =>
    let off := i.x.fs.filter fun h => !i.guard h
    let s := (s.account i).disband i.x i.stall
    let s := off.foldl (fun s h => s.toPool i.cl i.slot h i.next .plain 0) s
    if i.on.isEmpty then s else s.endFibres i.cl i.slot i.on

/-! ### Joins (R188, R356) -/

/-- JMARK (R188). -/
def execJmark (f : Fields) (s : State) : Out :=
  s.issue 0x186 f fun s i =>
    let j := f.md 0 4
    let s := s.account i
    let new := i.on.filter fun h => !(i.fib h).jmask.getLsbD j
    let s := s.modTeam i.cl i.slot fun t =>
      let t := new.foldl (fun (t : Team) h => t.modFibre h fun y => { y with jmask := y.jmask ||| (1#16 <<< j) }) t
      if i.on.isEmpty then t
      else { t with joins := modAt t.joins j fun k => { k with
        c := k.c + new.length, target := i.offTarget, byEnd := k.byEnd && k.c != 0 } }
    s.goOn i.x i.stall fun _ => i.next

/-- The cohort dissolves, its guarded fibres park with a wait, the others enter the pool at PC + len (R184 D3, R356). -/
def State.park (s : State) (i : Iss) (wait : Nat → Wait) : State :=
  let s := (s.account i).disband i.x i.stall
  i.x.fs.foldl (fun s h =>
    if i.guard h then s.modFibre i.cl i.slot h fun y => { y with pc := i.next, wait := wait h }
    else s.toPool i.cl i.slot h i.next .plain 0) s

/-- Parked fibres whose wait is already over enter the pool in the next cycle (R201). -/
def State.freed (s : State) (i : Iss) (fs : List Nat) : State :=
  fs.foldl (fun s h => s.toPool i.cl i.slot h i.next .plain 1) s

/-- JWAIT (R188): a fibre whose bit is clear, or that finds C = 0, is released at once. -/
def execJwait (f : Fields) (s : State) : Out :=
  s.issue 0x187 f fun s i =>
    let j := f.md 0 4
    let waits (h : Nat) : Bool := (i.fib h).jmask.getLsbD j && decide (0 < (atD i.team.joins j JoinSlot.zero).c)
    let s := s.park i fun _ => .join j
    let s := s.freed i (i.on.filter fun h => !waits h)
    let n := (i.on.filter waits).length
    let s := s.modTeam i.cl i.slot fun t => { t with joins := modAt t.joins j fun k => { k with a := k.a + n } }
    s.settle i.cl i.slot

/-! ### YIELD and SLEEP -/

/-- Whether every register a cohort was found waiting for is full. -/
def State.unblocked (s : State) (c : Nat) (k : Cohort) : Bool :=
  match k.blocked with
  | none => true
  | some (_, _, l) => l.all fun x => ((s.fibre c k.team x.1).reg x.2).full

/-- Whether a cohort may be offered an issue slot: nothing holds it, its STALL has passed, it does not wait for a register that
is empty, and a fibre of it is at an instruction (R178, R291). -/
def State.offered (s : State) (c : Nat) (k : Cohort) : Bool :=
  (k.hold == .none || k.hold == .resumed) && s.rested c k && s.unblocked c k
    && (match s.ctxOf c k.id with | some x => !x.team.halted && !x.team.ended | none => false)

/-- YIELD (R359). -/
def execYield (f : Fields) (s : State) : Out :=
  s.issue 0x18A f fun s i =>
    let others := (s.cl i.cl).cohorts.any fun k => k.slice == i.x.co.slice && k.id != i.x.co.id && s.offered i.cl k
    let s := s.finish i []
    if others then s.modCohort i.cl i.x.co.id fun k => { k with hold := .yielded (s.cl i.cl).cycle } else s

/-- SLEEP (R360): a poisoned duration counts as 0. -/
def execSleep (f : Fields) (s : State) : Out :=
  s.issue 0x18B f fun s i =>
    let d (h : Nat) : Nat :=
      if f.len = .m then f.imm.toNat
      else
        let a := i.src 1 h
        if a.2.isSome then 0 else a.1
    let t := maxNat (i.on.map d)
    let s := s.finish i []
    if t = 0 then s else s.modCohort i.cl i.x.co.id fun k => { k with hold := .sleep (s.ptime + t) }

end Sys2Proof.Machine
end

