-- ==== Sys2Proof/Machine/Barrier.lean ====
section
/-!
DEFINITION. Machine/Barrier.lean: CSYNC, JOIN and LEAVE (R176, R186, R358, R361), set barriers (R195, R196, R362) and
global barriers (R198, R199, R363).
-/
namespace Sys2Proof.Machine

/-- CSYNC (R186, R361): a fibre outside the set is released at once. -/
def execCsync (f : Fields) (s : State) : Out :=
  s.issue 0x18C f fun s i =>
    let k := f.md 0 4
    let s := s.park i fun _ => .csync k
    let s := s.freed i (i.on.filter fun h => !(i.fib h).sets.getLsbD k)
    s.settle i.cl i.slot

/-- JOIN (R176). -/
def execJoin (f : Fields) (s : State) : Out :=
  s.issue 0x18D f fun s i =>
    let k := f.md 0 4
    let p := (atD i.team.bars k ⟨0, 0⟩).p
    let new := i.on.filter fun h => !(i.fib h).sets.getLsbD k
    let s := new.foldl (fun s h => s.modFibre i.cl i.slot h fun y =>
      { y with sets := y.sets ||| (1#16 <<< k), lph := modAt y.lph k fun _ => p }) s
    s.finish i []

/-- LEAVE (R176, R197): of the cohort's formation set it dissolves the cohort (R358). The fibres of a FIXED cohort go on at the
next instruction, on one path with the rest of the issue, which has the same PC (R191; log entry 116). -/
def execLeave (f : Fields) (s : State) : Out :=
  s.issue 0x18E f fun s i =>
    let k := f.md 0 4
    let s := i.on.foldl (fun s h => s.modFibre i.cl i.slot h fun y => { y with sets := y.sets &&& ~~~(1#16 <<< k) }) s
    let s := if i.x.co.fset = k then (s.account i).scatter i.x i.stall fun _ => i.next else s.finish i []
    s.settle i.cl i.slot

/-- Whether a cluster's die has applied a fibre's REPL updates (R154). -/
def State.replOwn (s : State) (c : Nat) (f : Fibre) : Bool := decide (f.repl ≤ atD s.repl.applied (s.dieOf c) 0)

/-- Whether an arrival of a fibre may count: its loads have returned, its die has applied its REPL updates and no release or
acquire of it is pending (R154). -/
def State.mayArrive (s : State) (i : Iss) : Bool :=
  i.on.all fun h => !s.loading i h && !(s.fibre i.cl i.slot h).phase && s.replOwn i.cl (i.fib h)

/-- Arrivals added to a set barrier (R195). -/
def State.arrive (s : State) (i : Iss) (k n : Nat) : State :=
  s.modTeam i.cl i.slot fun t => { t with bars := modAt t.bars k fun b => { b with a := b.a + n } }

/-- The count c of an arrival (R351). -/
def arrivals (f : Fields) : Nat := if f.len = .m then f.imm.toNat else 1

/-- BAR.ARRIVE (R362). -/
def execBarArrive (f : Fields) (s : State) : Out :=
  s.issue 0x190 f fun s i =>
    if s.mayArrive i then
      ((s.finish i []).arrive i (f.md 0 4) (i.on.length * arrivals f)).settle i.cl i.slot
    else s

/-- BAR.WAIT (R196). -/
def execBarWait (f : Fields) (s : State) : Out :=
  s.issue 0x191 f fun s i => (s.park i fun _ => .bar (f.md 0 4)).settle i.cl i.slot

/-- BAR.SYNC (R362). -/
def execBarSync (f : Fields) (s : State) : Out :=
  s.issue 0x192 f fun s i =>
    if s.mayArrive i then
      ((s.park i fun _ => .bar (f.md 0 4)).arrive i (f.md 0 4) i.on.length).settle i.cl i.slot
    else s

/-! ### Global barriers -/

/-- ACCESS of a GBAR instruction (R199, R363). -/
def State.gbarHits (s : State) (i : Iss) (b : Nat) : List (Nat × Hit) :=
  let g := s.gbar b
  if g.expect = 0 ∨ g.asid ≠ i.team.space then i.on.map fun h => (h, ⟨15, 0x09, 0, b, 0xFFFF⟩) else []

/-- Whether a release of a fibre can complete now (R155 items 1 and 4). -/
def State.mayRelease (s : State) (i : Iss) : Bool :=
  i.on.all fun h => !s.loading i h && !(s.fibre i.cl i.slot h).phase && !s.unflushed i.cl (fun _ _ => true) && s.replAhead (s.fibre i.cl i.slot h)

/-- Steps 1 to 3 of R132: the cluster's dirty bytes go home. -/
def State.release (s : State) (c : Nat) : State := s.flush c fun _ _ => true

/-- GBAR.ARRIVE (R198): the arrival follows a release (R170). -/
def execGbarArrive (f : Fields) (s : State) : Out :=
  s.issue 0x193 f fun s i =>
    let b := f.sa.toNat
    match trapOf (s.gbarHits i b) with
    | some t => s.trapNow i t
    | none =>
      if i.on.isEmpty then s.finish i []
      else if !s.mayRelease i then s
      else
        let s := s.release i.cl
        let ph := (s.gbar b).phase.toNat
        let s := s.finish i (i.on.map fun h => i.resV h ph none 0)
        let s := s.modTeam i.cl i.slot fun t => { t with
          gbar := Tab.set 0 t.gbar b (Tab.get 0 t.gbar b + i.on.length * arrivals f) }
        s.gbarSend i.cl i.slot

/-- GBAR.WAIT (R199): it parks once the fibre's loads have returned, which its acquire waits for (R156, R170). -/
def execGbarWait (f : Fields) (s : State) : Out :=
  s.issue 0x194 f fun s i =>
    let b := f.sb.toNat
    match trapOf (s.gbarHits i b) with
    | some t => s.trapNow i t
    | none =>
      if !s.mayArrive i then s
      else (s.park i fun h => .gbar b (BitVec.ofNat 16 (i.src 1 h).1)).gbarWake

end Sys2Proof.Machine
end

