-- ==== Sys2Proof/Machine/CrossLane.lean ====
section
/-!
DEFINITION. Machine/CrossLane.lean: group 7, cross-lane instructions (R364 to R370).
-/
namespace Sys2Proof.Machine

/-- The participants with their positions, in position order (R365). -/
def Iss.parts (i : Iss) : List (Nat × Nat) := i.on.map fun h => (h, i.x.pos h)

/-- The first poisoned of some sources: the lowest position's origin (R215). -/
def firstPois (l : List (Option Half)) : Option Half := l.findSome? id

/-- A mask of positions, cut to 32 bits without M64. -/
def posMask (wide : Bool) (ps : List Nat) : Nat :=
  let m := (ps.map fun p => 2 ^ p).sum
  if wide then m else m % 2 ^ 32

/-! ### Exchanges -/

/-- The source position of SHFL, none where its rule does not hold (R366). -/
def shflPos (mode g p b : Nat) : Option Nat :=
  let s0 := p - p % g
  let bm := b % g
  match mode with
  | 0 => some (s0 + bm)
  | 1 => if b ≤ p ∧ s0 ≤ p - b then some (p - b) else none
  | 2 => if p + b < s0 + g then some (p + b) else none
  | _ => some (s0 + (p % g ^^^ bm))

/-- SHFL in one participant. -/
def shflRes (f : Fields) (i : Iss) (h : Nat) : Res :=
  let b := i.srcB h
  let q := (shflPos (f.md 0 2) (64 / 2 ^ f.md 2 3) (i.x.pos h) b.1).bind i.x.atPos
  let a := i.src 1 (q.getD h)
  let o := a.2 <|> b.2
  ⟨h, i.vec 0 h a.1 o ++ [predDst f.sc.toNat q.isSome o], 0, none⟩

/-- SHFL (R366). -/
def execShfl (f : Fields) (s : State) : Out := s.alu 0x1C0 f (shflRes f)

/-- SHFLX in one participant (R367). -/
def shflxRes (f : Fields) (i : Iss) (h : Nat) : Res :=
  let b := i.srcB h
  let w := i.team.width
  let src := if b.1 / w ≤ f.md 0 3 then (i.x.atPos (b.1 % w)).map fun q => (i.fib q).reg (f.sa.toNat + b.1 / w) else none
  let v := src.getD (VReg.of 0)
  let own := if v.pois then some v.origin else none
  let o := match b.2 with
    | some ob => some (own.getD ob)
    | none => own
  ⟨h, i.vec 0 h v.val.toNat o ++ [.p (f.sc.toNat % 8) ⟨src.isSome, if b.2.isSome then o else none⟩], 0, none⟩

/-- SHFLX (R367). -/
def execShflx (f : Fields) (s : State) : Out := s.alu 0x1C1 f (shflxRes f)

/-! ### Folds of predicates (R368) -/

/-- The participants' predicates: those that hold it, and the poison of the result. -/
def Iss.votes (i : Iss) : List Nat × Option Half :=
  ((i.parts.filter fun p => (i.predSrc i.f.sa p.1).1).map (·.2), firstPois (i.on.map fun h => (i.predSrc i.f.sa h).2))

/-- BALLOT (R368). -/
def execBallot (f : Fields) (s : State) : Out :=
  s.alu 0x1C2 f fun i h => i.resV h (posMask (f.m 0) i.votes.1) i.votes.2 0

/-- VOTE (R368). -/
def execVote (f : Fields) (s : State) : Out :=
  s.alu 0x1C3 f fun i h =>
    let n := i.on.length
    let t := i.votes.1.length
    let v := match f.md 0 2 with
      | 0 => t == n
      | 1 => decide (1 ≤ t)
      | 2 => t == 0 || t == n
      | _ => decide (2 * t > n)
    i.resP h v i.votes.2 0

/-- ELECT (R368). -/
def execElect (f : Fields) (s : State) : Out :=
  s.alu 0x1C9 f fun i h =>
    let e := (minNat? (i.parts.map (·.2))).getD 0
    ⟨h, i.vec 0 h e none ++ [predDst f.sc.toNat (i.x.pos h == e) none], 0, none⟩

/-! ### Folds of values (R237, R369) -/

/-- One step of a fold that is not a floating-point addition. -/
def foldStep (w : Word) (op : Nat) (a b : Nat × Flags) : Nat × Flags :=
  let fl := a.2 ||| b.2
  match op with
  | 0 => ((a.1 + b.1) % 2 ^ 32, fl)
  | 1 => ((a.1 + b.1) % 2 ^ 64, fl)
  | 3 => (if sext 32 b.1 < sext 32 a.1 then b.1 else a.1, fl)
  | 4 => (if sext 32 b.1 > sext 32 a.1 then b.1 else a.1, fl)
  | 5 => (min a.1 b.1, fl)
  | 6 => (max a.1 b.1, fl)
  | 9 => (a.1 &&& b.1, fl)
  | 10 => (a.1 ||| b.1, fl)
  | 11 => (a.1 ^^^ b.1, fl)
  | _ =>
    let x := fp32.input w a.1
    let y := fp32.input w b.1
    let r := fp32.minmax w (fmLmm w) (op == 8) x.1 y.1
    (r.1, fl ||| x.2 ||| y.2 ||| r.2)

/-- A floating-point addition of a fold: the exact sum, rounded once. -/
def foldSum (f : Fmt) (w : Word) (vs : List Nat) : Nat × Flags :=
  let xs := vs.map (f.input w)
  let r := f.sumOut w (fmRm w) (xs.map (·.1))
  (r.1, xs.foldl (fun fl x => fl ||| x.2) r.2)

/-- The identity of an operation. -/
def foldUnit (op : Nat) : Nat :=
  match op with
  | 3 => 0x7FFFFFFF
  | 4 => 0x80000000
  | 5 => 0xFFFFFFFF
  | 7 => 0x7F800000
  | 8 => 0xFF800000
  | 9 => 0xFFFFFFFF
  | _ => 0

/-- The fold of values in position order; of none it is the identity. A floating-point minimum or maximum of one is still
subject to R229 and R230. -/
def foldOp (w : Word) (op : Nat) (vs : List Nat) : Nat × Flags :=
  match vs with
  | [] => (foldUnit op, 0)
  | v :: t =>
    if t.isEmpty && (op == 7 || op == 8) then foldStep w op (v, 0) (v, 0)
    else if op = 2 then foldSum fp32 w (v :: t)
    else if op = 12 then foldSum fp64 w (v :: t)
    else t.foldl (fun a b => foldStep w op a (b, 0)) (v, 0)

/-- A fold over fibres' sources, with its poison and flags. -/
def Iss.foldOf (i : Iss) (src : List (Nat × Option Half)) : Nat × Option Half × Flags :=
  let r := foldOp i.fpm (i.f.md 0 4) (src.map (·.1))
  (r.1, firstPois (src.map (·.2)), r.2)

/-- REDX (R369). -/
def execRedx (f : Fields) (s : State) : Out :=
  s.alu 0x1C4 f fun i h => i.resF h (i.foldOf (i.on.map (i.src 1)))

/-- SCANX (R369). -/
def execScanx (f : Fields) (s : State) : Out :=
  s.alu 0x1C5 f fun i h =>
    let p := i.x.pos h
    let below := i.parts.filter fun q => if f.m 4 then decide (q.2 < p) else decide (q.2 ≤ p)
    i.resF h (i.foldOf (below.map fun q => i.src 1 q.1))

/-- The participants whose key equals a fibre's (R369, R370). -/
def Iss.sameKey (i : Iss) (h : Nat) : List (Nat × Nat) := i.parts.filter fun q => (i.src 1 q.1).1 == (i.src 1 h).1

/-- SEGRED (R369). -/
def execSegred (f : Fields) (s : State) : Out :=
  s.alu 0x1C7 f fun i h =>
    let g := i.sameKey h
    let r := i.foldOf (g.map fun q => i.srcB q.1)
    let o := firstPois (g.map fun q => (i.src 1 q.1).2 <|> (i.srcB q.1).2)
    let lead := (g.head?.map (·.1)) == some h
    { i.resV h r.1 o r.2.2 with dsts := i.vec 0 h r.1 o ++ [predDst f.sc.toNat lead o] }

/-- CDET (R370). -/
def execCdet (f : Fields) (s : State) : Out :=
  s.alu 0x1C6 f fun i h =>
    let p := i.x.pos h
    let o := firstPois ((i.parts.filter fun q => decide (q.2 ≤ p)).map fun q => (i.src 1 q.1).2)
    i.resV h (posMask (f.m 1) (((i.sameKey h).filter fun q => decide (q.2 < p)).map (·.2))) o 0

/-- MATCHX (R370). -/
def execMatchx (f : Fields) (s : State) : Out :=
  s.alu 0x1C8 f fun i h =>
    i.resV h (posMask (f.m 1) ((i.sameKey h).map (·.2))) (firstPois (i.on.map fun q => (i.src 1 q).2)) 0

end Sys2Proof.Machine
end

