-- ==== Sys2Proof/Machine/LoadStore.lean ====
section
/-!
DEFINITION. Machine/LoadStore.lean: group 8, LD, ST, LDL and PREF (R373 to R378).
-/
namespace Sys2Proof.Machine

/-- Access size of SZ in bytes (R374). -/
def sizeOf' (sz : Nat) : Nat := match sz with | 0 => 1 | 1 => 1 | 2 => 2 | 3 => 2 | 4 => 4 | 5 => 8 | _ => 16

/-- The registers of an operand in a fibre. -/
def Iss.regsAt (i : Iss) (op h : Nat) : List Nat :=
  match i.use? op h with
  | some u => u.regs (i.fib h)
  | none => []

/-- Destinations written at once with a poisoned address's origin (R213, R375). -/
def State.poisonDst (s : State) (i : Iss) (h : Nat) (regs : List Nat) (o : Half) : State :=
  (s.markEmpty i h regs).modFibre i.cl i.slot h fun y => regs.foldl (fun y r => y.setReg r (VReg.poisoned o)) y

/-- LD (R375). -/
def execLd (f : Fields) (s : State) : Out :=
  s.issue 0x200 f fun s i =>
    let n := sizeOf' (f.md 0 3)
    let clean := i.on.filter fun h => (i.src 1 h).2.isNone
    let lanes := clean.map (i.lane n)
    match trapOf (lanes.filterMap fun l => (i.laneHit l).map fun x => (l.h, x)) with
    | some t => s.trapNow i t
    | none =>
      let s := s.account i
      let s := i.on.foldl (fun s h => match (i.src 1 h).2 with
        | some o => s.poisonDst i h (i.regsAt 0 h) o
        | none => s) s
      let signed := f.md 0 3 == 1 || f.md 0 3 == 3
      let s := s.loadAll i n (lanes.map fun l => ⟨l, i.regsAt 0 l.h, signed, f.md 0 3⟩)
      s.goOn i.x i.stall fun _ => i.next

/-- Loads that come before the lanes of a store or an atomic take their values first (R151); the scratchpad's banks are held as
long as the lanes need them (R128). -/
def State.fixLanes (s : State) (i : Iss) (ls : List (Lane × Got)) : State := (s.scrPort i (ls.map (·.1))).settleLanes i ls

/-- ST (R376). -/
def execSt (f : Fields) (s : State) : Out :=
  s.issue 0x201 f fun s i =>
    let n := sizeOf' (f.md 0 3)
    match s.checkLanes i 1 (i.on.map (i.lane n)) with
    | (.trap t, s) => s.trapNow i t
    | (.wait, s) => s
    | (.ok ls, s) =>
      if s.sendsLater i ls then s else
      let s := ((s.account i).coalesce i 1 n (lineVas (ls.map (·.1)))).fixLanes i ls
      let s := s.storeAll i (ls.map fun l => (l.1, l.2, leBytes n (i.src 2 l.1.h).1))
      s.goOn i.x i.stall fun _ => i.next

/-- Lane of word e of an LDL block, whose address is the lowest guarded fibre's (R377). -/
def Iss.wordLane (i : Iss) (low e dst : Nat) : Lane :=
  let x := i.target low ((i.src 1 low).1 + 4 * e) 4
  ⟨dst, x.1, x.2, 4⟩

/-- BOUNDS over the block, then MISALIGN of its start, in every participant (R377). -/
def Iss.blockHit (i : Iss) (low words : Nat) : Option Hit :=
  let l := i.wordLane low 0 low
  let mis : Option Hit := if l.ea % (4 * i.team.width) ≠ 0 then some ⟨14, 0x0D, 0, l.ea, 0xFFFF⟩ else none
  match l.tgt with
  | .scr off => if i.team.scrBad off (4 * words) then some ⟨13, 0x0F, 0, off, 0xFFFF⟩ else mis
  | _ => mis

/-- LDL (R377). -/
def execLdl (f : Fields) (s : State) : Out :=
  s.issue 0x202 f fun s i =>
    match i.on with
    | [] => s.finish i []
    | low :: _ =>
      let w := i.team.width
      let words := w * (f.md 0 3 + 1)
      match (i.src 1 low).2 with
      | some o =>
        let s := i.on.foldl (fun s h => s.poisonDst i h (i.regsAt 0 h) o) (s.account i)
        s.goOn i.x i.stall fun _ => i.next
      | none =>
        match i.blockHit low words with
        | some x => s.trapNow i ⟨x.cause, 0, i.on.map fun h => (h, x.info), 0xFFFF⟩
        | none =>
          let s := s.account i
          let all := (List.range words).map fun e => i.wordLane low e low
          let qs := (List.range words).filterMap fun e =>
            match i.on.find? fun h => i.x.pos h == e % w with
            | some h => some (⟨i.wordLane low e h, ((i.regsAt 0 h)[e / w]?).toList, false, 7⟩ : LoadReq)
            | none => none
          ((s.scrPort i all).loadReqs i 4 (lineVas all) qs).goOn i.x i.stall fun _ => i.next

/-- The sectors PREF asks for in a fibre (R378). -/
def prefSectors (line : Bool) (pa : Nat) : List Nat :=
  if line then (List.range 4).map fun k => pa / 256 * 4 + k else [pa / 64]

/-- One sector requested: when it is missing it counts and is outstanding (R148); `repl`: of a REPL page. -/
def State.prefOne (s : State) (i : Iss) (h va sector : Nat) (repl : Bool) : State :=
  let k := s.cl i.cl
  let asid := i.team.space
  if (k.sector? sector).isSome || k.pend.any (·.prefAt sector) then s
  else (s.countCl i.cl 0x100 1).modCl i.cl fun k => { k with
    pend := k.pend ++ [⟨.pref, i.slot, h, [], s.issueNo i, i.x.pc, 0, .pref va asid (s.gen asid) (64 * sector) repl⟩] }

/-- PREF (R378): every outcome but a translated PHASE or REPL page drops the request. -/
def execPref (f : Fields) (s : State) : Out :=
  s.issue 0x203 f fun s i =>
    let lanes := (i.on.filter fun h => (i.src 1 h).2.isNone).map (i.lane 1)
    let (gs, s) := s.gotAll i 0 lanes
    let s := gs.foldl (fun s g => match g.2 with
      | .at pa cls =>
        if (cls = 0 ∨ cls = 2) ∧ !isSram pa then (prefSectors (f.m 0) pa).foldl (fun s x =>
          s.prefOne i g.1.h (g.1.va / 256 * 256 + x % 4 * 64) x (cls == 2)) s
        else s
      | _ => s) s
    s.finish i []

end Sys2Proof.Machine
end

