-- ==== Sys2Proof/Machine/Atomics.lean ====
section
/-!
DEFINITION. Machine/Atomics.lean: ATOM, ATOMC and RED (R379 to R384).
-/
namespace Sys2Proof.Machine

/-- Whether an outstanding load of a fibre is of LIVE, REPL or UNCACHED memory, or of a page that still waits, and not yet
performed (R164). -/
def State.openLoad (s : State) (i : Iss) (h : Nat) : Bool :=
  (s.cl i.cl).pend.any fun p => p.kind == .load && p.slot == i.slot && p.fibre == h && (match p.pay with
    | .load va _ _ => (match (s.xlate i.cl i.team.space va 0).1 with
      | .ok _ 0 => false
      | .page => false
      | .access => false
      | _ => true)
    | _ => false)

/-- What an atomic's scope waits for (R164): .team every load returned, .dev the LIVE, REPL and UNCACHED accesses performed. -/
def State.scopeReady (s : State) (i : Iss) (dev : Bool) (h : Nat) : Bool :=
  if dev then !s.openLoad i h && s.repl.applied.all fun n => decide ((i.fib h).repl ≤ n)
  else !s.loading i h && s.replOwn i.cl (i.fib h)

/-- The poison a word's operation meets: its sector, and whether this operation's read of HBM found it so (R145). -/
abbrev Poison := Option (Nat × Bool)

/-- What an operation of cluster `c` on a word finds before it (R138, R139): a PHASE word's own dirty bytes go home; another
agent's hold of the word is recalled; an operation at home merges the line's partials and reads the sector. One that the
table places in the L1 of `c` does neither. `tab`: the table governs it, as it does ATOM, ATOMC and phase variables; a RED
recalls the word whoever holds it. -/
def State.wordReady (s : State) (c pa cls n : Nat) (w tab : Bool) : Poison × State :=
  let pas := (List.range n).map (pa + ·)
  let s := if cls = 0 then s.flush c (fun a _ => a / 8 == pa / 8) else s
  let s := if cls = 1 then s.dirTouch c w pas else s
  let s := s.recall (if cls ≤ 1 && tab then some c else none) pas
  let here := decide (cls ≤ 1) && tab && s.heldWord c pa
  let s := if cls ≤ 1 && tab then s.svtTouch c pa else s
  let (found, s) := if here then ([], s) else s.demandRead [pa]
  let s := if here then s else s.touch [pa]
  (if s.poisoned pa then some (pa / 64 * 64, !found.isEmpty) else none, s)

/-- An operation on the word at a local or peer home, or in the L1 that holds it: the old value, or the poisoned sector, which
stops it (R381, R384). The cluster's clean copies of the sector are dropped (R150). -/
def State.atHome (s : State) (c pa cls n : Nat) (tab : Bool) (g : Nat → Nat) : Nat × Poison × State :=
  let (p, s) := s.wordReady c pa cls n true tab
  if p.isSome then (0, p, s)
  else
    let old := leVal (s.homeBytes pa n)
    let s := s.putRaw (cellsAt pa (leBytes n (g old)))
    (old, none, if cls = 0 then s.dropCopies c [pa / 64] else s)

/-- The same in sequencer order on a REPL word (R136); the fibre's own die applies it too, and with `dev` every die (R164). -/
def State.atRepl (s : State) (i : Iss) (dev : Bool) (h pa n : Nat) (g : Nat → Nat) : Nat × Poison × State :=
  let (found, s) := (s.replCatchUp pa).demandRead [pa]
  let s := s.touch [pa]
  if s.poisoned pa then (0, some (pa / 64 * 64, !found.isEmpty), s)
  else
    let old := leVal (s.homeBytes pa n)
    let (k, s) := s.replPut (homeDie pa) (cellsAt pa (leBytes n (g old)))
    let s := if dev then s.replAll else s.replApply (s.dieOf i.cl) k
    (old, none, (s.modFibre i.cl i.slot h fun y => { y with repl := k }).replSeen i.cl i.slot h)

/-- The same in the scratchpad; the address of the poison is the team offset (R384). -/
def State.atScratch (s : State) (i : Iss) (off n : Nat) (g : Nat → Nat) : Nat × Option Nat × State :=
  match s.team? i.cl i.slot with
  | none => (0, none, s)
  | some t =>
    if t.scrPoisoned off n then (0, some off, s)
    else
      let old := leVal (t.scrBytes off n)
      (old, none, s.modTeam i.cl i.slot fun t => t.scrPut (cellsAt off (leBytes n (g old))))

/-- One lane's operation where its target executes it (R382): the old value, or the address of its poison, with the key
under which the issue's origins are shared. `tab` as in State.wordReady. -/
def State.laneOp (s : State) (i : Iss) (dev tab : Bool) (l : Lane × Got) (g : Nat → Nat) : Nat × Option (Nat × Nat × Bool) × State :=
  match l.2 with
  | .scr off =>
    let (v, p, s) := s.atScratch i off l.1.n g
    (v, p.map fun a => (2 ^ 53 + a / 8, a, false), s)
  | .at pa cls =>
    let s := s.markDirty i.cl i.team.space l.1.va
    let (v, p, s) := if cls = 2 then s.atRepl i dev l.1.h pa l.1.n g else s.atHome i.cl pa cls l.1.n tab g
    (v, p.map fun a => (a.1 / 64, a.1, a.2), s)
  | _ => (0, none, s)

/-- A lane of ATOM or ATOMC: the operation, its old value on the way (R381). -/
def State.atomLane (s : State) (i : Iss) (dev : Bool) (m : Memo) (l : Lane × Got) (g : Nat → Nat) : Memo × State :=
  let regs := i.regsAt 0 l.1.h
  let code := if l.1.n = 8 then 5 else 4
  let pay (vs : List VReg) : Payload := match l.1.tgt with
    | .mem va => .old va l.1.n false vs
    | _ => .bits vs 0
  let (v, p, s) := s.laneOp i dev true l g
  match p with
  | some (key, addr, found) =>
    let (o, m, s) := s.originFor m i.cl 0x07 key addr i.x.pc i.team.space i.slot l.1.h
    let s := if found then s.errMemory addr o.toNat else s
    (m, s.request i .load l.1.h regs code (pay (regsOf 0 regs.length (some o))))
  | none => (m, s.request i .load l.1.h regs code (pay (regsOf v regs.length none)))

/-- Outstanding PHASE loads of a fibre on the bytes of an atomic take their value before it: its reads never go backwards
(R150). -/
def State.fixPhase (s : State) (i : Iss) (ls : List (Lane × Got)) : State :=
  ls.foldl (fun s l => match l.2 with
    | .at pa 0 => s.fixLoads i l.1.h fun cls a n => cls == 0 && decide (a < pa + l.1.n ∧ pa < a + n)
    | _ => s) s

/-- The memory operation of a reduction window's OP (R25, R380, R383). -/
def fabricOp (op : Nat) : Nat :=
  match op with
  | 0 => 0
  | 1 => 2
  | 2 => 3
  | 3 => 4
  | 4 => 11
  | 5 => 12
  | 6 => 14
  | _ => 13

/-- The transaction of a RED to a peer address inside an open window of the peer that has its operation (R26, R383). Where the
window lies and what it is set to is the peer's (log entry 44). -/
def State.redSend (s : State) (die pa op : Nat) (b : Word) : Option SentRed :=
  if !isPeer pa then none
  else match Config.peerWindow pa s.free, s.peerPort die pa with
    | some (win, epoch, wop, offset), some port =>
      if fabricOp (wop.toNat % 8) = op then some ⟨port, BitVec.ofNat 11 (fld pa 40 11), win, epoch, wop, 1, offset, [b]⟩ else none
    | _, _ => none

/-- Whether a lane reaches a peer's word that lies in a window open there: an atomic then waits there (R29, R382), a RED unless
the window has its operation (R383). What the peer has set is log entry 44. -/
def State.peerHeld (s : State) (red : Option Nat) (die : Nat) (ls : List (Lane × Got)) : Bool :=
  ls.any fun l => match l.2 with
    | .at pa _ => s.peerWaits pa && (match red with
      | some op => (s.redSend die pa op 0).isNone
      | none => true)
    | _ => false

/-- The issue of an instruction that operates on memory atomically: the checks of R373 and R266, then its ordering, then its
lanes in position order. `red`: the OP of a RED. -/
def State.atomIssue (s : State) (i : Iss) (n : Nat) (red : Option Nat) (ready : State → Nat → Bool)
    (one : Memo → State → Lane × Got → Memo × State) : State :=
  match s.checkLanes i 2 (i.on.map (i.lane n)) with
  | (.trap t, s) => s.trapNow i t
  | (.wait, s) => s
  | (.ok ls, s) =>
    let global := ls.any fun l => match l.2 with | .scr _ => false | _ => true
    if (global && !(i.on.all (ready s))) || s.sendsLater i ls || s.peerHeld red (s.dieOf i.cl) ls then s
    else
      let s := (((s.account i).coalesce i 2 n (lineVas (ls.map (·.1)))).fixLanes i ls).fixPhase i ls
      let s := (ls.foldl (fun acc l => one acc.1 acc.2 l) (([] : Memo), s)).2
      s.goOn i.x i.stall fun _ => i.next

/-- ATOM (R381). -/
def execAtom (f : Fields) (s : State) : Out :=
  s.issue 0x240 f fun s i =>
    let op := f.sc.toNat
    s.atomIssue i (if memWide op then 8 else 4) none (fun s h => s.scopeReady i (f.m 0) h) fun m s l =>
      s.atomLane i (f.m 0) m l fun old => memOp op old (i.src 2 l.1.h).1

/-- ATOMC (R381). -/
def execAtomc (f : Fields) (s : State) : Out :=
  s.issue 0x241 f fun s i =>
    s.atomIssue i (if f.m 1 then 8 else 4) none (fun s h => s.scopeReady i (f.m 0) h) fun m s l =>
      s.atomLane i (f.m 0) m l fun old => if old = (i.src 2 l.1.h).1 then (i.src 3 l.1.h).1 else old

/-- A RED that stays on the package: the old value goes nowhere, so the poison it finds is reported without an origin. -/
def State.redAt (s : State) (i : Iss) (op : Nat) (l : Lane × Got) (b : Nat) : State :=
  let (_, p, s) := s.laneOp i false false l fun old => memOp op old b
  match p with
  | some (_, addr, true) => s.errMemory addr 0xFFFF
  | _ => s

/-- A lane of RED (R383): a transaction to a peer's window; a partial on a PHASE page (R141), whatever holds the word being
recalled first (R139); else performed at once. -/
def State.redLane (s : State) (i : Iss) (op : Nat) (l : Lane × Got) : State :=
  let b := (i.src 2 l.1.h).1
  match l.2 with
  | .at pa cls =>
    (match s.redSend (s.dieOf i.cl) pa op (BitVec.ofNat 32 b) with
      | some t => { s.markDirty i.cl i.team.space l.1.va with sent := s.sent ++ [t] }
      | none =>
        if cls = 0 && !isSram pa then
          let s := (s.markDirty i.cl i.team.space l.1.va).flush i.cl fun a _ => a / 8 == pa / 8
          let d := s.dieOf i.cl
          ((s.recall none ((List.range l.1.n).map (pa + ·))).redPartial d i.team.space pa op (BitVec.ofNat 64 b)).rdcTrim d (pa / 256)
        else s.redAt i op l b)
  | _ => s.redAt i op l b

/-- RED (R383). -/
def execRed (f : Fields) (s : State) : Out :=
  s.issue 0x242 f fun s i =>
    let op := f.sc.toNat
    s.atomIssue i (if memWide op then 8 else 4) (some op) (fun _ _ => true) fun m s l => (m, s.redLane i op l)

end Sys2Proof.Machine
end

