-- ==== Sys2Proof/Machine/Phase.lean ====
section
/-!
DEFINITION. Machine/Phase.lean: releases and acquires (R132, R133, R155, R156, R158, R386 to R388), their completion,
the invalidation of ICINV (R423), and PRIVALIAS (R389).
-/
namespace Sys2Proof.Machine

/-! ### Issue -/

/-- A release or acquire begins: its fibres are marked pending (R388). With no guarded fibre there is none (R387). -/
def State.beginPhase (s : State) (i : Iss) (op : PhaseOp) : State :=
  if i.on.isEmpty then s
  else
    let s := i.on.foldl (fun s h => s.modFibre i.cl i.slot h fun y => { y with phase := true }) s
    s.modCl i.cl fun k => { k with phases := k.phases ++ [op] }

/-- The variable's lane: a scratchpad aperture is a permission violation (R387). -/
def Iss.varLane (i : Iss) (h : Nat) : Lane :=
  let l := i.lane 8 h
  { l with tgt := match l.tgt with | .scr _ => .bad l.ea | t => t }

/-- The issue of a phase instruction (R387): destinations are empty from issue. -/
def State.phaseIssue (s : State) (i : Iss) (rel acq read write : Bool) : State :=
  let var := i.f.m 0
  match s.checkLanes i 2 (if var then i.on.map i.varLane else []) with
  | (.trap t, s) => s.trapNow i t
  | (.wait, s) => s
  | (.ok ls, s) =>
    let s := s.account i
    let s := i.on.foldl (fun s h => s.markEmpty i h (i.regsAt 0 h)) s
    let vars := ls.map fun l =>
      (⟨l.1.h, l.1.va, read, write, i.f.m 1, BitVec.ofNat 64 (i.src 2 l.1.h).1, i.f.dst.toNat⟩ : PhaseVar)
    (s.beginPhase i ⟨i.slot, i.on, rel, acq, vars, [], [], i.x.pc⟩).goOn i.x i.stall fun _ => i.next

/-- PHASE.REL (R387). -/
def execPhaseRel (f : Fields) (s : State) : Out := s.issue 0x243 f fun s i => s.phaseIssue i true false false true
/-- PHASE.ACQ (R387). -/
def execPhaseAcq (f : Fields) (s : State) : Out := s.issue 0x244 f fun s i => s.phaseIssue i false true true false
/-- PHASE.FULL (R387). -/
def execPhaseFull (f : Fields) (s : State) : Out := s.issue 0x245 f fun s i => s.phaseIssue i true true true true

/-! ### Completion -/

/-- Whether an operation may complete (R155, R156): the fibres' loads have returned, and for a release their REPL updates
have been applied by every die and no dirty byte of the cluster must wait for its home. -/
def State.phaseReady (s : State) (c : Nat) (op : PhaseOp) : Bool :=
  !(op.rel && s.unflushed c fun _ _ => true) && op.fibres.all fun h =>
    !((s.cl c).pend.any fun p => p.kind == .load && p.slot == op.slot && p.fibre == h)
      && (!op.rel || s.replAhead (s.fibre c op.slot h))

/-- The variable's word after its operation (R387). -/
def PhaseVar.next (v : PhaseVar) (old : Nat) : Nat :=
  if !v.write then old else if v.add then (old + v.value.toNat) % 2 ^ 64 else v.value.toNat

/-- The variable operated on where R382 says: the old value or the poisoned sector. A REPL variable is read with every lower
number applied on the fibre's die too, which its later loads then see (R136, R150, R162). -/
def State.varAt (s : State) (c slot pa cls : Nat) (v : PhaseVar) : Nat × Poison × State :=
  if !v.write then
    let (p, s) := (if cls = 2 then (s.replCatchUp pa).replApply (s.dieOf c) (s.repl.next - 1) else s).wordReady c pa cls 8 false true
    (if p.isSome then 0 else leVal (s.homeBytes pa 8), p, if cls = 2 then s.replSeen c slot v.fibre else s)
  else if cls = 2 then
    let (p, s) := (s.replCatchUp pa).wordReady c pa cls 8 true true
    if p.isSome then (0, p, s)
    else
      let old := leVal (s.homeBytes pa 8)
      let (k, s) := s.replPut (homeDie pa) (cellsAt pa (leBytes 8 (v.next old)))
      (old, none, ((s.replApply (s.dieOf c) k).modFibre c slot v.fibre fun y => { y with repl := k }).replSeen c slot v.fibre)
  else s.atHome c pa cls 8 true v.next

/-- The registers a variable's old value fills. -/
def pairRegs (n : Nat) : List Nat := if n = 255 then [] else [n, n + 1]

/-- A destination written full; latch entries of it are dropped and a uniform register is expanded (R210, R211). -/
def State.fillRegs (s : State) (c slot h : Nat) (regs : List Nat) (vs : List VReg) : State :=
  let s := s.modFibre c slot h fun y => (regs.zip vs).foldl (fun y r => y.setReg r.1 r.2) y
  let s := s.modTeam c slot fun t => if t.uni.isEmpty then t else t.retag ((regs.zip vs).map fun r => (r.1, h, r.2)) fun _ => false
  s.modCl c fun k => { k with latches := k.latches.map fun l => l.filter fun e => !(regs.any e.holds
    && k.cohorts.any fun co => co.id == e.cohort && co.team == slot && co.fibres.contains h) }

/-- One fibre's variable (R387): a poisoned one poisons the destination, or discards PHASE.REL's write with an error record
of CLASS 1; a translation lost since the issue defers its fault the same way. -/
def State.varDo (s : State) (c slot : Nat) (pc : Addr) (m : Memo) (v : PhaseVar) : Memo × State :=
  match s.team? c slot with
  | none => (m, s)
  | some t =>
    let regs := if v.read then pairRegs v.dst else []
    let bad (s : State) (cause key addr : Nat) (found : Bool) : Memo × State :=
      if v.read then
        let (o, m, s) := s.originFor m c cause key addr pc t.space slot v.fibre
        let s := if found then s.errMemory addr o.toNat else s
        (m, s.fillRegs c slot v.fibre regs (regsOf 0 2 (some o)))
      else (m, if cause = 0x07 then s.errMemory addr 0xFFFF else s)
    match s.xlate c t.space v.va 2 with
    | (.ok pa cls, s) =>
      let s := if v.write then s.markDirty c t.space v.va else s
      let (old, p, s) := s.varAt c slot pa cls v
      (match p with
        | some a => bad s 0x07 (a.1 / 64) a.1 a.2
        | none => (m, s.fillRegs c slot v.fibre regs (regsOf old 2 none)))
    | (.page, s) => bad s 0x08 (s.pageKey c t.space v.va) v.va false
    | (_, s) => bad s 0x09 (s.pageKey c t.space v.va) v.va false

/-- Whether a variable's page waits, which holds the operation (R114, R171), and whether it is to be asked for (R116). -/
def State.varWait (s : State) (c slot : Nat) (v : PhaseVar) : Option Bool :=
  match s.team? c slot with
  | none => none
  | some t => (match (s.xlate c t.space v.va 2).1 with | .wait post => some post | _ => none)

/-- The replay requests of variables whose pages have gone absent since the issue (R116). -/
def State.varAsk (s : State) (c slot : Nat) (vs : List PhaseVar) : State :=
  vs.foldl (fun s v => match s.varWait c slot v, s.team? c slot with
    | some true, some t => s.postReplay 2 c t.space v.va
    | _, _ => s) s

/-- The mapped 4 KiB pages of a range of a space: virtual and physical base. -/
def State.pagesOf (s : State) (asid a n : Nat) : List (Nat × Nat) :=
  if n = 0 ∨ a ≥ 2 ^ 48 then []
  else (List.range ((a % 4096 + n + 4095) / 4096)).filterMap fun k =>
    let va := (a / 4096 + k) * 4096
    match s.walk asid va with
    | .leaf 16 _ loc _ _ => some (va, pteFrame (leVal (s.homeBytes (loc + 8 * (va / 4096 % 16)) 8)))
    | .leaf b pte _ _ _ => some (va, pteFrame pte.toNat + va % 2 ^ b)
    | _ => none

/-- R423: instruction-cache lines of every cluster and clean RDC copies that overlap a range of the space go. -/
def State.invalidate (s : State) (asid a n : Nat) : State :=
  let ps := s.pagesOf asid a n
  if ps.isEmpty then s
  else
    let gone (pa : Nat) : Bool := ps.any fun p =>
      p.2 == pa / 4096 * 4096 &&
        (let line := (p.1 + pa % 4096) / 256 * 256
         decide (line < a + n ∧ a < line + 256))
    { s with
      clusters := s.clusters.map fun k => if k.icache.isEmpty then k
        else { k with icache := k.icache.filter fun x => !gone (x.no * 64) }
      rdc := s.rdc.map fun l => l.filter fun x => !gone (x.no * 64) }

/-- R413: ERRV cleared, then the signal waits its turn. -/
def State.sigDo (s : State) (c slot : Nat) (g : PhaseSig) : State :=
  let key := g.ref.toNat
  let s := if g.clr then s.setTimeline key { s.timeline key with errv := BitVec.allOnes 64 } else s
  { s with sigs := s.sigs ++ [(key, g.value, [c, slot, g.fibre])] }

/-- The k-th operation of a cluster completes (R387, R388, R413, R423): the release, the variables or signals in position
order, the acquire; the marks clear. -/
def State.phaseDone (s : State) (c k : Nat) : State :=
  match (s.cl c).phases[k]? with
  | none => s
  | some op =>
    if !s.phaseReady c op then s
    else if op.vars.any (fun v => (s.varWait c op.slot v).isSome) then s.varAsk c op.slot op.vars
    else
      let s := s.modCl c fun x => { x with phases := x.phases.eraseIdx k }
      let s := if op.rel then s.release c else s
      let s := (op.vars.foldl (fun acc v => acc.2.varDo c op.slot op.pc acc.1 v) (([] : Memo), s)).2
      let s := (op.sigs.foldl (fun s g => s.sigDo c op.slot g) s).tlDrain
      let s := if op.acq then s.acquire c else s
      let asid := match s.team? c op.slot with | some t => t.space | none => 0
      let s := op.inv.foldl (fun s r => s.invalidate asid r.1 r.2) s
      op.fibres.foldl (fun s h => s.modFibre c op.slot h fun y => { y with phase := false }) s

/-! ### PRIVALIAS -/

/-- PRIVALIAS (R316, R389). -/
def execPrivalias (f : Fields) (s : State) : Out :=
  s.issue 0x246 f fun s i =>
    let size := i.team.privs.toNat
    let val (h : Nat) : Nat := (i.team.privb.toNat + h * size + (i.src 1 h).1) % 2 ^ 64
    let bad (h : Nat) : Bool := size == 0 || decide ((i.src 1 h).1 + 1024 ≥ size)
    let (rs, _, s) := i.on.foldl (fun (acc : List Res × Memo × State) h =>
      let (rs, m, s) := acc
      match (i.src 1 h).2 with
      | some o => (rs ++ [i.resV h 0 (some o) 0], m, s)
      | none =>
        if bad h then
          let (o, m, s) := s.originFor m i.cl 0x09 (s.pageKey i.cl i.team.space (val h)) (val h) i.x.pc i.team.space i.slot h
          (rs ++ [i.resV h 0 (some o) 0], m, s)
        else (rs ++ [i.resV h (val h) none 0], m, s)) ([], [], s)
    s.finish i rs

end Sys2Proof.Machine
end

