-- ==== Sys2Proof/Machine/Caddy.lean ====
section
/-!
DEFINITION. Machine/Caddy.lean: group A, the caddy unit (R251 to R262, R390 to R397). An instruction works on a trial copy
of the state: a spill access that waits leaves the machine as it was (R255, R266).
-/
namespace Sys2Proof.Machine

/-! ### The table -/

/-- P of R251: bytes of a bucket. -/
def Claim.p (k : Claim) : Nat := if k.kw64 && k.vw64 then 256 else 128
def Claim.kBytes (k : Claim) : Nat := if k.kw64 then 8 else 4
def Claim.vBytes (k : Claim) : Nat := if k.vw64 then 8 else 4

/-- h1 and h2 (R254). -/
def Claim.hashes (k : Claim) (key : Nat) : Nat × Nat :=
  let p64 := key * 0x9F1B5D3AC4782E65 % 2 ^ 64
  let h1 := p64 / 2 ^ (64 - k.b)
  (h1, h1 ^^^ (p64 / 2 ^ 29 % 2 ^ k.b ||| 1))

def Team.rd (t : Team) (off n : Nat) : Nat := leVal (t.scrBytes off n)
def Team.wrt (t : Team) (off n v : Nat) : Team := t.scrPut (cellsAt off (leBytes n v))

/-- The header of bucket h (R253). -/
def Team.header (t : Team) (k : Claim) (h : Nat) : Nat := t.rd (t.caddyBase + h * k.p) 8
def Team.setHeader (t : Team) (k : Claim) (h v : Nat) : Team := t.wrt (t.caddyBase + h * k.p) 8 v
/-- Where slot s of bucket h lies (R253). -/
def Team.slotOff (t : Team) (k : Claim) (h s : Nat) : Nat := t.caddyBase + h * k.p + 8 + s * (k.kBytes + k.vBytes)
def Team.slotKey (t : Team) (k : Claim) (h s : Nat) : Nat := t.rd (t.slotOff k h s) k.kBytes
def Team.slotVal (t : Team) (k : Claim) (h s : Nat) : Nat := t.rd (t.slotOff k h s + k.kBytes) k.vBytes

/-- The claimed bytes zero and unpoisoned (R147, R251, R261). -/
def Team.clearTable (t : Team) (k : Claim) : Team :=
  let lo := t.caddyBase
  let hi := lo + k.bytes
  { t with
    scratch := t.scratch.filter fun x => !(decide (lo ≤ x.1 ∧ x.1 < hi))
    scrPois := t.scrPois.filter fun w => !(decide (lo ≤ 8 * w ∧ 8 * w < hi)) }

/-- The standing claim changed. -/
def Team.modClaim (t : Team) (g : Claim → Claim) : Team := { t with claim := t.claim.map g }

/-! ### The spill area (R255) -/

/-- A caddy operation under way: the state, the spill accesses that wait (TYPE of R116, address, whether it posts a replay
request), and the failed access if there is one (cause, key of its origin, address, whether this read of HBM found the error). -/
structure Cad where
  s     : State
  waits : List (Nat × Nat × Bool)
  fail  : Option (Nat × Nat × Nat × Bool)
deriving DecidableEq, Repr

def Cad.team (x : Cad) (i : Iss) : Team := (x.s.team? i.cl i.slot).getD i.team
def Cad.claim (x : Cad) (i : Iss) : Claim := (x.team i).claim.getD ⟨0, false, false, 0, 0, 0, 0, 0⟩
def Cad.upd (x : Cad) (i : Iss) (g : Team → Team) : Cad := { x with s := x.s.modTeam i.cl i.slot g }
def Cad.stopped (x : Cad) : Bool := x.fail.isSome || !x.waits.isEmpty

/-- The physical address of spill entry n, unless the access waits or fails; a return-stack area is no place for one (R315). -/
def Cad.spillPa (x : Cad) (i : Iss) (n kind : Nat) : Option Nat × Cad :=
  let va := (x.claim i).sbase + 32 * n
  if i.team.inSpill va 32 then (none, { x with fail := some (0x09, va / 4096 * 64 + 12, va, false) }) else
  let (r, s) := x.s.xlate i.cl i.team.space va kind
  let x := { x with s := s }
  let key := s.pageKey i.cl i.team.space va
  match r with
  | .ok pa cls =>
    if cls = 3 ∨ isPeer pa then (none, { x with fail := some (0x09, key, va, false) })
    else (some pa, if kind = 1 then { x with s := x.s.markDirty i.cl i.team.space va } else x)
  | .wait p => (none, { x with waits := x.waits ++ [(kind, va, p)] })
  | .page => (none, { x with fail := some (0x08, key, va, false) })
  | .access => (none, { x with fail := some (0x09, key, va, false) })

/-- Spill entry n as it is read at its home: key, value, LIVE, h1 and the address. -/
def Cad.spillRead (x : Cad) (i : Iss) (n kind : Nat) : Option (Nat × Nat × Bool × Nat × Nat) × Cad :=
  match x.spillPa i n kind with
  | (none, x) => (none, x)
  | (some pa, x) =>
    let (found, s) := x.s.demandRead [pa]
    let s := s.touchBy none ((List.range 32).map (pa + ·))
    if s.poisoned pa then (none, { x with s := s, fail := some (0x07, pa / 64, pa / 64 * 64, !found.isEmpty) })
    else
      let w (k : Nat) : Nat := leVal (s.homeBytes (pa + 8 * k) 8)
      (some (w 0, w 1, bitOf (w 2) 0, fld (w 2) 32 16, pa), { x with s := s })

/-- A spill entry written whole. -/
def Cad.spillPut (x : Cad) (pa key val : Nat) (live tomb : Bool) (h1 : Nat) : Cad :=
  let cells := cellsAt pa (recBytes [key, val, b2n live + b2n tomb * 2 + h1 * 2 ^ 32, 0])
  { x with s := (x.s.recall none (cells.map (·.1))).homePut cells }

/-! ### find and place (R256) -/

/-- Where a key is. -/
inductive Loc where
  | none
  | slot (h s : Nat)
  | spill (n pa h1 val : Nat)
deriving DecidableEq, Repr

/-- The slot of a key in its two buckets. -/
def Team.findSlot (t : Team) (k : Claim) (key : Nat) : Option (Nat × Nat) :=
  let (h1, h2) := k.hashes key
  let inB (h : Nat) : Option (Nat × Nat) :=
    ((List.range 8).find? fun s => bitOf (t.header k h) s && t.slotKey k h s == key).map fun s => (h, s)
  inB h1 <|> inB h2

/-- The live spill entry of a key, in append order. -/
def Cad.findSpill (x : Cad) (i : Iss) (key kind : Nat) : Nat → Nat → Loc × Cad
  | 0, _ => (.none, x)
  | fuel + 1, n =>
    match x.spillRead i n kind with
    | (none, x) => (.none, x)
    | (some (sk, v, live, h1, pa), x) =>
      if live && sk == key then (.spill n pa h1 v, x) else x.findSpill i key kind fuel (n + 1)

/-- find(k); a spill entry that an update will write is translated for writing as well. -/
def Cad.find (x : Cad) (i : Iss) (key : Nat) (write : Bool) : Loc × Cad :=
  let k := x.claim i
  let t := x.team i
  match t.findSlot k key with
  | some (h, s) => (.slot h s, x)
  | none =>
    if !bitOf (t.header k (k.hashes key).1) 16 then (.none, x)
    else
      match x.findSpill i key 0 k.a 0 with
      | (.spill n pa h1 v, x) =>
        if write then (match x.spillPa i n 1 with
          | (some pa, x) => (.spill n pa h1 v, x)
          | (none, x) => (.none, x))
        else (.spill n pa h1 v, x)
      | r => r

/-- HIT, INSERTED, EXISTS, ABSENT, FULL, SPILLED (R257). -/
def cHit : Nat := 1
def cInserted : Nat := 2
def cExists : Nat := 4
def cAbsent : Nat := 8
def cFull : Nat := 16
def cSpilled : Nat := 32

/-- place(k, v): the status. -/
def Cad.place (x : Cad) (i : Iss) (key val : Nat) : Nat × Cad :=
  let k := x.claim i
  let t := x.team i
  let (h1, h2) := k.hashes key
  let free (h : Nat) : Option (Nat × Nat) :=
    ((List.range 8).find? fun s => !bitOf (t.header k h) s).map fun s => (h, s)
  match free h1 <|> free h2 with
  | some (h, s) =>
    (cInserted, x.upd i fun t =>
      let t := (t.wrt (t.slotOff k h s) k.kBytes key).wrt (t.slotOff k h s + k.kBytes) k.vBytes val
      let w := t.header k h
      t.setHeader k h (setFld (setFld w s 1 1) (8 + s) 1 0))
  | none =>
    if k.a = k.scap then (cFull, x)
    else
      match x.spillPa i k.a 1 with
      | (none, x) => (0, x)
      | (some pa, x) =>
        let x := x.spillPut pa key val true false h1
        (cInserted + cSpilled, x.upd i fun t =>
          let w := t.header k h1
          (t.setHeader k h1 (setFld (setFld w 16 1 1) 32 16 (min (fld w 32 16 + 1) 65535))).modClaim
            fun k => { k with a := k.a + 1, slive := k.slive + 1 })

/-- The value at a place, and it written. -/
def Cad.value (x : Cad) (i : Iss) : Loc → Nat
  | .none => 0
  | .slot h s => (x.team i).slotVal (x.claim i) h s
  | .spill _ _ _ v => v % 2 ^ (8 * (x.claim i).vBytes)

def Cad.setValue (x : Cad) (i : Iss) (key v : Nat) : Loc → Cad
  | .none => x
  | .slot h s => x.upd i fun t =>
      let k := x.claim i
      t.wrt (t.slotOff k h s + k.kBytes) k.vBytes v
  | .spill _ pa h1 _ => x.spillPut pa key v true false h1

/-- SPILLED of a place. -/
def Loc.spilled : Loc → Nat
  | .spill .. => cSpilled
  | _ => 0

/-- A key deleted: its slot tombstoned, or its spill entry no longer live (R256). -/
def Cad.delete (x : Cad) (i : Iss) (key : Nat) : Loc → Cad
  | .none => x
  | .slot h s => x.upd i fun t =>
      let k := x.claim i
      t.setHeader k h (setFld (setFld (t.header k h) s 1 0) (8 + s) 1 1)
  | .spill _ pa h1 v => (x.spillPut pa key v false true h1).upd i fun t => t.modClaim fun k => { k with slive := k.slive - 1 }

/-- ⊕ of OP (R258): the value and its flags. -/
def cadFold (w : Word) (op a b : Nat) : Nat × Flags :=
  match op with
  | 0 => ((a + b) % 2 ^ 32, 0)
  | 1 => ((a + b) % 2 ^ 64, 0)
  | 2 => foldSum fp32 w [a, b]
  | 3 => (if sext 32 b < sext 32 a then b else a, 0)
  | 4 => (if sext 32 b > sext 32 a then b else a, 0)
  | 5 => (min a b, 0)
  | 6 => (max a b, 0)
  | 7 => (if sext 64 b < sext 64 a then b else a, 0)
  | 8 => (if sext 64 b > sext 64 a then b else a, 0)
  | 9 => (min a b, 0)
  | 10 => (max a b, 0)
  | 11 => foldStep w 7 (a, 0) (b, 0)
  | 12 => foldStep w 8 (a, 0) (b, 0)
  | 13 => (a ||| b, 0)
  | _ => (a &&& b, 0)

/-! ### Groups (R259) -/

/-- What a lane receives: value, status and flags. -/
abbrev CadOut := Nat × Nat × Flags

/-- One group applied by its leader: the leader's result, what the other lanes receive. -/
abbrev GroupOp := Cad → (key : Nat) → (vals : List Nat) → CadOut × CadOut × Cad

def hprbGroup (i : Iss) : GroupOp := fun x key _ =>
  let (l, x) := x.find i key false
  let r : CadOut := match l with | .none => (0, cAbsent, 0) | l => (x.value i l, cHit + l.spilled, 0)
  (r, r, x)

def hinsGroup (i : Iss) : GroupOp := fun x key vals =>
  let (l, x) := x.find i key false
  match l with
  | .none =>
    if x.stopped then ((0, 0, 0), (0, 0, 0), x)
    else
      let v := vals.headD 0
      let (st, x) := x.place i key v
      if st = cFull then ((0, cFull, 0), (0, cFull, 0), x)
      else ((v, st, 0), (v, cExists + (if bitOf st 5 then cSpilled else 0), 0), x)
  | l =>
    let r : CadOut := (x.value i l, cExists + l.spilled, 0)
    (r, r, x)

def hdelGroup (i : Iss) : GroupOp := fun x key _ =>
  let (l, x) := x.find i key true
  match l with
  | .none => ((0, cAbsent, 0), (0, cAbsent, 0), x)
  | l => ((x.value i l, cHit + l.spilled, 0), (0, cAbsent, 0), x.delete i key l)

def haccGroup (i : Iss) : GroupOp := fun x key vals =>
  let op := (x.claim i).op
  let f : Nat × Flags := vals.tail.foldl (fun a b => let r := cadFold i.fpm op a.1 b; (r.1, a.2 ||| r.2)) (vals.headD 0, 0)
  let (l, x) := x.find i key true
  match l with
  | .none =>
    if x.stopped then ((0, 0, 0), (0, 0, 0), x)
    else
      let (st, x) := x.place i key f.1
      let r : CadOut := if st = cFull then (0, cFull, f.2) else (f.1, st, f.2)
      (r, r, x)
  | l =>
    let v := cadFold i.fpm op (x.value i l) f.1
    let r : CadOut := (v.1, cHit + l.spilled, f.2 ||| v.2)
    (r, r, x.setValue i key v.1 l)

/-! ### The common issue (R262, R391, R394) -/

/-- CADDY with a SUB in every guarded fibre. -/
def State.caddyTrap (s : State) (i : Iss) (sub : Nat) : State :=
  if i.on.isEmpty then s.finish i [] else s.trapNow i ⟨0x0E, sub, i.on.map fun h => (h, 0), 0xFFFF⟩

/-- Whether a 64-bit key or value operand names an odd register, or 254 (R391). -/
def oddPair (k : Claim) (vk vv : List Nat) : Bool :=
  let bad (n : Nat) : Bool := n != 255 && (n % 2 != 0 || n == 254)
  (k.kw64 && vk.any bad) || (k.vw64 && vv.any bad)

/-- A caddy instruction that needs a claim: SUB 0 without one, SUB 3 for an odd pair. -/
def State.caddyIssue (s : State) (i : Iss) (vk vv : List Nat) (go : State → Claim → State) : State :=
  match i.team.claim with
  | none => s.caddyTrap i 0
  | some k => if oddPair k vk vv then s.caddyTrap i 3 else if i.on.isEmpty then s.finish i [] else go s k

/-- What a fibre's destinations receive: fields, values and poison, the later written last. -/
abbrev Give := List (List Nat × Nat × Option Half)

/-- Results that arrive together (R391). -/
def State.give (s : State) (i : Iss) (h : Nat) (g : Give) (fl : Flags) : State :=
  s.request i .caddy h (g.flatMap (·.1)) 0 (.bits (g.flatMap fun x => regsOf x.2.1 x.1.length x.2.2) fl)

/-- The guarded fibres in equal-key groups, ascending leader (R259). -/
def Iss.groups (i : Iss) : List (Nat × List Nat) :=
  let keys := (i.on.map fun h => (i.src 1 h).1).eraseDups
  keys.map fun key => (key, i.on.filter fun h => (i.src 1 h).1 == key)

/-- One group's results given out; a failed group leaves the table and poisons its destinations (R255). -/
def Cad.runGroup (x : Cad) (i : Iss) (m : Memo) (op : GroupOp) (g : Nat × List Nat) :
    List (Nat × CadOut × Option Half) × Memo × Cad :=
  let (lead, rest, y) := op x g.1 (g.2.map fun h => (i.src 2 h).1)
  match y.fail with
  | some (cause, key, addr, found) =>
    let (o, m, s) := x.s.originFor m i.cl cause key addr i.x.pc i.team.space i.slot (g.2.headD 0)
    let s := if found then (s.demandRead [addr]).2.errMemory addr o.toNat else s
    (g.2.map fun h => (h, (0, 0, 0), some o), m, { x with s := s, waits := x.waits ++ y.waits })
  | none =>
    (g.2.map fun h => (h, if some h == g.2.head? then lead else rest, none), m, y)

/-- A wait found by the trial: the instruction does not issue, its replay requests are posted (R114, R255). -/
def State.cadWait (s : State) (i : Iss) (ws : List (Nat × Nat × Bool)) : State :=
  ws.foldl (fun s w => if w.2.2 then s.postReplay w.1 i.cl i.team.space w.2.1 else s) s

/-- HINS, HPRB, HDEL and HACC (R394). -/
def State.keyOp (s : State) (i : Iss) (vv : List Nat) (op : GroupOp) : State :=
  s.caddyIssue i [i.f.sa.toNat] vv fun s _ =>
    let s1 := s.account i
    let (outs, _, x) := i.groups.foldl (fun (acc : List (Nat × CadOut × Option Half) × Memo × Cad) g =>
      let (l, m, x) := acc.2.2.runGroup i acc.2.1 op g
      (acc.1 ++ l, m, x)) (([], [], ⟨s1, [], none⟩) : List (Nat × CadOut × Option Half) × Memo × Cad)
    if !x.waits.isEmpty then s.cadWait i x.waits
    else
      let s := outs.foldl (fun s o =>
        s.give i o.1 [(i.regsAt 0 o.1, o.2.1.1, o.2.2), (i.regsAt 4 o.1, o.2.1.2.1, o.2.2)]
          (if o.2.2.isSome then 0 else o.2.1.2.2)) x.s
      s.goOn i.x i.stall fun _ => i.next

/-- HINS (R394). -/
def execHins (f : Fields) (s : State) : Out :=
  s.issue 0x283 f fun s i => s.keyOp i [f.dst.toNat, f.sb.toNat] (hinsGroup i)
/-- HPRB (R394). -/
def execHprb (f : Fields) (s : State) : Out := s.issue 0x284 f fun s i => s.keyOp i [f.dst.toNat] (hprbGroup i)
/-- HDEL (R394). -/
def execHdel (f : Fields) (s : State) : Out := s.issue 0x285 f fun s i => s.keyOp i [f.dst.toNat] (hdelGroup i)
/-- HACC (R394). -/
def execHacc (f : Fields) (s : State) : Out :=
  s.issue 0x286 f fun s i => s.keyOp i [f.dst.toNat, f.sb.toNat] (haccGroup i)

/-! ### HCLAIM, HFREE, HCLR, HSTAT -/

/-- R252, with the field limits of R392. -/
def claimOk (cfg sbase scap units : Nat) : Bool :=
  let b := fld cfg 0 4
  let op := fld cfg 6 4
  let kw := bitOf cfg 4
  let vw := bitOf cfg 5
  decide (4 ≤ b ∧ b ≤ 14) && decide (cfg < 2 ^ 10) && decide (scap ≤ 2 ^ 24) && op != 15
    && decide (2 ^ b * (if kw && vw then 256 else 128) ≤ units * 2048)
    && !([0, 2, 3, 4, 5, 6, 11, 12].contains op && vw) && !([1, 7, 8, 9, 10].contains op && !vw)
    && sbase % 32 == 0 && decide (sbase + 32 * scap ≤ 2 ^ 48)

/-- HCLAIM (R251, R392): its parameters are those of the lowest guarded position. -/
def execHclaim (f : Fields) (s : State) : Out :=
  s.issue 0x280 f fun s i =>
    match i.on with
    | [] => s.finish i []
    | low :: _ =>
      let fb := i.fib low
      let po := [1, 2, 3].findSome? fun op => (i.use? op low).bind fun u =>
        (u.read fb).2.map fun o => (u.info fb (u.first fb), o)
      match po with
      | some (info, o) => s.trapNow i ⟨0x07, 0, [(low, info)], o⟩
      | none =>
        let cfg := (i.src 1 low).1
        let sbase := (i.src 2 low).1
        let scap := (i.src 3 low).1
        if i.team.claim.isSome then s.caddyTrap i 1
        else if !claimOk cfg sbase scap i.team.caddy then s.caddyTrap i 2
        else
          let k : Claim := ⟨fld cfg 0 4, bitOf cfg 4, bitOf cfg 5, fld cfg 6 4, sbase, scap, 0, 0⟩
          let s := (s.account i).modTeam i.cl i.slot fun t => { t.clearTable k with claim := some k }
          let s := i.on.foldl (fun s h => s.give i h [(i.regsAt 0 h, k.bytes, none)] 0) s
          s.goOn i.x i.stall fun _ => i.next

/-- HFREE (R393). -/
def execHfree (f : Fields) (s : State) : Out :=
  s.issue 0x281 f fun s i => s.caddyIssue i [] [] fun s _ =>
    (s.finish i []).modTeam i.cl i.slot fun t => { t with claim := none }

/-- HCLR (R261, R393). -/
def execHclr (f : Fields) (s : State) : Out :=
  s.issue 0x282 f fun s i => s.caddyIssue i [] [] fun s k =>
    (s.finish i []).modTeam i.cl i.slot fun t => (t.clearTable k).modClaim fun k => { k with a := 0, slive := 0 }

/-- Set bits of the low eight of a number. -/
def ones8 (x : Nat) : Nat := ((List.range 8).filter (bitOf x)).length

/-- HSTAT (R261, R396). -/
def execHstat (f : Fields) (s : State) : Out :=
  s.issue 0x288 f fun s i => s.caddyIssue i [] [] fun s k =>
    let hs := (List.range (2 ^ k.b)).map (i.team.header k)
    let live := (hs.map ones8).sum
    let tomb := (hs.map fun x => ones8 (x / 2 ^ 8)).sum
    let spb := (hs.filter fun x => bitOf x 16).length
    let v := live + tomb * 2 ^ 32 + spb * 2 ^ 64 + k.slive * 2 ^ 96
    let s := i.on.foldl (fun s h => s.give i h [(i.regsAt 0 h, v, none), (i.regsAt 4 h, k.a, none)] 0) (s.account i)
    s.goOn i.x i.stall fun _ => i.next

/-! ### HDRN (R260, R395) -/

/-- A drained entry: key, value, status. -/
abbrev Drained := Nat × Nat × Nat

/-- The scan from a cursor: entries taken until `need` are, the new cursor, the state. -/
def Cad.scan (x : Cad) (i : Iss) (need : Nat) : List Nat → List Drained → Nat → List Drained × Nat × Cad
  | [], acc, _ => (acc, 0xFFFFFFFF, x)
  | q :: qs, acc, last =>
    let k := x.claim i
    let found (e : Drained) (x : Cad) : List Drained × Nat × Cad :=
      if acc.length = need then (acc, last, x) else x.scan i need qs (acc ++ [e]) (q + 1)
    if q < 2 ^ (k.b + 3) then
      let t := x.team i
      let h := q / 8
      if bitOf (t.header k h) (q % 8) then found (t.slotKey k h (q % 8), t.slotVal k h (q % 8), cHit) x
      else x.scan i need qs acc last
    else
      match x.spillRead i (q - 2 ^ (k.b + 3)) 0 with
      | (none, x) => (acc, q, x)
      | (some (sk, v, live, _, _), x) =>
        if live then found (sk, v, cHit + cSpilled) x else x.scan i need qs acc last

/-- Registers of HDRN's value, named in EXT32[15:8]. -/
def drainVal (k : Claim) (f : Fields) : List Nat :=
  let n := f.ext.toNat / 256 % 256
  if n = 255 then [] else if k.vw64 then [n, n + 1] else [n]

/-- HDRN (R395). -/
def execHdrn (f : Fields) (s : State) : Out :=
  s.issue 0x287 f fun s i => 
    let po : Option (Nat × Nat × Half) := i.on.head?.bind fun low => (i.src 1 low).2.map fun o => (low, 0x100 + f.sa.toNat, o)
    match po with
    | some (low, info, o) => s.trapNow i ⟨0x07, 0, [(low, info)], o⟩
    | none =>
      s.caddyIssue i [f.dst.toNat] [f.ext.toNat / 256 % 256] fun s k =>
        let c := (i.src 1 (i.on.headD 0)).1
        let last := 2 ^ (k.b + 3) + k.a
        if c ≠ 0xFFFFFFFF ∧ c ≥ last then s.caddyTrap i 4
        else
          let qs := if c = 0xFFFFFFFF then [] else (List.range (last - c)).map (c + ·)
          let (es, cur, x) := Cad.scan ⟨s.account i, [], none⟩ i i.on.length qs [] c
          if !x.waits.isEmpty then s.cadWait i x.waits
          else
            let bad := i.on.drop es.length
            let (o, s) : Option Half × State := match x.fail with
              | some (cause, _, addr, found) =>
                if bad.isEmpty then (none, x.s)
                else
                  let (o, s) := x.s.origin i.cl cause i.x.pc addr i.team.space i.slot (bad.headD 0)
                  (some o, if found then s.errMemory addr o.toNat else s)
              | none => (none, x.s)
            let one (s : State) (h : Nat × Option Drained) : State :=
              let e := h.2.getD (0, 0, cAbsent)
              let p := if h.2.isSome then none else o
              s.give i h.1 [(i.regsAt 0 h.1, e.1, p), (drainVal k f, e.2.1, p), (i.regsAt 4 h.1, e.2.2, p),
                (i.regsAt 1 h.1, cur, none)] 0
            let s := ((List.range i.on.length).zip i.on).foldl (fun s h => one s (h.2, es[h.1]?)) s
            s.goOn i.x i.stall fun _ => i.next

end Sys2Proof.Machine
end

