-- ==== Sys2Proof/Machine/Tensor.lean ====
section
/-!
DEFINITION. Machine/Tensor.lean: tensor records (R122, R123), and the global and scratchpad accesses of engines (R119, R166,
R243, R315).
-/
namespace Sys2Proof.Machine

/-! ### Records -/

/-- Element width in bits of a record FMT (R122). -/
def fmtBits (f : Nat) : Nat :=
  match f with
  | 0 => 32
  | 1 => 16
  | 2 => 16
  | 5 => 4
  | 9 => 16
  | 10 => 32
  | 11 => 64
  | 12 => 64
  | 13 => 32
  | _ => 8

/-- A record of 128 bytes, none where it breaks R122. -/
def recParse (bs : List Byte) : Option TRec :=
  let v (o n : Nat) : Nat := leVal ((bs.drop o).take n)
  let w := v 0 8
  let rank := fld w 52 4 + 1
  let all := List.range 16
  let dim (i : Nat) : Nat := fld (v 28 40) (20 * i) 20
  let stride (i : Nat) : Nat := if i = 0 then 0 else v (64 + 4 * i) 4
  let ok := fld w 58 6 == 0 && fld w 56 2 != 3 && decide (fld w 48 4 ≤ 13) && fld w 0 4 == 0
    && (all.all fun i => if i < rank then dim i != 0 else v (12 + i) 1 == 0 && dim i == 0 && stride i == 0)
  if ok then
    some ⟨fld w 0 48, fld w 48 4, fld w 56 2, BitVec.ofNat 32 (v 8 4), (List.range rank).map fun i => v (12 + i) 1 + 1,
      (List.range rank).map dim, (List.range rank).map fun i => 16 * stride i⟩
  else none

/-- What naming a handle finds (R123). -/
inductive RecGot where
  | ok (r : TRec)
  | stale
  | wait (va : Nat) (post : Bool)
deriving DecidableEq, Repr

/-- The record of a handle, read at home and checked (R123); one that reaches into a spill area of the team cannot be read (R315). -/
def State.record (s : State) (agent asid : Nat) (priv : DWord × Word × Nat) (handle : Nat) : RecGot × State :=
  let sp := s.space asid
  let slot := handle % 2 ^ 16
  let gv := sp.rgenbase + 4 * slot
  let rv := sp.recbase + 128 * slot
  if sp.recbase = 0 ∨ spillMeets priv gv 4 ∨ spillMeets priv rv 128 then (.stale, s)
  else match s.engineXlate agent asid gv 4 4 with
  | (.wait p, a, s) => (.wait a p, s)
  | (.ok .., _, s) =>
    let (g, p, s) := s.engineBytes agent asid gv 4 4
    let w := leVal g
    if p || fld w 17 15 != 0 || !bitOf w 16 || w % 2 ^ 16 != handle / 2 ^ 16 % 2 ^ 16 then (.stale, s)
    else (match s.engineXlate agent asid rv 128 4 with
      | (.wait p, a, s) => (.wait a p, s)
      | (.ok .., _, s) =>
        let (bs, p, s) := s.engineBytes agent asid rv 128 4
        (match recParse bs with
          | some r => (if p then .stale else .ok r, s)
          | none => (.stale, s))
      | (_, _, s) => (.stale, s))
  | (_, _, s) => (.stale, s)

/-- Handle of the record k slots on, none beyond slot 0xFFFF (R241). -/
def nextHandle (handle k : Nat) : Option Nat := if handle % 2 ^ 16 + k ≥ 2 ^ 16 then none else some (handle % 2 ^ 32 + k)

/-! ### Elements -/

/-- Whether coordinates lie inside the dims. -/
def TRec.inside (r : TRec) (e : List Nat) : Bool := (e.zip r.dims).all fun x => decide (x.1 < x.2)
/-- Nearest in-bounds coordinates (PADM 2). -/
def TRec.clamp (r : TRec) (e : List Nat) : List Nat := (e.zip r.dims).map fun x => min x.1 (x.2 - 1)
/-- Bit address of an element from its BASE: byte address and bit offset. -/
def TRec.locate (r : TRec) (e : List Nat) : Nat × Nat :=
  let bits := e.headD 0 * fmtBits r.fmt
  (r.base + bits / 8 + ((e.zip r.strides).map fun x => x.1 * x.2).sum, bits % 8)
/-- PADV or zero of an element beyond the dims. -/
def TRec.pad (r : TRec) : Nat := if r.padm = 1 then r.padv.toNat % 2 ^ fmtBits r.fmt else 0

/-- Two coordinates of the slice of R241, every other index 0. -/
def TRec.slice (r : TRec) (x y : Nat) : List Nat :=
  (List.range r.dims.length).map fun i => if i = 0 then x else if i = 1 then y else 0
/-- Whether they lie inside: a record of rank 1 has extent 1 in dimension 1. -/
def TRec.sliceIn (r : TRec) (x y : Nat) : Bool := r.inside (r.slice x y) && (decide (2 ≤ r.dims.length) || y == 0)

/-! ### Engine accesses -/

/-- An engine operation under way: who it works for, the MMA whose operands it streams, what stops it, the lines it has asked for
(R124), and what it will write: bytes at home, REPL bytes, scratchpad bytes, the sectors and words it poisons, the bytes written
with data that is not poisoned, and those of them that went ahead (R146, R147). -/
structure Eng where
  s     : State
  cl    : Nat
  slot  : Nat
  asid  : Nat
  priv  : DWord × Word × Nat
  mma   : Option DWord
  wait  : Option (Nat × Nat × Bool)   -- TYPE of R116, address, whether it posts a replay request
  fail  : Bool
  lines : List (Nat × Nat)
  home  : List (Nat × Byte)
  repl  : List (Nat × Byte)
  scr   : List (Nat × Byte)
  bad   : List Nat
  badW  : List Nat
  good  : List Nat
  done  : List Nat
deriving DecidableEq, Repr

/-- Value of a read with the cause, key and address of its poison (R217). -/
abbrev Elem := Nat × Option (Nat × Nat × Nat)

def Eng.make (s : State) (cl slot asid : Nat) (priv : DWord × Word × Nat) : Eng :=
  ⟨s, cl, slot, asid, priv, none, none, false, [], [], [], [], [], [], [], []⟩

/-- Nothing more is accessed once a page waits or fails. -/
def Eng.stopped (x : Eng) : Bool := x.wait.isSome || x.fail

/-- A spill area of the team (R315). -/
def Eng.inSpill (x : Eng) (va n : Nat) : Bool := spillMeets x.priv va n

/-- One global access of an engine translated (R119); its line counted once (R124). -/
def Eng.xlate (x : Eng) (va n kind : Nat) : Option (Nat × Nat) × Eng :=
  if x.stopped then (none, x)
  else if va ≥ 2 ^ 48 ∨ x.inSpill va n then (none, { x with fail := true })
  else
    let agent := engineAgent (x.s.dieOf x.cl)
    let (r, s) := x.s.xlate agent x.asid va kind
    let new := !x.lines.contains (kind, va / 256)
    let s := if new then s.hotness (x.s.dieOf x.cl) 0xFFFF x.asid kind [va] else s
    let x := { x with s := s, lines := if new then (kind, va / 256) :: x.lines else x.lines }
    match r with
    | .ok pa cls => (some (pa, cls), if kind = 5 then { x with s := x.s.markDirty agent x.asid va } else x)
    | .wait p => (none, { x with wait := some (kind, va, p) })
    | _ => (none, { x with fail := true })

/-- Lines of a slice of the home L2 that an engine may not pin beyond: half of its 16,384 (R243). -/
def State.pinFull (s : State) (line : Nat) : Bool :=
  decide (8192 ≤ (((s.pins.map (·.line)).eraseDups).filter fun l => s.l2Slice l == s.l2Slice line).length)

/-- The line of a byte pinned in its home L2 for the MMA that an engine streams (R243). -/
def State.pin (s : State) (cl : Nat) (mma : Option DWord) (pa : Nat) : State :=
  match mma with
  | none => s
  | some n => if isLocal pa ∧ ⟨cl, n, pa / 256⟩ ∉ s.pins then { s with pins := s.pins ++ [⟨cl, n, pa / 256⟩] } else s

/-- An element of at most 8 bytes read at home; a failed one reads 0, and one that a link down keeps away is poisoned (R21). For
an MMA, UNCACHED pages fail, and its line is pinned (R243). -/
def Eng.load (x : Eng) (va bit bits : Nat) : Elem × Eng :=
  let n := (bit + bits + 7) / 8
  let agent := engineAgent (x.s.dieOf x.cl)
  let cut := !x.stopped && x.s.linkFails agent x.asid va 4 && !(x.mma.isSome && x.s.uncachedFails agent x.asid va 4)
  match x.xlate va n 4 with
  | (none, y) => if cut && !(va ≥ 2 ^ 48 || x.inSpill va n) then ((0, some (0x09, x.s.pageKey agent x.asid va, va)), { y with fail := false })
    else ((0, none), y)
  | (some (pa, cls), x) =>
    if x.mma.isSome && cls == 3 then ((0, none), { x with fail := true })
    else
      let pas := (List.range n).map (pa + ·)
      let s := ((x.s.demandHome pas).touchBy none pas).pin x.cl x.mma pa
      let v := leVal (pas.map s.targetByte)
      ((fld v bit bits, if s.poisoned pa then some (0x07, pa / 64, pa / 64 * 64) else none), { x with s := s })

/-- A record element as it is read, PADM beyond the dims (R122). -/
def Eng.elem (x : Eng) (r : TRec) (e : List Nat) (inside : Bool) : Elem × Eng :=
  let bits := fmtBits r.fmt
  if !inside && r.padm != 2 then ((r.pad, none), x)
  else
    let (va, bit) := r.locate (if inside then e else r.clamp e)
    x.load va bit bits

/-- An element of a record's two-dimensional slice. -/
def Eng.elem2 (x : Eng) (r : TRec) (c y : Nat) : Elem × Eng :=
  x.elem r (r.slice c y) (r.sliceIn c y)

/-- Bits of the team's scratchpad from a byte offset, with the poison of the 8-byte word. -/
def Eng.scrLoad (x : Eng) (off bit bits : Nat) : Elem :=
  match x.s.team? x.cl x.slot with
  | none => (0, none)
  | some t =>
    let n := (bit + bits + 7) / 8
    (fld (leVal (t.scrBytes off n)) bit bits, if t.scrPoisoned off n then some (0x07, 2 ^ 53 + off / 8, off) else none)

/-- Replaces the bits of a byte list's little-endian value. -/
def putBits (old bit bits v : Nat) : Nat := setFld old bit bits v

/-- An element stored to global memory; FP4 elements replace half a byte. -/
def Eng.store (x : Eng) (va bit bits v : Nat) (pois : Bool) : Eng :=
  let n := (bit + bits + 7) / 8
  match x.xlate va n 5 with
  | (none, x) => x
  | (some (pa, cls), x) =>
    let cur (a : Nat) : Byte := ((x.home.find? fun c => c.1 == a) <|> (x.repl.find? fun c => c.1 == a)).map (·.2) |>.getD (x.s.homeByte a)
    let old := if bits < 8 then (cur pa).toNat else 0
    let bs := leBytes n (putBits old bit bits v)
    if isRegs pa then { x with s := x.s.regStore (pa - 2 ^ 49) n (leVal bs) }
    else
      let x := if cls = 2 then { x with repl := cellsAt pa bs ++ x.repl } else { x with home := cellsAt pa bs ++ x.home }
      if pois then { x with bad := pa / 64 :: x.bad } else { x with good := (List.range n).map (pa + ·) ++ x.good }

/-- An element stored to the scratchpad. -/
def Eng.scrStore (x : Eng) (off bit bits v : Nat) (pois : Bool) : Eng :=
  if x.stopped then x
  else
    let n := (bit + bits + 7) / 8
    let cur (a : Nat) : Byte := ((x.scr.find? fun c => c.1 == a).map (·.2)).getD
      ((x.s.team? x.cl x.slot).map (fun t => Tab.get 0 t.scratch a) |>.getD 0)
    let old := if bits < 8 then (cur off).toNat else 0
    let x := { x with scr := cellsAt off (leBytes n (putBits old bit bits v)) ++ x.scr }
    if pois then { x with badW := off / 8 :: x.badW } else { x with good := (List.range n).map (off + ·) ++ x.good }

/-- The units of n bytes that what has been written so far covers whole with data that is not poisoned. -/
def Eng.covered (x : Eng) (n : Nat) (cells : List (Nat × Byte)) : List Nat :=
  ((cells.map (·.1 / n)).eraseDups).filter fun k => (List.range n).all fun i => x.good.contains (n * k + i) || x.done.contains (n * k + i)

/-- Everything written (R411): poison clears where whole sectors or words are covered, elements that went ahead included, then the
poisoned ones are set (R146, R147). REPL bytes are performed at home, and applied by every die, before the counter moves (R167). -/
def Eng.commit (x : Eng) : State :=
  let s := if x.home.isEmpty then x.s else (x.s.recall none (x.home.map (·.1))).homePut x.home.reverse
  let lines := (x.repl.reverse.map (·.1 / 256)).eraseDups
  let s := lines.foldl (fun s l => (s.replPut (s.dieOf x.cl) (x.repl.reverse.filter fun c => c.1 / 256 == l)).2) s
  let s := if lines.isEmpty then s else s.replAll
  let s := if s.pois.isEmpty then s else (x.covered 64 (x.home ++ x.repl)).foldl (fun s k => s.setPois k false) s
  let s := x.bad.foldl (fun s k => s.setPois k true) s
  if x.scr.isEmpty then s
  else s.modTeam x.cl x.slot fun t =>
    let t := t.scrPut x.scr.reverse
    let left := if t.scrPois.isEmpty then [] else t.scrPois.filter fun w => !(x.covered 8 x.scr).contains w
    { t with scrPois := x.badW.foldl (fun l w => insSorted w l) left }

end Sys2Proof.Machine
end

