-- ==== Sys2Proof/Machine/Matrix.lean ====
section
/-!
DEFINITION. Machine/Matrix.lean: MMA, ACCZ, ACCLD and ACCST (R238 to R248, R400 to R404), and the events that start and
retire the operations of a pair (R100 to R102, R239, R247).
-/
namespace Sys2Proof.Machine

/-! ### Issue (R402) -/

/-- Formats of MMA: the record FMT of its operands, K, and whether it is an MX format (R240). -/
def mmaFmt (c : Nat) : Nat × Nat × Bool :=
  match c with
  | 0 => (2, 64, false)
  | 1 => (1, 64, false)
  | 2 => (3, 128, false)
  | 3 => (4, 128, false)
  | 6 => (7, 64, false)
  | _ => (5, 256, true)

/-- Record FMT of an MF code, and bytes an element (R401). -/
def mfFmt (c : Nat) : Nat × Nat :=
  match c with
  | 0 => (0, 4)
  | 1 => (1, 2)
  | 2 => (2, 2)
  | 3 => (3, 1)
  | 4 => (4, 1)
  | 5 => (10, 4)
  | _ => (7, 1)

/-- What the checks of an engine operand find in one fibre: an operand with its further records, a trap, or a wait. -/
inductive OpGot where
  | ok (a : Operand) (extra : List TRec)
  | hit (x : Hit)
  | wait (va : Nat) (post : Bool)
deriving DecidableEq, Repr

/-- A scratchpad operand's checks (R242, R402, R410). -/
def Team.scrOperand (t : Team) (off n : Nat) : OpGot :=
  if t.scrBad off n then .hit ⟨13, 0x0F, 0, off, 0xFFFF⟩
  else if off % 16 ≠ 0 then .hit ⟨14, 0x0D, 0, off, 0xFFFF⟩
  else .ok (.scratch off) []

/-- Records of a handle and of the slots after it, each of the FMT required (R123, R241). -/
def State.handleRecs (s : State) (agent asid : Nat) (priv : DWord × Word × Nat) (handle : Nat) : List (Nat × Nat) → List TRec → OpGot × State
  | [], acc => (match acc with
    | r :: rest => .ok (.tensor r []) rest
    | [] => .hit ⟨11, 0x0A, 0, handle, 0xFFFF⟩, s)
  | (k, fmt) :: more, acc =>
    let stale : OpGot := .hit ⟨11, 0x0A, 0, handle, 0xFFFF⟩
    match nextHandle handle k with
    | none => (stale, s)
    | some h => (match s.record agent asid priv h with
      | (.ok r, s) => if r.fmt = fmt then s.handleRecs agent asid priv handle more (acc ++ [r]) else (stale, s)
      | (.stale, s) => (stale, s)
      | (.wait va p, s) => (.wait va p, s))

/-- A handle operand with its origin. -/
def State.handleOperand (s : State) (i : Iss) (handle : Nat) (want : List (Nat × Nat)) (origin : List Nat) : OpGot × State :=
  match s.handleRecs (engineAgent (s.dieOf i.cl)) i.team.space i.team.priv handle want [] with
  | (.ok (.tensor r _) rest, s) => (.ok (.tensor r origin) rest, s)
  | x => x

/-- Register c of a block in a fibre; the field 255 reads 0. -/
def Iss.regAt (i : Iss) (h n k : Nat) : VReg := if n = 255 then VReg.of 0 else (i.fib h).reg (n + k)

/-- The first origin among some registers (R215). -/
def firstOrigin (rs : List VReg) : Option Half := (rs.find? (·.pois)).map VReg.origin

/-- What a fibre of a matrix instruction asks for: the operation without its number, a trap, or a wait. -/
inductive MatAsk where
  | ok (op : MatOp)
  | hit (x : Hit)
  | wait (va : Nat) (post : Bool)
deriving DecidableEq, Repr

/-- The tile check of R402. -/
def Iss.tileHit (i : Iss) (t : Nat) : Option Hit :=
  if i.team.acc = 0 ∨ t ≥ i.team.acc then some ⟨13, 0x0F, 1, t, 0xFFFF⟩ else none

/-- Two operands' findings: the ranks decide between traps, and among those of one rank the order of R402's block, the tile's check
first; a trap comes before a wait (R264, R266). -/
def joinGot (tile : Option Hit) (x y : OpGot) (k : Operand → List TRec → Operand → List TRec → MatOp) : MatAsk :=
  let hits := tile.toList ++ (match x with | .hit h => [h] | _ => []) ++ (match y with | .hit h => [h] | _ => [])
  match minNat? (hits.map (·.rank)) with
  | some r => (match hits.find? fun h => h.rank == r with
    | some h => .hit h
    | none => .hit ⟨11, 0x0A, 0, 0, 0xFFFF⟩)
  | none =>
    match x, y with
    | .ok a ea, .ok b eb => .ok (k a ea b eb)
    | .wait va p, _ => .wait va p
    | _, .wait va p => .wait va p
    | _, _ => .wait 0 false

/-- MMA in one fibre. -/
def State.askMma (s : State) (i : Iss) (h : Nat) : MatAsk × State :=
  let f := i.f
  let as := f.m 3
  let bs := f.m 4
  let sc := f.sc.toNat
  let co (k : Nat) : Nat := (i.regAt h sc k).val.toNat
  let fmt := f.md 0 3
  let (rf, kk, mx) := mmaFmt fmt
  let ra := kk * fmtBits rf / 8
  let regs := [(i.fib h).reg f.sa.toNat, (i.fib h).reg f.sb.toNat]
    ++ (if as && bs then [] else (List.range 3).map (i.regAt h sc))
  let tile := bitsOf f.ext.toNat 0 2
  let make (p : Option Half) (a : Operand) (ea : List TRec) (b : Operand) (eb : List TRec) : MatOp :=
    ⟨0, .mma, tile, fmt, f.ext.getLsbD 2, false, h, i.x.pc, a, b, ea.take 1 ++ eb ++ ea.drop 1, p, false, [], false⟩
  match firstOrigin regs with
  | some o => (match i.tileHit tile with
    | some x => .hit x
    | none => .ok (make (some o) (.scratch 0) [] (.scratch 0) []), s)
  | none =>
    let a := (i.src 1 h).1
    let b := (i.src 2 h).1
    let (x, s) := if as then (i.team.scrOperand a (256 * ra + if mx then 256 * (kk / 32) else 0), s)
      else s.handleOperand i a ([(0, rf)] ++ (if mx then [(1, 6)] else []) ++ (if fmt = 5 then [(2, 13)] else [])) [co 0, co 1]
    let (y, s) := if bs then (i.team.scrOperand b (128 * ra + if mx then 128 * (kk / 32) else 0), s)
      else s.handleOperand i b ([(0, rf)] ++ (if mx then [(1, 6)] else [])) [co 0, co 2]
    (joinGot (i.tileHit tile) x y (make none), s)

/-- ACCZ in one fibre. -/
def State.askAccz (s : State) (i : Iss) (h : Nat) : MatAsk × State :=
  let tile := i.f.md 0 2
  (match i.tileHit tile with
    | some x => .hit x
    | none => .ok ⟨0, .accz, tile, 0, false, false, h, i.x.pc, .scratch 0, .scratch 0, [], none, false, [], false⟩, s)

/-- ACCLD or ACCST in one fibre. -/
def State.askAcc (s : State) (i : Iss) (kind : MatKind) (sr : Bool) (h : Nat) : MatAsk × State :=
  let f := i.f
  let sc := f.sc.toNat
  let sp := f.m 3
  let mf := f.md 0 3
  let regs := [(i.fib h).reg f.sa.toNat] ++ (if sp then [] else (List.range 2).map (i.regAt h sc))
  let tile := bitsOf f.ext.toNat 0 2
  let make (p : Option Half) (a : Operand) (ea : List TRec) (b : Operand) (_ : List TRec) : MatOp :=
    ⟨0, kind, tile, mf, false, sr, h, i.x.pc, a, b, ea, p, false, [], false⟩
  match firstOrigin regs with
  | some o => (match i.tileHit tile with
    | some x => .hit x
    | none => .ok (make (some o) (.scratch 0) [] (.scratch 0) []), s)
  | none =>
    let a := (i.src 1 h).1
    let (x, s) := if sp then (i.team.scrOperand a (32768 * (mfFmt mf).2), s)
      else s.handleOperand i a [(0, (mfFmt mf).1)] [(i.regAt h sc 0).val.toNat, (i.regAt h sc 1).val.toNat]
    (joinGot (i.tileHit tile) x (.ok (.scratch 0) []) (make none), s)

/-- TLREF of a counter key (R37, R399). -/
def tlrefHit (key : Nat) : Hit := ⟨15, 0x09, 0, key, 0xFFFF⟩

/-- Fibres for which a counter has no number left (R406). -/
def State.unnumbered (s : State) (key : Nat) (fs : List Nat) : List Nat := fs.drop (2 ^ 64 - 1 - (s.timeline key).issued.toNat)

/-- Number of unstarted operations in a team's matrix queue (R239). -/
def Team.matWaiting (t : Team) : Nat := (t.matq.filter fun o => !o.started).length

/-- Fibres take numbers and enter the queue one at a time while room lasts (R239, R402), until one finds no number left (R406): the
part left over, and that fibre. -/
def State.matEnter (s : State) (i : Iss) : List MatOp → Part → Part × Option Nat × State
  | [], p => ({ p with mats := [] }, none, s)
  | o :: rest, p =>
    let room : Bool := match s.team? i.cl i.slot with
      | some t => decide (t.matWaiting < 8)
      | none => false
    if !room then ({ p with mats := o :: rest }, none, s)
    else match s.tlNumber (matCounter i.cl) with
      | none => ({ p with mats := o :: rest }, some o.fibre, s)
      | some (n, s) =>
        (s.modTeam i.cl i.slot fun t => { t with matq := t.matq ++ [{ o with num := n }], matLast := n }).matEnter i rest
          { p with nums := p.nums ++ [(o.fibre, n, o.pois)] }

/-- The cohort keeps what is left, or the instruction issues with its numbers (R402); a fibre for which none is left traps, and the
numbers taken before it stay taken (R406). -/
def State.partEnd (s : State) (i : Iss) (p : Part) (out : Option (Nat × Hit)) : State :=
  match trapOf out.toList with
  | some t => (s.modCohort i.cl i.x.co.id fun k => { k with part := none }).trapNow i t
  | none =>
  if p.mats.isEmpty && p.xfs.isEmpty then
    (s.modCohort i.cl i.x.co.id fun k => { k with part := none }).finish i
      (p.nums.map fun n => i.resV n.1 n.2.1.toNat n.2.2 0)
  else s.modCohort i.cl i.x.co.id fun k => { k with part := some p }

/-- Every guarded fibre's request, then the queue (R402). -/
def State.matIssue (s : State) (i : Iss) (ask : State → Nat → MatAsk × State) : State :=
  match i.x.co.part with
  | some p =>
    let (p, out, s) := s.matEnter i p.mats p
    s.partEnd i p (out.map fun h => (h, tlrefHit (matCounter i.cl)))
  | none =>
    let (asks, s) := i.on.foldl (fun (acc : List (Nat × MatAsk) × State) h =>
      let (a, s) := ask acc.2 h
      (acc.1 ++ [(h, a)], s)) ([], s)
    let hits := asks.filterMap fun a => match a.2 with | .hit x => some (a.1, x) | _ => none
    let none' := (s.unnumbered (matCounter i.cl) i.on).map fun h => (h, tlrefHit (matCounter i.cl))
    match trapOf (hits ++ none') with
    | some t => s.trapNow i t
    | none =>
      let waits := asks.filterMap fun a => match a.2 with | .wait va p => some (va, p) | _ => none
      if !waits.isEmpty then
        waits.foldl (fun s w => if w.2 then s.postReplay 4 0xFFFF i.team.space w.1 else s) s
      else
        let ops := asks.filterMap fun a => match a.2 with | .ok o => some o | _ => none
        let (p, out, s) := s.matEnter i ops ⟨[], [], []⟩
        s.partEnd i p (out.map fun h => (h, tlrefHit (matCounter i.cl)))

/-- MMA (R402). -/
def execMma (f : Fields) (s : State) : Out := s.issue 0x2C0 f fun s i => s.matIssue i fun s h => s.askMma i h
/-- ACCZ (R402). -/
def execAccz (f : Fields) (s : State) : Out := s.issue 0x2C1 f fun s i => s.matIssue i fun s h => s.askAccz i h
/-- ACCLD (R402). -/
def execAccld (f : Fields) (s : State) : Out :=
  s.issue 0x2C2 f fun s i => s.matIssue i fun s h => s.askAcc i .accld false h
/-- ACCST (R402). -/
def execAccst (f : Fields) (s : State) : Out :=
  s.issue 0x2C3 f fun s i => s.matIssue i fun s h => s.askAcc i .accst (f.m 4) h

/-! ### The start of an operation (R101, R102, R239) -/

/-- CL_MB.LEVEL of a leader (R103). -/
def State.mbLevel (s : State) (cl : Nat) : Int := sext 24 (s.regFld (clOff cl + 0x28) 40 24)

/-- Heads of the queues of a leader's teams: team slot and operation. -/
def Cluster.matHeads (k : Cluster) : List (Team × MatOp) :=
  k.teams.filterMap fun t => t.matq.head?.map fun o => (t, o)

/-- Which head starts next: accumulator operations by number, then MMAs with budget left, latency class before bulk, by
the charge last retired and then by number. -/
def State.matPick (s : State) (cl : Nat) : Option (Team × MatOp) :=
  let heads := (s.cl cl).matHeads
  if heads.any fun h => h.2.started then none
  else
    let acc := heads.filter fun h => h.2.kind != .mma
    let mma := if s.mbLevel cl > 0 && !(s.cl cl).removed then heads.filter fun h => h.2.kind == .mma else []
    let key (h : Team × MatOp) : Nat := (b2n h.1.bulk * 2 ^ 32 + h.1.charge) * 2 ^ 64 + h.2.num.toNat
    let num (h : Team × MatOp) : Nat := h.2.num.toNat
    match acc, mma with
    | [], l => (sortBy (fun a b => decide (key a < key b)) l).head?
    | l, _ => (sortBy (fun a b => decide (num a < num b)) l).head?

/-- MATRIX_OP_START of a pair, by its leader: nothing when the port is held or no operation may start. -/
def State.matStart (s : State) (cl : Nat) : State :=
  match s.matPick cl with
  | none => s
  | some (t, o) => s.modTeam cl t.slot fun t => { t with
      matq := t.matq.map fun x => if x.num = o.num then { x with started := true } else x }

/-- MATRIX_OP_START (R239). -/
def execMatrixOpStart (leader : Nat) (s : State) : Out := .next (if leader < 160 then s.matStart leader else s)

/-! ### Operands as they are read (R223, R224, R240 to R244) -/

/-- A row of A or a column of B: its values and its elements' bits in K order, and where poison was first met in the body, the
scales, the outliers. -/
structure MRow where
  vals  : List FV
  bits  : List Nat
  body  : Option (Nat × Nat × Nat)
  scale : Option (Nat × Nat × Nat)
  outl  : Option (Nat × Nat × Nat)
deriving DecidableEq, Repr

/-- Value of an element of an MMA format; integers are exact values too. -/
def mmaVal (rf x : Nat) : FV :=
  match rf with
  | 1 => fp16.decode x
  | 2 => bf16.decode x
  | 3 => e4m3.decode x
  | 4 => e5m2.decode x
  | 5 => e2m1.decode x
  | _ => let v := sext 8 x; .fin (decide (v < 0)) v.natAbs 0

/-- A value under a shared scale (R223). -/
def FV.scaled (v : FV) (sc : Nat) : FV :=
  if sc = 0xFF then .nan false false 0
  else match v with
    | .fin n m e => .fin n m (e + sc - 127)
    | x => x

/-- Exact sum of a body value and its outliers (R224). -/
def fvSum (xs : List FV) : FV :=
  let pos := xs.any fun x => x == .inf false
  let neg := xs.any fun x => x == .inf true
  if xs.any FV.isNan || (pos && neg) then .nan false false 0
  else if pos then .inf false
  else if neg then .inf true
  else
    let d := Dy.sum (xs.map fun x => match x with | .fin n m e => Dy.ofFin n m e | _ => ⟨0, 0⟩)
    .fin (decide (d.i < 0)) d.i.natAbs d.e

/-- What an MMA reads, each element once (R243): parts 0 and 1 are the elements of A and B, 2 and 3 their scales, 4 the
outliers of A. Scratchpad operands keep their scales behind their elements (R242). -/
def Eng.mmaRead (x : Eng) (o : MatOp) (part r k : Nat) : Elem × Eng :=
  let (rf, kk, mx) := mmaFmt o.fmt
  let bits := fmtBits rf
  let op := if part % 2 = 0 then o.a else o.b
  let isT (x : Operand) : Bool := match x with | .tensor .. => true | .scratch _ => false
  match op with
  | .scratch off =>
    let ra := kk * bits / 8
    let rows := if part % 2 = 0 then 256 else 128
    (if part < 2 then x.scrLoad (off + r * ra + k * bits / 8) (k * bits % 8) bits
      else x.scrLoad (off + rows * ra + r * (kk / 32) + k) 0 8, x)
  | .tensor rec c =>
    let row := atD c 1 0 + r
    let scales := if !mx then none else if part = 2 then o.extra[0]? else o.extra[b2n (isT o.a)]?
    if part < 2 then x.elem2 rec (atD c 0 0 + k) row
    else if part = 4 then
      (match o.extra.getLast? with
        | some l => x.elem2 l k row
        | none => ((0, none), x))
    else match scales with
      | some l => x.elem2 l (atD c 0 0 / 32 + k) row
      | none => ((127, none), x)

/-- The same as the array has it: as it was streamed, or read now. -/
def Eng.mmaGet (x : Eng) (o : MatOp) (part r k : Nat) : Elem × Eng :=
  match o.ahead.lookup (part, r, k) with
  | some e => (e, x)
  | none => x.mmaRead o part r k

/-- The outlier list of a row: entries up to the first index 0xFFFF or the capacity, and the first poison met. -/
def Eng.outliers (x : Eng) (o : MatOp) (l : TRec) (r : Nat) : List (Nat × FV) × Option (Nat × Nat × Nat) × Eng :=
  let (l, p, _, x) := (List.range (l.dims.headD 0)).foldl
    (fun (acc : List (Nat × FV) × Option (Nat × Nat × Nat) × Bool × Eng) e =>
      let (l, p, stop, x) := acc
      if stop || x.stopped then (l, p, stop, x)
      else
        let (v, x) := x.mmaGet o 4 r e
        let idx := v.1 % 2 ^ 16
        (if idx = 0xFFFF then l else l ++ [(idx, bf16.decode (v.1 / 2 ^ 16))], p <|> v.2, idx == 0xFFFF, x)) ([], none, false, x)
  (l, p, x)

/-- A whole row of A (`side` 0) or column of B (1). -/
def Eng.mmaRow (x : Eng) (o : MatOp) (side r : Nat) : MRow × Eng :=
  let (rf, kk, mx) := mmaFmt o.fmt
  let op := if side = 0 then o.a else o.b
  let k0 := match op with | .tensor _ c => atD c 0 0 | .scratch _ => 0
  let len := match op with | .tensor rec _ => rec.dims.headD 0 | .scratch _ => kk
  let (outs, po, x) := match (if o.fmt = 5 ∧ side = 0 then o.extra.getLast? else none) with
    | some l => x.outliers o l r
    | none => ([], none, x)
  (List.range kk).foldl (fun (acc : MRow × Eng) k =>
    let (m, x) := acc
    if x.stopped then acc
    else
      let (v, x) := x.mmaGet o side r k
      let (c, x) := if mx then x.mmaGet o (2 + side) r ((k0 + k) / 32 - k0 / 32) else ((127, none), x)
      let own := outs.filterMap fun y => if y.1 = k0 + k && decide (k0 + k < len) then some y.2 else none
      let body := if mx then (mmaVal rf v.1).scaled c.1 else mmaVal rf v.1
      ({ m with
          vals := m.vals ++ [if own.isEmpty then body else fvSum (body :: own)]
          bits := m.bits ++ [v.1]
          body := m.body <|> v.2
          scale := m.scale <|> c.2 }, x)) (⟨[], [], none, none, po⟩, x)

/-- Rows of A or columns of B. -/
def Eng.mmaRows (x : Eng) (o : MatOp) (side : Nat) : List MRow × Eng :=
  (List.range (if side = 0 then 256 else 128)).foldl (fun acc r =>
    let (m, x) := acc.2.mmaRow o side r
    (acc.1 ++ [m], x)) ([], x)

/-! ### Beats (R100) -/

/-- The 64-byte beats of a row: one of an INT8 row, two of every other (R242). -/
def MRow.beats (m : MRow) (bits : Nat) : List (List Byte) :=
  let bs := leBytes 128 (m.bits.foldr (fun v acc => v + acc * 2 ^ bits) 0)
  if m.bits.length * bits ≤ 512 then [bs.take 64] else [bs.take 64, bs.drop 64]

/-- Bit positions in which two beats differ; no beat is zero. -/
def beatDiff (a b : List Byte) : Nat :=
  ((List.range 64).map fun i =>
    let x := (atD a i 0 ^^^ atD b i 0).toNat
    ((List.range 8).filter (bitOf x)).length).sum

/-- Beats of one operand path in the order they are streamed, which R100 does not give (log entry 8): H, and the last beat. -/
def beatRun (key : Nat → Nat) (last : List Byte) (beats : List (List Byte)) : Nat × List Byte :=
  let l := sortBy (fun a b => decide (key a.1 < key b.1)) ((List.range beats.length).zip beats)
  l.foldl (fun acc b => (acc.1 + beatDiff acc.2 b.2, b.2)) (0, last)

/-- One K-block of 32 added to an accumulator (R235). -/
def blockStep (ints : Bool) (acc : Nat) (ps : List (Option FV)) : Nat :=
  if ps.any Option.isNone then 0x7FC00000
  else
    let xs := ps.filterMap id
    if ints then
      wrap 32 (sext 32 acc + (Dy.sum (xs.map fun x => match x with | .fin n m e => Dy.ofFin n m e | _ => ⟨0, 0⟩)).i)
    else (fp32.sumOut 0 .rne (fp32.decode acc :: .fin false 0 0 :: xs)).1

/-- A product with NaN operands kept as NaN. -/
def mmaProd (a b : FV) : Option FV := if a.isNan || b.isNan then none else a.prod b

/-- An element over all its K-blocks, `n` of them. -/
def dotBlocks (ints : Bool) : Nat → Nat → List FV → List FV → Nat
  | 0, acc, _, _ => acc
  | n + 1, acc, a, b =>
    dotBlocks ints n (blockStep ints acc ((a.take 32).zip (b.take 32) |>.map fun p => mmaProd p.1 p.2)) (a.drop 32) (b.drop 32)

/-! ### Tiles (R244, R245) -/

/-- Element (i, j) of a tile. -/
def Team.tileAt (t : Team) (tile n : Nat) : Nat := (Tab.get 0 t.tiles (tile * 32768 + n)).toNat
/-- Poison of word w of a tile. -/
def Team.tilePois (t : Team) (tile w : Nat) : Option Half := Tab.get none t.accPois (tile * 16384 + w)

/-- A tile replaced whole: words of two elements, each with its poison; a poisoned one reads 0x7FC0_0000 | origin. -/
def Team.setTile (t : Team) (tile : Nat) (ws : List (Nat × Nat × Option Half)) : Team :=
  let v (x : Nat) (p : Option Half) : Word := match p with
    | some o => 0x7FC00000#32 ||| o.setWidth 32
    | none => BitVec.ofNat 32 x
  let elems := (ws.flatMap fun w => [v w.1 w.2.2, v w.2.1 w.2.2])
  let cells := ((List.range elems.length).zip elems).filterMap fun x =>
    if x.2 = 0 then none else some (tile * 32768 + x.1, x.2)
  let pois := ((List.range ws.length).zip ws).filterMap fun x => match x.2.2.2 with
    | some o => some (tile * 16384 + x.1, some o)
    | none => none
  { t with
    tiles := t.tiles.filter (fun c => decide (c.1 < tile * 32768)) ++ cells
      ++ t.tiles.filter (fun c => decide (c.1 ≥ (tile + 1) * 32768))
    accPois := t.accPois.filter (fun c => decide (c.1 < tile * 16384)) ++ pois
      ++ t.accPois.filter (fun c => decide (c.1 ≥ (tile + 1) * 16384)) }

/-- Every word of a tile poisoned with one origin (R400). -/
def Team.poisonTile (t : Team) (tile : Nat) (o : Half) : Team := t.setTile tile (List.replicate 16384 (0, 0, some o))

/-! ### Retirement -/

/-- The words of the result of an MMA (R244, R403), origins allocated in row-major order. -/
def State.mmaWords (s : State) (cl : Nat) (t : Team) (o : MatOp) (ints : Bool) (nb : Nat) (as bs : List MRow) :
    List (Nat × Nat × Option Half) × State :=
  let zero : MRow := ⟨[], [], none, none, none⟩
  let one (acc : List (Nat × Nat × Option Half) × Memo × State) (w : Nat) : List (Nat × Nat × Option Half) × Memo × State :=
    let (out, m, s) := acc
    let a := atD as (w / 64) zero
    let b0 := atD bs (w % 64 * 2) zero
    let b1 := atD bs (w % 64 * 2 + 1) zero
    let before := if o.z then none else t.tilePois o.tile w
    let here := a.body <|> b0.body <|> b1.body <|> a.scale <|> b0.scale <|> b1.scale <|> a.outl
    let old (k : Nat) : Nat := if o.z then 0 else t.tileAt o.tile (2 * w + k)
    match before, here with
    | some g, _ => (out ++ [(0, 0, some g)], m, s)
    | none, some (cause, key, addr) =>
      let (g, m, s) := s.originFor m cl cause key addr o.pc t.space t.slot o.fibre
      (out ++ [(0, 0, some g)], m, s)
    | none, none =>
      (out ++ [(dotBlocks ints nb (old 0) a.vals b0.vals, dotBlocks ints nb (old 1) a.vals b1.vals, none)], m, s)
  let (out, _, s) := (List.range 16384).foldl one ([], [], s)
  (out, s)

/-- Outcome of an operation: it waits for a page, retires, or retires in error. -/
inductive MatEnd where
  | wait (kind va : Nat) (post : Bool)
  | done (s : State) (charge : Nat)
  | failed (s : State) (charge : Nat)
deriving DecidableEq, Repr

/-- The engine of an operation. -/
def State.eng (s : State) (cl : Nat) (t : Team) : Eng := Eng.make s cl t.slot t.space t.priv

/-- The engine that streams an MMA's operands. -/
def State.mmaEng (s : State) (cl : Nat) (t : Team) (o : MatOp) : Eng := { s.eng cl t with mma := some o.num }

/-- An MMA (R240 to R244, R403) with its charge (R100). -/
def State.doMma (s : State) (cl : Nat) (t : Team) (o : MatOp) : MatEnd :=
  match o.pois with
  | some g => .done (s.modTeam cl t.slot fun t => t.poisonTile o.tile g) 1
  | none =>
    let (rf, kk, _) := mmaFmt o.fmt
    let (as, x) := (s.mmaEng cl t o).mmaRows o 0
    let (bs, x) := x.mmaRows o 1
    match x.wait with
    | some (kind, va, p) => .wait kind va p
    | none =>
      if x.fail || o.lost then .failed x.s (1 + Config.abortCharge s.free % 97)
      else
        let (ws, s) := x.s.mmaWords cl t o (o.fmt == 6) (kk / 32) as bs
        let beats (ms : List MRow) := ms.flatMap fun m => m.beats (fmtBits rf)
        let (ha, la) := beatRun (Config.beatKey o.num.toNat) (s.cl cl).beats.1 (beats as)
        let (hb, lb) := beatRun (fun n => Config.beatKey o.num.toNat (512 + n)) (s.cl cl).beats.2 (beats bs)
        .done ((s.modTeam cl t.slot fun t => t.setTile o.tile ws).modCl cl fun k => { k with beats := (la, lb) })
          (1 + (ha + hb) / 4096)

/-- Whether an MMA reads a place of one of its parts, as far as is known (R223, R224, R240): a scale of a block of 32 that its K
indices touch, and an outlier entry once every entry of the row before it has been read and is one. -/
def MatOp.reads (o : MatOp) (part r k : Nat) : Bool :=
  let (rf, kk, mx) := mmaFmt o.fmt
  let k0 := match (if part % 2 = 0 then o.a else o.b) with | .tensor _ c => atD c 0 0 | .scratch _ => 0
  decide (r < if part % 2 = 0 then 256 else 128) && decide (fmtBits rf > 0)
    && (decide (part < 2) && decide (k < kk)
      || decide (part = 2 ∨ part = 3) && mx && decide (k ≤ (k0 + kk - 1) / 32 - k0 / 32)
      || decide (part = 4 ∧ o.fmt = 5 ∧ k < ((o.extra.getLast?.map fun l => l.dims.headD 0).getD 0))
        && (List.range k).all fun e => match o.ahead.lookup (4, r, e) with
          | some v => v.1 % 2 ^ 16 != 0xFFFF
          | none => false)

/-- Whether streaming an element must wait for a pin: its slice of the home L2 has half of its lines pinned (R243). -/
def State.pinHeld (s : State) (x : Eng) : Bool :=
  x.s.pins.any fun p => !s.pins.contains p && s.pinFull p.line

/-- An element of an MMA streamed ahead of its retirement (R243); one whose page or pin waits is streamed later. -/
def State.streamOne (s : State) (e : Nat × Nat × Nat × Nat × Nat) : State :=
  let (cl, num, part, r, k) := e
  match (s.cl cl).teams.find? fun t => t.matq.any fun o => o.num.toNat == num && o.kind == .mma with
  | none => s
  | some t =>
    match t.matq.find? fun o => o.num.toNat == num && o.kind == .mma with
    | none => s
    | some o =>
      if o.pois.isSome || !o.reads part r k || (o.ahead.lookup (part, r, k)).isSome then s
      else
        let (v, x) := (s.mmaEng cl t o).mmaRead o part r k
        if x.wait.isSome || s.pinHeld x then s
        else x.s.modTeam cl t.slot fun t => { t with matq := t.matq.map fun y =>
          if y.num = o.num then (if x.fail then { y with lost := true } else { y with ahead := ((part, r, k), v) :: y.ahead }) else y }

/-- The elements streamed in this step. -/
def State.stream (s : State) : State :=
  if s.clusters.any fun k => k.teams.any fun t => t.matq.any fun o => o.kind == .mma then
    (Config.streamed s.free).foldl State.streamOne s
  else s

/-- ACCZ (R245). -/
def State.doAccz (s : State) (cl : Nat) (t : Team) (o : MatOp) : MatEnd :=
  .done (s.modTeam cl t.slot fun t => t.setTile o.tile []) 0

/-- An element of a memory format as a tile holds it (R246). -/
def accWiden (mf x : Nat) : Nat :=
  let up (f : Fmt) : Nat := (fp32.convOut 0 (.rne, false) 0 (f.decode x)).bits
  match mf with
  | 1 => up fp16
  | 2 => up bf16
  | 3 => up e4m3
  | 4 => up e5m2
  | 6 => wrap 32 (sext 8 x)
  | _ => x

/-- An element of a tile as a memory format holds it, and the generator after it (R246). -/
def accNarrow (mf : Nat) (sr : Bool) (g : Word) (x : Nat) : Nat × Word :=
  let down (f : Fmt) : Nat × Word := let r := f.convOut 0 (.rne, sr) g (fp32.decode x); (r.bits, r.gen)
  match mf with
  | 1 => down fp16
  | 2 => down bf16
  | 3 => down e4m3
  | 4 => down e5m2
  | 6 => (wrap 8 (max (-128) (min (sext 32 x) 127)), g)
  | _ => (x, g)

/-- Element n of an ACCLD, row-major. -/
def Eng.accElem (x : Eng) (o : MatOp) (n : Nat) : Elem × Eng :=
  let size := (mfFmt o.fmt).2
  match o.a with
  | .scratch off => (x.scrLoad (off + n * size) 0 (8 * size), x)
  | .tensor r c => x.elem2 r (atD c 0 0 + n % 128) (atD c 1 0 + n / 128)

/-- ACCLD (R404): a word whose source was poisoned takes a new origin. -/
def State.doAccld (s : State) (cl : Nat) (t : Team) (o : MatOp) : MatEnd :=
  match o.pois with
  | some g => .failed (s.modTeam cl t.slot fun t => t.poisonTile o.tile g) 0
  | none =>
    let (es, x) := (List.range 32768).foldl (fun (acc : List Elem × Eng) n =>
      let (e, x) := acc.2.accElem o n
      (acc.1 ++ [e], x)) ([], s.eng cl t)
    match x.wait with
    | some (kind, va, p) => .wait kind va p
    | none =>
      if x.fail then .failed x.s 0
      else
        let one (acc : List (Nat × Nat × Option Half) × Memo × State) (w : Nat) :
            List (Nat × Nat × Option Half) × Memo × State :=
          let (out, m, s) := acc
          let e0 := atD es (2 * w) (0, none)
          let e1 := atD es (2 * w + 1) (0, none)
          match e0.2 <|> e1.2 with
          | some (cause, key, addr) =>
            let (g, m, s) := s.originFor m cl cause key addr o.pc t.space t.slot o.fibre
            (out ++ [(0, 0, some g)], m, s)
          | none => (out ++ [(accWiden o.fmt e0.1, accWiden o.fmt e1.1, none)], m, s)
        let (ws, _, s) := (List.range 16384).foldl one (([] : List (Nat × Nat × Option Half)), ([] : Memo), x.s)
        .done (s.modTeam cl t.slot fun t => t.setTile o.tile ws) 0

/-- Element n of an ACCST written; beyond the dims it is discarded. -/
def Eng.accPut (x : Eng) (o : MatOp) (n v : Nat) (pois : Bool) : Eng :=
  let size := (mfFmt o.fmt).2
  match o.a with
  | .scratch off => x.scrStore (off + n * size) 0 (8 * size) v pois
  | .tensor r c =>
    let cx := atD c 0 0 + n % 128
    let cy := atD c 1 0 + n / 128
    if r.sliceIn cx cy then
      let (va, bit) := r.locate (r.slice cx cy)
      x.store va bit (8 * size) v pois
    else x

/-- ACCST (R404): what was written before a failure stays. Nothing else uses the fibre's generator meanwhile (State.genBusy), so its
steps stand at the place of the instruction in the program (R233). -/
def State.doAccst (s : State) (cl : Nat) (t : Team) (o : MatOp) : MatEnd :=
  match o.pois with
  | some _ => .failed s 0
  | none =>
    let (x, g) := (List.range 32768).foldl (fun (acc : Eng × Word) n =>
      let (x, g) := acc
      if x.stopped then acc
      else
        let (v, g) := accNarrow o.fmt o.sr g (t.tileAt o.tile n)
        (x.accPut o n v (t.tilePois o.tile (n / 2)).isSome, g)) (s.eng cl t, (t.fibre o.fibre).gen)
    match x.wait with
    | some (kind, va, p) => .wait kind va p
    | none =>
      let s := x.commit.modFibre cl t.slot o.fibre fun y => { y with gen := g }
      if x.fail then .failed s 0 else .done s 0

/-- An MMA's charge is taken from the budget (R100). -/
def State.mbCharge (s : State) (cl slot c : Nat) : State :=
  let level := max (-(2 ^ 23)) (s.mbLevel cl - c)
  (s.setRegFld (clOff cl + 0x28) 40 24 (wrap 24 level)).modTeam cl slot fun t => { t with charge := c }

/-- The operation that holds the port of a leader. -/
def Cluster.matRunning (k : Cluster) : Option (Team × MatOp) := (k.matHeads).find? fun h => h.2.started

/-- Retirement (R247, R248): the operation leaves its queue, its lines are unpinned (R243), and the counter moves on. -/
def State.matRetired (s : State) (cl : Nat) (t : Team) (o : MatOp) (failed : Bool) (c : Nat) : State :=
  let s := s.modTeam cl t.slot fun t => { t with matq := t.matq.filter fun x => x.num != o.num }
  let s := if s.pins.isEmpty then s else { s with pins := s.pins.filter fun p => !(p.cl == cl && p.num == o.num) }
  let s := if o.kind = .mma then s.mbCharge cl t.slot c else s
  let key := matCounter cl
  (if failed then s.tlFail key o.num else s).tlRetire key o.num

/-- MATRIX_OP_RETIRE of a pair: operands are read and the operation is performed (R243 lets it); a page that waits holds
it, its request posted. -/
def State.matRetire (s : State) (cl : Nat) : State :=
  match (s.cl cl).matRunning with
  | none => s
  | some (t, o) =>
    let r := match o.kind with
      | .mma => s.doMma cl t o
      | .accz => s.doAccz cl t o
      | .accld => s.doAccld cl t o
      | .accst => s.doAccst cl t o
    match r with
    | .wait kind va p => if p then s.postReplay kind 0xFFFF t.space va else s
    | .done s c => s.matRetired cl t o false c
    | .failed s c => s.matRetired cl t o true c

/-- MATRIX_OP_RETIRE (R247). -/
def execMatrixOpRetire (leader : Nat) (s : State) : Out := .next (if leader < 160 then s.matRetire leader else s)

end Sys2Proof.Machine
end

