-- ==== Sys2Proof/Machine/Engine.lean ====
section
/-!
DEFINITION. Machine/Engine.lean: TCOPY and TFILL (R399, R400, R409 to R411) with the end of a transfer, and TLSIG, TLWAIT
and TLQRY (R412 to R415).
-/
namespace Sys2Proof.Machine

/-! ### Coordinate blocks (R399) -/

/-- The record that a handle register of a fibre names now, none while it is poisoned, stale or waiting. -/
def State.peek (s : State) (x : Ctx) (h n : Nat) : Option TRec :=
  let r := (x.fib h).reg n
  if r.pois || !r.full then none
  else match (s.record (engineAgent (s.dieOf x.c)) x.team.space x.team.priv r.val.toNat).1 with
    | .ok t => some t
    | _ => none

/-- A block of r registers from field n. -/
def blkUse (op n r : Nat) (fe : Bool) : Use := ⟨op, n, r, false, true, false, fe, true⟩

/-- The blocks of an instruction: INFO operand, field, and the handle register whose record gives the rank. -/
def xferBlocks (copy : Bool) (f : Fields) : List (Nat × Nat × Nat) :=
  if copy then
    (if f.m 1 then [] else [(3, f.sc.toNat, f.sb.toNat)])
      ++ (if f.m 0 then [] else [(4, f.ext.toNat % 256, f.sa.toNat)])
  else if f.m 0 then [] else [(3, f.sc.toNat, f.sa.toNat)]

/-- What the blocks add to the common rules of an issue. -/
def xferExtra (copy : Bool) (f : Fields) : Extra where
  uses := fun s x h => (xferBlocks copy f).filterMap fun b =>
    if b.2.1 = 255 then none
    else (s.peek x h b.2.2).map fun r => blkUse b.1 b.2.1 r.dims.length (b.1 == 3 && f.fe.getLsbD 2)
  bad := fun s x =>
    let guard (h : Nat) : Bool := ((x.fib h).pred f.gp.toNat).val != f.gn
    let long (h : Nat) : Bool := (xferBlocks copy f).any fun b => b.2.1 != 255 && (match s.peek x h b.2.2 with
      | some r => decide (b.2.1 + r.dims.length - 1 > 254)
      | none => false)
    if x.fs.any fun h => guard h && long h then some 3 else none

/-- Coordinates of a block of field n and rank r. -/
def Iss.coords (i : Iss) (h n r : Nat) : List Nat := (List.range r).map fun k => (i.regAt h n k).val.toNat

/-! ### Issue (R410) -/

/-- What a fibre of a transfer asks for. -/
inductive XferAsk where
  | ok (x : Xfer)
  | hit (x : Hit)
  | wait (va : Nat) (post : Bool)
deriving DecidableEq, Repr

/-- Number of tile elements, and bytes they take in scratchpad. -/
def shapeBytes (shape : List Nat) (fmt : Nat) : Nat := (shape.foldl (· * ·) 1 * fmtBits fmt + 7) / 8

/-- A transfer with nothing but who issued it. -/
def Iss.xferBase (i : Iss) (dst : Operand) (src : Option Operand) : Xfer :=
  ⟨BitVec.ofNat 16 i.f.imm.toNat, 0, i.cl, i.slot, i.team.space, i.team.seq, (i.team.privb, i.team.privs, i.team.fib), i.x.pc,
    dst, src, 0, [], 0, none, false, [], []⟩

/-- A handle's record, or why there is none. -/
def State.xferRec (s : State) (i : Iss) (handle : Nat) : Except XferAsk TRec × State :=
  match s.record (engineAgent (s.dieOf i.cl)) i.team.space i.team.priv handle with
  | (.ok r, s) => (.ok r, s)
  | (.stale, s) => (.error (.hit ⟨11, 0x0A, 0, handle, 0xFFFF⟩), s)
  | (.wait va p, s) => (.error (.wait va p), s)

/-- A transfer, or the trap of its scratchpad operand. -/
def scrAsk (g : OpGot) (k : Operand → Xfer) : XferAsk :=
  match g with
  | .ok a _ => .ok (k a)
  | .hit x => .hit x
  | .wait va p => .wait va p

/-- TCOPY in one fibre. -/
def State.askCopy (s : State) (i : Iss) (h : Nat) : XferAsk × State :=
  let f := i.f
  let ds := f.m 0
  let ss := f.m 1
  let dh := (i.src 1 h).1
  let sh := (i.src 2 h).1
  let blk (op : Nat) : List VReg := match i.use? op h with
    | some u => (u.regs (i.fib h)).map (i.fib h).reg
    | none => []
  match firstOrigin ([(i.fib h).reg f.sa.toNat, (i.fib h).reg f.sb.toNat] ++ blk 3 ++ blk 4) with
  | some o => (.ok { i.xferBase (.scratch 0) none with pois := some o, dead := true }, s)
  | none =>
    let dn := f.ext.toNat % 256
    let sn := f.sc.toNat
    if ds then
      (match s.xferRec i sh with
        | (.error e, s) => (e, s)
        | (.ok r, s) =>
          (scrAsk (i.team.scrOperand dh (shapeBytes r.tiles r.fmt)) fun a =>
            { i.xferBase a (some (.tensor r (i.coords h sn r.dims.length))) with shape := r.tiles, fmt := r.fmt }, s))
    else if ss then
      (match s.xferRec i dh with
        | (.error e, s) => (e, s)
        | (.ok r, s) =>
          (scrAsk (i.team.scrOperand sh (shapeBytes r.tiles r.fmt)) fun a =>
            { i.xferBase (.tensor r (i.coords h dn r.dims.length)) (some a) with shape := r.tiles, fmt := r.fmt }, s))
    else
      match s.xferRec i dh with
      | (.error (.hit x), s) => (.hit x, s)
      | (rd, s) =>
        match s.xferRec i sh with
        | (.error e, s) => (e, s)
        | (.ok r, s) =>
          (match rd with
            | .error e => e
            | .ok d =>
              if d.dims.length ≠ r.dims.length ∨ d.fmt ≠ r.fmt then .hit ⟨11, 0x0A, 0, dh, 0xFFFF⟩
              else .ok { i.xferBase (.tensor d (i.coords h dn d.dims.length))
                  (some (.tensor r (i.coords h sn r.dims.length))) with shape := r.tiles, fmt := r.fmt }, s)

/-- TFILL in one fibre. -/
def State.askFill (s : State) (i : Iss) (h : Nat) : XferAsk × State :=
  let f := i.f
  let dh := (i.src 1 h).1
  let pat := i.src 2 h
  let blk : List VReg := match i.use? 3 h with
    | some u => (u.regs (i.fib h)).map (i.fib h).reg
    | none => []
  let fill (x : Xfer) : Xfer := { x with fill := BitVec.ofNat 64 pat.1, pois := pat.2 }
  match firstOrigin ((i.fib h).reg f.sa.toNat :: blk) with
  | some o => (.ok { i.xferBase (.scratch 0) none with pois := some o, dead := true }, s)
  | none =>
    if f.m 0 then
      let n := 16 * (f.ext.toNat % 2 ^ 16 + 1)
      (scrAsk (i.team.scrOperand dh n) fun a => fill { i.xferBase a none with shape := [n], fmt := 11 }, s)
    else match s.xferRec i dh with
      | (.error e, s) => (e, s)
      | (.ok r, s) =>
        (.ok (fill { i.xferBase (.tensor r (i.coords h f.sc.toNat r.dims.length)) none with
          shape := r.tiles, fmt := r.fmt }), s)

/-- Fibres take numbers and start their transfers one at a time while fewer than 64 are in flight, until one finds no number left
(R406). The fibre of each waits beside its transfer in `nums` order: the list pairs them. -/
def State.xferEnter (s : State) (i : Iss) : List (Nat × Xfer) → Part → Part × Option Nat × State
  | [], p => ({ p with xfs := [] }, none, s)
  | (h, x) :: rest, p =>
    let here := (s.xfers.filter fun y => y.cl == i.cl).length
    let left : Part := { p with xfs := x :: rest.map (·.2) }
    if here ≥ 64 then (left, none, s)
    else match s.tlNumber x.ref.toNat with
      | none => (left, some h, s)
      | some (n, s) =>
        State.xferEnter { s with xfers := s.xfers ++ [{ x with num := n }] } i rest
          { p with nums := p.nums ++ [(h, n, x.pois)] }

/-- A TLREF an instruction may not use (R399): reserved bits, or a counter that only hardware writes. -/
def tlBad (ref : Nat) (writes : Bool) : Bool := decide (ref ≥ 2 ^ 14) || (writes && hwCounter ref)

/-- Every guarded fibre's request, then the transfers (R410). -/
def State.xferIssue (s : State) (i : Iss) (ask : State → Nat → XferAsk × State) : State :=
  let ref := i.f.imm.toNat % 2 ^ 16
  match i.x.co.part with
  | some p =>
    let (p, out, s) := s.xferEnter i ((i.on.drop p.nums.length).zip p.xfs) p
    s.partEnd i p (out.map fun h => (h, tlrefHit ref))
  | none =>
    let (asks, s) := i.on.foldl (fun (acc : List (Nat × XferAsk) × State) h =>
      let (a, s) := ask acc.2 h
      (acc.1 ++ [(h, a)], s)) ([], s)
    let hits := asks.filterMap fun a => match a.2 with | .hit x => some (a.1, x) | _ => none
    let none' := (if tlBad ref true then i.on else s.unnumbered ref i.on).map fun h => (h, tlrefHit ref)
    match trapOf (hits ++ none') with
    | some t => s.trapNow i t
    | none =>
      let waits := asks.filterMap fun a => match a.2 with | .wait va p => some (va, p) | _ => none
      if !waits.isEmpty then
        waits.foldl (fun s w => if w.2 then s.postReplay 4 0xFFFF i.team.space w.1 else s) s
      else
        let xs := asks.filterMap fun a => match a.2 with | .ok x => some (a.1, x) | _ => none
        let (p, out, s) := s.xferEnter i xs ⟨[], [], []⟩
        s.partEnd i p (out.map fun h => (h, tlrefHit ref))

/-- TCOPY (R410). -/
def execTcopy (f : Fields) (s : State) : Out :=
  s.issue 0x300 f (fun s i => s.xferIssue i fun s h => s.askCopy i h) (xferExtra true f)
/-- TFILL (R410). -/
def execTfill (f : Fields) (s : State) : Out :=
  s.issue 0x301 f (fun s i => s.xferIssue i fun s h => s.askFill i h) (xferExtra false f)

/-! ### The transfer (R410, R411) -/

/-- Tile coordinates of linear index n. -/
def tileCoords : List Nat → Nat → List Nat
  | [], _ => []
  | e :: rest, n => n % e :: tileCoords rest (n / e)

/-- Record coordinates of a tile element. -/
def atOrigin (origin t : List Nat) : List Nat := (origin.zip t).map fun x => x.1 + x.2

/-- Source element n: its bits and whether it is poisoned. -/
def Eng.copyIn (x : Eng) (t : Xfer) (n : Nat) : Elem × Eng :=
  let bits := fmtBits t.fmt
  match t.src with
  | none => ((t.fill.toNat % 2 ^ bits, t.pois.map fun _ => (0x07, 0, 0)), x)
  | some (.scratch off) => (x.scrLoad (off + n * bits / 8) (n * bits % 8) bits, x)
  | some (.tensor r o) =>
    let e := atOrigin o (tileCoords t.shape n)
    x.elem r e (r.inside e)

/-- Destination element n written; beyond the dims it is discarded. -/
def Eng.copyOut (x : Eng) (t : Xfer) (n : Nat) (v : Elem) : Eng :=
  let bits := fmtBits t.fmt
  match t.dst with
  | .scratch off => x.scrStore (off + n * bits / 8) (n * bits % 8) bits v.1 v.2.isSome
  | .tensor r o =>
    let e := atOrigin o (tileCoords t.shape n)
    if r.inside e then
      let (va, bit) := r.locate e
      x.store va bit bits v.1 v.2.isSome
    else x

/-- Elements a transfer moves: those of its shape, or the 8-byte words of a scratchpad fill. -/
def Xfer.count (t : Xfer) : Nat :=
  match t.src, t.dst with
  | none, .scratch _ => t.shape.headD 0 / 8
  | _, _ => t.shape.foldl (· * ·) 1

/-- Element n moved, unless something waits or has failed. -/
def Eng.move (x : Eng) (t : Xfer) (n : Nat) : Eng :=
  if x.stopped then x
  else
    let (v, x) := x.copyIn t n
    if x.stopped then x else x.copyOut t n v

/-- The engine of a transfer. -/
def State.xferEng (s : State) (t : Xfer) : Eng := { Eng.make s t.cl t.slot t.asid t.priv with done := t.fresh }

/-- The rest of a transfer carried out as far as its pages allow. -/
def State.xferRun (s : State) (t : Xfer) : Eng :=
  ((List.range t.count).filter fun n => !t.moved.contains n).foldl (fun x n => x.move t n) (s.xferEng t)

/-- Element n of the k-th transfer moved ahead of its retirement (R411). -/
def State.moveOne (s : State) (e : Nat × Nat) : State :=
  match s.xfers[e.1]? with
  | none => s
  | some t =>
    if t.dead || decide (t.count ≤ e.2) || t.moved.contains e.2 then s
    else
      let x := (s.xferEng t).move t e.2
      if x.stopped then s
      else
        let s := x.commit
        { s with xfers := modAt s.xfers e.1 fun y => { y with moved := e.2 :: y.moved, fresh := x.good ++ y.fresh } }

/-- The elements that transfers move in this step. -/
def State.moveSome (s : State) : State := if s.xfers.isEmpty then s else (Config.moves s.free).foldl State.moveOne s

/-- The transfer leaves the list and its number retires (R406, R408). -/
def State.xferEnd (s : State) (k : Nat) (t : Xfer) (failed : Bool) : State :=
  let s := { s with xfers := s.xfers.eraseIdx k }
  (if failed then s.tlFail t.ref.toNat t.num else s).tlRetire t.ref.toNat t.num

/-- TRANSFER_RETIRE (R411): every byte is performed; a page that waits holds it. One with a poisoned source makes no access
and fails (R400). -/
def execTransferRetire (k : Nat) (s : State) : Out :=
  .next (match s.xfers[k]? with
    | none => s
    | some t =>
      if t.dead then s.xferEnd k t true
      else
        let x := s.xferRun t
        match x.wait with
        | some (kind, va, p) => if p then s.postReplay kind 0xFFFF t.asid va else s
        | none => if x.fail then s else x.commit.xferEnd k t false)

/-- TRANSFER_ABORT (R119): a translation has failed; the bytes already written stay. -/
def execTransferAbort (k : Nat) (s : State) : Out :=
  .next (match s.xfers[k]? with
    | none => s
    | some t =>
      if t.dead then s
      else
        let x := s.xferRun t
        if x.fail then x.commit.xferEnd k t true else s)

/-! ### Signal, wait and query (R412 to R415) -/

/-- The TLREF of a fibre: bits [15:0] of SA. -/
def Iss.tlref (i : Iss) (h : Nat) : Nat := (i.src 1 h).1 % 2 ^ 16
/-- The value or n of a fibre (R412). -/
def Iss.tlval (i : Iss) (h : Nat) : Nat × Option Half := if i.f.len = .m then (i.f.imm.toNat, none) else i.src 2 h
/-- ACCESS of a TLREF in the fibres given. -/
def Iss.tlHits (i : Iss) (writes : Bool) (fs : List Nat) : List (Nat × Hit) :=
  fs.filterMap fun h => if tlBad (i.tlref h) writes then some (h, tlrefHit (i.tlref h)) else none

/-- TLSIG (R413). -/
def execTlsig (f : Fields) (s : State) : Out :=
  s.issue 0x302 f fun s i =>
    match trapOf (i.tlHits true i.on) with
    | some t => s.trapNow i t
    | none =>
      let sigs : List PhaseSig := i.on.map fun h =>
        ⟨h, BitVec.ofNat 16 (i.tlref h), BitVec.ofNat 64 (i.tlval h).1, f.m 0⟩
      ((s.account i).beginPhase i ⟨i.slot, i.on, true, false, [], sigs, [], i.x.pc⟩).goOn i.x i.stall fun _ => i.next

/-- Poison of a fibre's TLREF or n (R400). -/
def Iss.tlPois (i : Iss) (h : Nat) : Option Half := (i.src 1 h).2 <|> (i.tlval h).2

/-- TLWAIT (R414): the acquire follows the fibre's earlier loads (R156). -/
def execTlwait (f : Fields) (s : State) : Out :=
  s.issue 0x303 f fun s i =>
    let live := i.on.filter fun h => (i.tlPois h).isNone
    let met (h : Nat) : Bool := decide ((i.tlval h).1 ≤ (s.timeline (i.tlref h)).value.toNat)
    match trapOf (i.tlHits false live) with
    | some t => s.trapNow i t
    | none =>
      if !(live.all fun h => met h && !s.loading i h) then s
      else
        let (rs, _, s) := i.on.foldl (fun (acc : List Res × Memo × State) h =>
          let (rs, m, s) := acc
          let ref := i.tlref h
          let t := s.timeline ref
          match i.tlPois h with
          | some o => (rs ++ [i.resV h 0 (some o) 0], m, s)
          | none =>
            if t.errv.toNat ≤ (i.tlval h).1 then
              let (o, m, s) := s.originFor m i.cl 0x20 ref ref i.x.pc i.team.space i.slot h
              (rs ++ [i.resV h 0 (some o) 0], m, s)
            else (rs ++ [i.resV h t.value.toNat none 0], m, s)) ([], [], s)
        (if live.isEmpty then s else s.acquire i.cl).finish i rs

/-- TLQRY (R415). -/
def execTlqry (f : Fields) (s : State) : Out :=
  s.issue 0x304 f fun s i =>
    match trapOf (i.tlHits false (i.on.filter fun h => (i.src 1 h).2.isNone)) with
    | some t => s.trapNow i t
    | none =>
      let s := s.account i
      let s := i.on.foldl (fun s h =>
        let regs := i.regsAt 0 h
        match (i.src 1 h).2 with
        | some o => s.request i .arith h regs 0 (.bits (regsOf 0 regs.length (some o)) 0)
        | none => s.request i .arith h regs 0 (.tlqry (BitVec.ofNat 16 (i.tlref h)))) s
      s.goOn i.x i.stall fun _ => i.next

end Sys2Proof.Machine
end

