-- ==== Sys2Proof/Machine/Tasks.lean ====
section
/-!
DEFINITION. Machine/Tasks.lean: task control blocks and their validity (R57 to R61), acceptance and derived links (R62,
R65 to R67), completion (R63, R64), COND and LOOP nodes (R68 to R71), TASK_CTRL (R81), and TASK_DONE, COND_EVALUATE,
LOOP_ITERATION and COPY_COMPLETE.
-/
namespace Sys2Proof.Machine

/-! ### Reading a TCB (R39 step 6, R57 to R61) -/

/-- What the front end finds where it reads. -/
inductive Fe (α : Type) where
  | ok (a : α)
  | wait (va : Nat) (post : Bool)
  | bad
deriving DecidableEq, Repr

/-- Bytes the front end reads at home: a failed translation or a poisoned sector is unreadable (R39). -/
def State.feRead (s : State) (asid va n : Nat) : Fe (List Byte) × State :=
  if n = 0 then (.ok [], s)
  else if va + n > 2 ^ 48 then (.bad, s)
  else match s.engineXlate frontEnd asid va n 4 with
  | (.ok .., _, s) =>
    let (bs, p, s) := s.engineBytes frontEnd asid va n 4
    (if p then .bad else .ok bs, s)
  | (.wait p, at', s) => (.wait at' p, s)
  | (_, _, s) => (.bad, s)

/-- A list of R60. Alignment to 8 bytes and 0 for none are taken for LIST2 as R58 states them for SUCC (DESIGN CHOICE, log entry
130). -/
def State.feList (s : State) (asid va : Nat) : Fe (List Nat) × State :=
  if va = 0 then (.ok [], s)
  else if va % 8 ≠ 0 then (.bad, s)
  else match s.feRead asid va 8 with
  | (.ok h, s) =>
    let n := leVal h
    if n = 0 ∨ n > 4096 then (.bad, s)
    else (match s.feRead asid (va + 8) (8 * n) with
      | (.ok bs, s) => (.ok ((List.range n).map fun i => leVal ((bs.drop (8 * i)).take 8)), s)
      | (.wait v p, s) => (.wait v p, s)
      | (.bad, s) => (.bad, s))
  | (.wait v p, s) => (.wait v p, s)
  | (.bad, s) => (.bad, s)

/-- A region descriptor, none where it breaks R59 or R61. -/
def regionOf (w0 w1 : Nat) : Option Region :=
  let r : Region := ⟨bitOf w0 48, bitOf w0 49, fld w0 0 48, fld w1 40 24, fld w1 20 20, fld w1 0 20⟩
  if fld w0 50 14 == 0 && (r.rd || r.wr) && r.rows != 0 && r.rowb != 0 && (r.rows == 1 || decide (r.rowb ≤ r.pitch))
      && decide (r.base + (r.rows - 1) * r.pitch + r.rowb ≤ 2 ^ 48)
  then some r else none

/-- Region descriptors packed 16 bytes each. -/
def regionsOf (bs : List Byte) (n : Nat) : Option (List Region) :=
  (List.range n).foldr (fun i acc => match acc, regionOf (leVal ((bs.drop (16 * i)).take 8)) (leVal ((bs.drop (16 * i + 8)).take 8)) with
    | some l, some r => some (r :: l)
    | _, _ => none) (some [])

/-- The fields every KIND shares: KIND, EXTN, NREG, reserved and (hw) fields, SUCC and EXTP. -/
structure TcbHead where
  kind : Nat
  extn : Nat
  nreg : Nat
  succ : Nat
  extp : Nat
deriving DecidableEq, Repr

/-- The 8-byte word i of a TCB. -/
def tcbWord (bs : List Byte) (i : Nat) : Nat := leVal ((bs.drop (8 * i)).take 8)

def tcbHead (bs : List Byte) : Option TcbHead :=
  let w := tcbWord bs
  let h : TcbHead := ⟨fld (w 0) 48 2, fld (w 0) 57 7, fld (w 0) 54 3, fld (w 2) 0 48, fld (w 4) 0 48⟩
  let unused := ((bs.drop (64 + 16 * h.nreg)).all fun b => b == 0)
  if h.kind != 3 && decide (h.extn ≤ 64) && decide (h.nreg ≤ 4) && fld (w 2) 60 4 == 0 && fld (w 3) 48 16 == 0
      && fld (w 4) 48 16 == 0 && w 5 == 0 && h.succ % 8 == 0 && h.extp % 16 == 0 && (h.extn != 0 || h.extp == 0) && unused
  then some h else none

/-- A TASK's own fields (R57, R61, R225). -/
def tcbTask (bs : List Byte) : Bool :=
  let w := tcbWord bs
  let regs := fld (w 6) 38 8
  let fib := fld (w 6) 16 11
  let initf := fld (w 6) 27 11
  let scr := fld (w 6) 46 10
  let caddy := fld (w 6) 56 8
  let fpm := fld (w 7) 16 12
  decide (fld (w 6) 0 16 ≥ 1) && decide (1 ≤ initf ∧ initf ≤ fib ∧ fib ≤ 1024)
    && (regs == 255 || (regs % 8 == 0 && decide (16 ≤ regs ∧ regs ≤ 248))) && decide (fib * regs ≤ 98304)
    && decide ((fib + 191) / 192 * regs ≤ 512) && decide (scr ≤ 512) && decide (caddy * 2 ≤ scr) && decide (caddy ≤ 128)
    && decide (fld (w 7) 0 3 ≤ 4) && fld (w 0) 0 48 != 0 && fld (w 0) 0 2 == 0 && fld (w 3) 0 2 == 0
    && fld (w 7) 28 4 == 0 && fld fpm 8 2 != 3 && !bitOf fpm 11

/-- A control node's own fields (R58): bytes 24 to 31 hold nothing. -/
def tcbControl (bs : List Byte) (kind : Nat) : Bool :=
  let w := tcbWord bs
  (if kind = 1 then w 1 == 0 else decide (fld (w 1) 0 32 ≥ 1) && fld (w 1) 32 32 == 0) && w 3 == 0
    && fld (w 6) 48 16 == 0 && fld (w 6) 0 2 == 0 && fld (w 7) 48 16 == 0

/-- What is captured (R62). -/
def tcbOf (bs : List Byte) (h : TcbHead) (succ list2 : List Nat) (regions : List Region) : Tcb :=
  let w := tcbWord bs
  let ctl := h.kind != 0
  let c (n : Nat) : Nat := if ctl then 0 else n
  { kind := if h.kind = 0 then .task else if h.kind = 1 then .cond else .loop
    prio := fld (w 0) 51 3
    bulk := bitOf (w 0) 50
    code := BitVec.ofNat 48 (w 0)
    etag := BitVec.ofNat 16 (c (fld (w 1) 48 16))
    frame := c (fld (w 1) 0 48)
    join := fld (w 2) 48 12
    trapv := BitVec.ofNat 48 (c (w 3))
    caddy := c (fld (w 6) 56 8)
    scr := c (fld (w 6) 46 10)
    regs := c (fld (w 6) 38 8)
    initf := c (fld (w 6) 27 11)
    fib := c (fld (w 6) 16 11)
    teams := c (fld (w 6) 0 16)
    step := BitVec.ofNat 32 (c (fld (w 7) 32 32))
    fpm := BitVec.ofNat 12 (c (fld (w 7) 16 12))
    split := c (fld (w 7) 12 4)
    fto := c (fld (w 7) 6 6)
    strictx := !ctl && bitOf (w 7) 5
    fixed := !ctl && bitOf (w 7) 4
    w64 := !ctl && bitOf (w 7) 3
    acc := c (fld (w 7) 0 3)
    limit := if h.kind = 2 then fld (w 1) 0 32 else 0
    conda := if ctl then fld (w 6) 0 48 else 0
    succ := succ
    list2 := list2
    regions := regions }

/-- The lists and extension descriptors of a TCB whose first checks passed. -/
def State.feTcbRest (s : State) (asid : Nat) (bs : List Byte) (h : TcbHead) : Fe Tcb × State :=
  match s.feRead asid h.extp (16 * h.extn) with
  | (.wait v p, s) => (.wait v p, s)
  | (.bad, s) => (.bad, s)
  | (.ok ext, s) =>
    match s.feList asid h.succ with
    | (.wait v p, s) => (.wait v p, s)
    | (.bad, s) => (.bad, s)
    | (.ok succ, s) =>
      match s.feList asid (if h.kind = 0 then 0 else fld (tcbWord bs 7) 0 48) with
      | (.wait v p, s) => (.wait v p, s)
      | (.bad, s) => (.bad, s)
      | (.ok list2, s) =>
        (match regionsOf (bs.drop 64) h.nreg, regionsOf ext h.extn with
          | some a, some b => .ok (tcbOf bs h succ list2 (a ++ b))
          | _, _ => .bad, s)

/-- One TCB read and checked by itself (R39 step 6, R61). -/
def State.feTcb (s : State) (asid a : Nat) : Fe Tcb × State :=
  if a % 128 ≠ 0 ∨ a ≥ 2 ^ 48 ∨ s.tasks.any fun t => t.asid == asid && t.tcba == a && t.copy.isNone then (.bad, s)
  else match s.xlate frontEnd asid a 5 with
  | (.wait p, s) => (.wait a p, s)
  | (.page, s) => (.bad, s)
  | (.access, s) => (.bad, s)
  | (.ok .., s) =>
    match s.feRead asid a 128 with
    | (.wait v p, s) => (.wait v p, s)
    | (.bad, s) => (.bad, s)
    | (.ok bs, s) =>
      match tcbHead bs with
      | none => (.bad, s)
      | some h => if (if h.kind = 0 then tcbTask bs else tcbControl bs h.kind) then s.feTcbRest asid bs h else (.bad, s)

/-- The TCBs of an array, in order. -/
def State.feTcbs (s : State) (asid : Nat) : List Nat → Fe (List Tcb) × State
  | [] => (.ok [], s)
  | a :: rest =>
    match s.feTcb asid a with
    | (.wait v p, s) => (.wait v p, s)
    | (.bad, s) => (.bad, s)
    | (.ok t, s) =>
      match s.feTcbs asid rest with
      | (.ok ts, s) => (.ok (t :: ts), s)
      | x => x

/-- A TCB for LAUNCH_TASK or TSPAWN (R61). -/
def launchable (t : Tcb) : Bool := t.kind == .task && t.succ.isEmpty && t.join == 0

/-- The rules of R61 over an array. -/
def graphOk (as : List Nat) (ts : List Tcb) : Bool :=
  let n := as.length
  let ix (a : Nat) : Option Nat := as.findIdx? (· == a)
  let at' (i : Nat) : Option Tcb := ts[i]?
  let lists (i : Nat) : List (List Nat) := match at' i with
    | some t => [t.succ, t.list2]
    | none => []
  let bodyOf (a : Nat) : List Nat := (List.range n).filter fun i => match at' i with
    | some t => t.kind == .loop && t.list2.contains a
    | none => false
  let names := (List.range n).all fun i => (lists i).all fun l => l.all fun a => match ix a with
    | some j => decide (i < j)
    | none => false
  let joins := (List.range n).all fun i =>
    let a := atD as i 0
    let c := ((List.range n).map fun j => ((lists j).filter fun l => l.contains a).length).sum
    match at' i with
    | some t => t.join == c
    | none => false
  let sets := ts.all fun t => t.kind != .cond || t.succ.all fun a => !t.list2.contains a
  let bodies := as.all fun a => decide ((bodyOf a).length ≤ 1)
  let inside := (List.range n).all fun i =>
    match bodyOf (atD as i 0), at' i with
    | b :: _, some t => t.kind != .loop && (t.succ ++ t.list2).all fun a => bodyOf a == [b]
    | _, _ => true
  decide (as.eraseDups.length = n) && names && joins && sets && bodies && inside

/-! ### Acceptance (R62, R65 to R67) -/

/-- Whether two regions share a byte. -/
def Region.meets (x y : Region) : Bool :=
  (List.range x.rows).any fun i => (List.range y.rows).any fun j =>
    decide (x.base + i * x.pitch < y.base + j * y.pitch + y.rowb ∧ y.base + j * y.pitch < x.base + i * x.pitch + x.rowb)

/-- Whether an earlier task's regions conflict with a later one's (R66). -/
def conflict (e n : List Region) : Bool := e.any fun x => n.any fun y => (x.wr || y.wr) && x.meets y

/-- Tasks in the window (R65: 4,096). -/
def State.windowFree (s : State) : Nat := 4096 - s.tasks.length

/-- The LOOP of a body task is not finished: the body task still stands before later tasks (R70). -/
def State.inOpenBody (s : State) (t : Task) : Bool :=
  match t.body with
  | some l => (match s.task? l with | some x => x.open | none => false)
  | none => false

/-- Whether E gains N as a successor (R66, R70): lower SEQ, the same space, a conflict, and E incomplete or, for a body task
seen from outside its LOOP, in a LOOP that is not finished. -/
def State.linked (s : State) (e n : Task) : Bool :=
  e.asid == n.asid && decide (e.seq < n.seq) && n.body != some e.seq
    && (e.open || (e.body != n.body && s.inOpenBody e)) && conflict e.tcb.regions n.tcb.regions

/-- The links to a task derived, and its count set: JOIN and one for each (R66, R67, R69). -/
def State.derive (s : State) (n : Task) : State :=
  let c := (s.tasks.filter fun e => s.linked e n).length
  { s with tasks := s.tasks.map fun e =>
      let others := e.links.filter (· != n.seq)
      let e := if s.linked e n then { e with links := others ++ [n.seq] } else if e.links.contains n.seq then { e with links := others } else e
      if e.seq = n.seq then { e with count := n.tcb.join + c } else e }

/-- A task enters the window (R62, R65 to R67): links from earlier tasks that conflict, its count, and SEQ written. -/
def State.enrol (s : State) (t : Task) : State :=
  let s := State.derive { s with tasks := s.tasks ++ [t] } t
  match t.copy with
  | some _ => s
  | none => (s.fePut t.asid (t.tcba + 40) (leBytes 8 t.seq)).2

/-- A new entry. -/
def Task.make (seq asid tcba : Nat) (tcb : Tcb) (copy : Option CopyJob) (queue : Option Nat) (head : Word)
    (succ list2 : List Nat) (body : Option Nat) : Task :=
  ⟨seq, asid, tcba, tcb, copy, queue, head, .pending, 0, [], succ, list2, body, 0, 0, 0, 0, 0, false, none, false⟩

/-- READY, its ready time now (R72). -/
def State.taskReady (s : State) (seq : Nat) : State :=
  (s.modTask seq fun t => { t with readyAt := s.ptime }).enterState seq .ready

/-- New entries enter PENDING or READY (R63, R67). -/
def State.launch (s : State) (seqs : List Nat) : State :=
  seqs.foldl (fun s q => match s.task? q with
    | some t => if t.count = 0 then s.taskReady q else s.reportTask q none
    | none => s) s

/-- An array of TCBs accepted as one act (R65): seqs of its tasks. -/
def State.acceptTasks (s : State) (asid : Nat) (as : List Nat) (ts : List Tcb) (queue : Option Nat) (head : Word) :
    List Nat × State :=
  let base := s.seqNext
  let seqOf (a : Nat) : List Nat := ((as.findIdx? (· == a)).map (base + ·)).toList
  let seqs := (List.range as.length).map (base + ·)
  let body (i : Nat) : Option Nat :=
    ((List.range as.length).find? fun j => match ts[j]? with
      | some t => t.kind == .loop && t.list2.contains (atD as i 0)
      | none => false).map (base + ·)
  let s := { s with seqNext := base + as.length }
  let s := ((List.range as.length).zip (as.zip ts)).foldl (fun s x =>
    let (i, a, t) := x
    s.enrol (Task.make (base + i) asid a t none queue head (t.succ.flatMap seqOf).eraseDups
      (t.list2.flatMap seqOf).eraseDups (body i))) s
  (seqs, s.launch seqs)

/-- The TCB that stands for a COPY packet (R40): one read and one write region, and the queue's class and priority. -/
def copyTcb (prio : Nat) (bulk : Bool) (j : CopyJob) : Tcb where
  kind := .copy
  prio := prio
  bulk := bulk
  code := 0
  etag := 0
  frame := 0
  join := 0
  trapv := 0
  caddy := 0
  scr := 0
  regs := 0
  initf := 0
  fib := 0
  teams := 0
  step := 0
  fpm := 0
  split := 0
  fto := 0
  strictx := false
  fixed := false
  w64 := false
  acc := 0
  limit := 0
  conda := 0
  succ := []
  list2 := []
  regions := [⟨true, false, j.src, 0, 1, j.len⟩, ⟨false, true, j.dst, 0, 1, j.len⟩]

/-- A COPY accepted. -/
def State.acceptCopy (s : State) (asid prio : Nat) (bulk : Bool) (queue : Nat) (head : Word) (j : CopyJob) : Nat × State :=
  let n := s.seqNext
  let s := { s with seqNext := n + 1 }
  let s := s.enrol (Task.make n asid 0 (copyTcb prio bulk j) (some j) (some queue) head [] [] none)
  (n, s.launch [n])

/-! ### Completion (R63, R64, R67 to R70) -/

/-- A predecessor of a task is complete. -/
def State.arm (s : State) (seq : Nat) : State :=
  let s := s.modTask seq fun t => { t with count := t.count - 1 }
  match s.task? seq with
  | some t => if t.state = .pending ∧ t.count = 0 then s.taskReady seq else s
  | none => s

/-- Tasks of a LOOP's body. -/
def State.bodyOf (s : State) (seq : Nat) : List Task := s.tasks.filter fun t => t.body == some seq

/-- The links of a complete task that are released now: those of a body task to tasks outside its body wait (R70). -/
def State.linksNow (s : State) (t : Task) : List Nat :=
  match t.body with
  | some l => t.links.filter fun n => match s.task? n with
    | some x => x.body == some l
    | none => false
  | none => t.links

/-- The links held back until a LOOP is complete. -/
def State.linksHeld (s : State) (seq : Nat) : List Nat :=
  (s.bodyOf seq).flatMap fun b => b.links.filter fun n => match s.task? n with
    | some x => x.body != some seq
    | none => false

/-- A task becomes complete, its successors among `next` and its links are notified, and it leaves the window with its
body; a body task stays until its LOOP leaves. -/
def State.complete (s : State) (seq : Nat) (st : TaskState) (next : List Nat) : State :=
  match s.task? seq with
  | none => s
  | some t =>
    if t.state.complete then s
    else
      let s := s.enterState seq st
      let body := (s.bodyOf seq).map (·.seq)
      -- body tasks that never ran are skipped with their LOOP
      let s := body.foldl (fun s b => match s.task? b with
        | some x => if x.state.complete then s else s.enterState b .skipped
        | none => s) s
      let s := (next ++ s.linksNow t ++ s.linksHeld seq).foldl State.arm s
      if t.body.isSome then s
      else { s with tasks := s.tasks.filter fun x => x.seq != seq && !body.contains x.seq }

/-- Every explicit successor of a task: both sets of a COND, the exit set of a LOOP, SUCC of a TASK. -/
def Task.next (t : Task) : List Nat := if t.tcb.kind = .cond then t.succ ++ t.list2 else t.succ

/-- SKIPPED, whatever its other predecessors; its successors are notified as for completion (R68). -/
def State.skip (s : State) (seq : Nat) : State :=
  match s.task? seq with
  | some t => if t.state = .pending then s.complete seq .skipped t.next else s
  | none => s

/-- Whether a packet's tasks are all complete: gone from the window, or in a complete state. -/
def State.allDone (s : State) (seqs : List Nat) : Bool :=
  seqs.all fun q => match s.task? q with
    | some t => t.state.complete
    | none => true

/-- Everything a task of a space has written is performed at home and applied by every die (R64). -/
def State.releaseSpace (s : State) (asid : Nat) : State := (s.writebackAll (fun _ a => a == asid) (· == asid)).replAll

/-- Whether writes of a space cannot all go home yet (R16, R21, R29). -/
def State.spaceHeld (s : State) (asid : Nat) : Bool :=
  (List.range 161).any (fun c => s.unflushed c fun _ a => a == asid) || s.partialsHeld (· == asid)

/-! ### TASK_DONE (R64) -/

/-- Whether a task has no team and no transfer left: its operations have completed and its resources are free (R64, R249). -/
def State.taskGone (s : State) (t : Task) : Bool :=
  (s.teamsOf t.seq).isEmpty && !(s.saved.any fun w => w.team.seq == t.seq) && !(s.xfers.any fun x => x.seq == t.seq)

/-- Whether a task may be DONE: it runs, or RELEASE has been applied to it (R81), and all its teams have come and gone. -/
def State.taskOver (s : State) (t : Task) : Bool :=
  ((t.tcb.kind == .task && t.state == .running && decide (t.placed ≥ t.tcb.teams) && t.fault.isNone)
    || (t.state == .faulted && t.freed)) && s.taskGone t && !s.spaceHeld t.asid

/-- TASK_DONE. -/
def execTaskDone (seq : Nat) (s : State) : Out :=
  .next (match s.task? seq with
    | none => s
    | some t => if s.taskOver t then (s.releaseSpace t.asid).complete seq .done t.next else s)

/-! ### Control nodes (R68 to R71) -/

/-- The condition word of a control node: its value, a fault's cause, or a wait. -/
inductive CondGot where
  | ok (v : Nat)
  | fault (cause : Nat)
  | wait (post : Bool)
deriving DecidableEq, Repr

def State.condRead (s : State) (asid va : Nat) : CondGot × State :=
  match s.xlate frontEnd asid va 4 with
  | (.wait p, s) => (.wait p, s)
  | (.page, s) => (.fault 0x08, s)
  | (.access, s) => (.fault 0x09, s)
  | (.ok .., s) =>
    let (bs, p, s) := s.engineBytes frontEnd asid va 4 4
    (if p then .fault 0x07 else .ok (leVal bs), s)

/-- COND_EVALUATE (R68, R71). -/
def execCondEvaluate (seq : Nat) (s : State) : Out :=
  .next (match s.task? seq with
    | none => s
    | some t =>
      if t.tcb.kind ≠ .cond ∨ t.state ≠ .ready then s
      else match s.condRead t.asid t.tcb.conda with
        | (.wait p, s) => if p then s.postReplay 4 0xFFFF t.asid t.tcb.conda else s
        | (.fault c, s) => (s.enterState seq .running).faultNow seq c 0
        | (.ok v, s) =>
          let s := s.enterState seq .running
          let (run, skip) := if v ≠ 0 then (t.succ, t.list2) else (t.list2, t.succ)
          (skip.foldl State.skip (run.foldl State.arm s)).complete seq .done [])

/-- Body tasks re-armed one by one in body-list order (R69): PENDING, with JOIN and the links from the tasks before them that
are incomplete at that moment. -/
def State.rearm (s : State) (t : Task) : State :=
  t.list2.foldl (fun s b =>
    let s := (s.modTask b fun x => { x with placed := 0, iter := 0, armed := false }).enterState b .pending
    match s.task? b with
    | some n => s.derive n
    | none => s) s

/-- The next turn of a LOOP whose condition was read: evaluation makes a READY one RUNNING (R63). -/
def State.loopTurn (s : State) (t : Task) (v : Nat) : State :=
  let s := if t.state = .ready then s.enterState t.seq .running else s
  if v = 0 ∨ t.iter = t.tcb.limit then s.complete t.seq .done t.succ
  else
    let s := s.modTask t.seq fun x => { x with iter := t.iter + 1, armed := true }
    let s := s.reportTask t.seq none
    let s := if t.iter ≥ 1 then s.rearm t else s
    t.list2.foldl State.arm s

/-- LOOP_ITERATION (R69, R71): once the LOOP is READY, or every body task of its iteration is DONE or SKIPPED. -/
def execLoopIteration (seq : Nat) (s : State) : Out :=
  .next (match s.task? seq with
    | none => s
    | some t =>
      let bodyDone := (s.bodyOf seq).all fun b => b.state.complete
      if t.tcb.kind ≠ .loop ∨ !(t.state == .ready || t.state == .running) ∨ (t.armed && !bodyDone) then s
      else match s.condRead t.asid t.tcb.conda with
        | (.wait p, s) => if p then s.postReplay 4 0xFFFF t.asid t.tcb.conda else s
        | (.fault c, s) => (s.enterState seq .running).faultNow seq c 0
        | (.ok v, s) => s.loopTurn t v)

/-! ### COPY (R40) -/

/-- The signal of a COPY (R406, R408): not made on the counters only hardware writes (R405). -/
def State.copySignal (s : State) (q : Nat) (j : CopyJob) : State :=
  if j.sig = 0 ∨ hwCounter j.ref.toNat then s
  else { s with sigs := s.sigs ++ [(j.ref.toNat, j.sig, [q])] }.tlDrain

/-- One byte moved, with its sector's poison; a page that waits or fails, or a link that is down (R21), ends the run. Every source
byte is read before any byte is written, so that a COPY whose ranges overlap copies the source as it stood, of which R40 says
nothing (DESIGN CHOICE, log entry 66). -/
def Eng.copyByte (x : Eng) (j : CopyJob) (k : Nat) : Eng :=
  if x.stopped then x
  else
    let (v, x) := x.load (j.src + k) 0 8
    if x.stopped then x
    else if v.2.any fun p => p.1 == 0x09 then { x with fail := true }
    else x.store (j.dst + k) 0 8 v.1 v.2.isSome

/-- Whether an earlier packet of its queue has still to signal a COPY's counter: a TL_SIGNAL, or a COPY that neither is complete nor
has faulted (R406). -/
def State.copyBehind (s : State) (seq q key : Nat) : Bool :=
  let own := (s.pkts.find? fun p => p.wait == .tasks [seq]).map (·.ord)
  s.pkts.any fun p => p.q == q && (match own with | some n => decide (p.ord < n) | none => false) && (match p.wait with
    | .signal ref _ => ref.toNat == key
    | .tasks [n] => (match s.task? n with
      | some t => !t.state.complete && t.state != .faulted
          && (match t.copy with | some j => j.sig != 0 && j.ref.toNat == key | none => false)
      | none => false)
    | _ => false)

/-- Whether the signal of a COPY must still wait behind earlier ones of its queue to the counter (R406). -/
def State.copyOrder (s : State) (seq q : Nat) (j : CopyJob) : Bool :=
  j.sig != 0 && !hwCounter j.ref.toNat
    && (s.sigs.any (fun x => x.1 == j.ref.toNat && x.2.2 == [q]) || s.copyBehind seq q j.ref.toNat)

/-- Whether the signal of a COPY must still wait: for numbers, or behind earlier ones of its queue (R406). -/
def State.copyHeld (s : State) (seq q : Nat) (j : CopyJob) : Bool :=
  s.copyOrder seq q j || (j.sig != 0 && !hwCounter j.ref.toNat && s.tlBlocked j.ref.toNat j.sig)

/-- The bytes of a COPY whose pages allow it are written; then the signal, once no number holds it back. -/
def State.copyDone (s : State) (seq q : Nat) (j : CopyJob) : State :=
  if s.copyHeld seq q j then s.modTask seq fun t => { t with state := .running }
  else (s.copySignal q j).complete seq .done []

/-- A COPY whose translation failed: the bytes written stay, the task faults, and its counter enters the error state, the
signal still made (R40, R408). -/
def State.copyFail (s : State) (seq asid q : Nat) (j : CopyJob) : State :=
  let cause := if (s.xlate frontEnd asid j.src 4).1 = .page then 0x08 else 0x09
  let s := s.faultNow seq cause 0
  if j.sig = 0 then s else (s.tlFail j.ref.toNat j.sig).copySignal q j

/-- COPY_COMPLETE (R38, R40). -/
def execCopyComplete (seq : Nat) (s : State) : Out :=
  .next (match s.task? seq with
    | none => s
    | some t =>
      match t.copy, t.state with
      | some j, .running => if s.copyHeld seq (t.queue.getD 0) j then s else s.copyDone seq (t.queue.getD 0) j
      | some j, .ready =>
        let x := (List.range j.len).foldl (fun x k => x.copyByte j k) (Eng.make s 0 64 t.asid (0, 0, 0))
        (match x.wait with
          | some (kind, va, p) => if p then s.postReplay kind 0xFFFF t.asid va else s
          | none =>
            if !x.fail then x.commit.copyDone seq (t.queue.getD 0) j
            else if s.copyOrder seq (t.queue.getD 0) j then s else x.commit.copyFail seq t.asid (t.queue.getD 0) j)
      | _, _ => s)

/-! ### TASK_CTRL (R81) -/

/-- The task a TASK_CTRL names: one that is FAULTED, and not released already. -/
def State.ctrlTarget (s : State) (asid a : Nat) : Option Task :=
  s.tasks.find? fun t => t.asid == asid && t.tcba == a && t.copy.isNone && t.state == .faulted && !t.freed

/-- RESUME. -/
def State.ctrlResume (s : State) (t : Task) : State :=
  (s.modTask t.seq fun x => { x with fcause := 0, fteam := 0, placed := 0 }).taskReady t.seq

/-- RELEASE: the task is DONE at once if nothing of it is left, else when its operations have retired (R64, R249); until then
it stays FAULTED, which R81 does not say (log entry 117). -/
def State.ctrlRelease (s : State) (t : Task) : State :=
  if s.taskGone t && !s.spaceHeld t.asid then (s.releaseSpace t.asid).complete t.seq .done t.next
  else s.modTask t.seq fun x => { x with freed := true }

/-- Tasks one link away from a task: successors, the LOOP of a body task, the body of a LOOP (R81). -/
def State.reach1 (s : State) (seq : Nat) : List Nat :=
  match s.task? seq with
  | none => []
  | some t => t.links ++ t.next ++ t.body.toList ++ (if t.tcb.kind = .loop then (s.bodyOf seq).map (·.seq) else [])

/-- The tasks reachable from some, within n links: through complete ones too, since a complete body task still holds back the tasks
after its LOOP (R70, R81). -/
def State.reachable (s : State) : Nat → List Nat → List Nat
  | 0, l => l
  | n + 1, l =>
    let more := (l.flatMap s.reach1).filter fun q => (s.task? q).isSome
    s.reachable n ((l ++ more).eraseDups)

/-- CANCEL_CHAIN: the tasks reached that are not already complete. -/
def State.ctrlCancel (s : State) (t : Task) : State :=
  let set := (s.reachable s.tasks.length [t.seq]).filter fun q => match s.task? q with
    | some t => !t.state.complete
    | none => false
  let s := set.foldl (fun s q =>
    let s := (s.teamsOf q).foldl (fun s p => s.discardTeam p.1 p.2) s
    { s with saved := s.saved.filter fun w => w.team.seq != q }) s
  let s := (sortNat set).foldl (fun s q => (s.modTask q fun x => { x with fault := none }).enterState q .cancelled) s
  let loops := (s.tasks.filter fun (x : Task) => set.contains x.seq && x.tcb.kind == .loop).map (·.seq)
  { s with tasks := s.tasks.filter fun (x : Task) => !(set.contains x.seq && x.body.isNone)
      && !(match x.body with | some l => loops.contains l | none => false) }

end Sys2Proof.Machine
end

