-- ==== Sys2Proof/Machine/TaskOps.lean ====
section
/-!
DEFINITION. Machine/TaskOps.lean: group D, tasks and deadlines (R416 to R419).
-/
namespace Sys2Proof.Machine

/-- The queue of the task that a fibre runs for, which its spawned tasks and steps inherit (R43, R78). -/
def State.taskQueue (s : State) (i : Iss) : Option Nat := (s.task? i.team.seq).bind (·.queue)

/-- The space a step of device code belongs to; the management core's steps belong to none (R43). -/
def Iss.stepSpace (i : Iss) : Option Nat := if i.x.isMc then none else some i.team.asid

/-- One fibre's TSPAWN (R78, R417): status 0 accepted, 1 window full, 2 invalid. The management core runs no task and so
names no space, and a space being retired takes no new task (R107): an invalid TCB. An invalid TCB answers 2 though the window is full
too, of which R78 and R417 do not say which comes first (DESIGN CHOICE, log entry 100). -/
def State.spawnOne (s : State) (i : Iss) (h : Nat) : Nat × State :=
  let a := (i.src 1 h).1
  if i.x.isMc || !(s.space i.team.asid).live then (2, s)
  else match s.feTcb i.team.asid a with
    | (.ok t, s) =>
      if !launchable t then (2, s)
      else if s.windowFree = 0 then (1, s)
      else (0, (s.acceptTasks i.team.asid [a] [t] (s.taskQueue i) 0).2)
    | (_, s) => (2, s)

/-- The pages that hold a TSPAWN's TCB reads. -/
def State.spawnWaits (s : State) (i : Iss) : List (Nat × Bool) :=
  if i.x.isMc || !(s.space i.team.asid).live then []
  else i.on.filterMap fun h => match (s.feTcb i.team.asid (i.src 1 h).1).1 with
    | .wait va p => some (va, p)
    | _ => none

/-- TSPAWN (R417): the release comes before the TCBs are read. -/
def execTspawn (f : Fields) (s : State) : Out :=
  s.issue 0x340 f fun s i =>
    if !s.mayRelease i then s
    else
      let s := if i.on.isEmpty then s else s.release i.cl
      let waits := s.spawnWaits i
      if !waits.isEmpty then
        waits.foldl (fun s w => if w.2 then s.postReplay 4 0xFFFF i.team.asid w.1 else s) s
      else
        let (rs, s) := i.on.foldl (fun (acc : List Res × State) h =>
          let (v, s) := acc.2.spawnOne i h
          (acc.1 ++ [i.resV h v none 0], s)) ([], s)
        s.finish i rs

/-- DLSTEP (R90, R418). -/
def execDlstep (f : Fields) (s : State) : Out :=
  s.issue 0x341 f fun s i =>
    let (rs, s) := i.on.foldl (fun (acc : List Res × State) h =>
      let (v, s) := acc.2.declareStep true (BitVec.ofNat 32 (i.src 1 h).1) (BitVec.ofNat 16 f.imm.toNat)
        (BitVec.ofNat 64 (i.src 3 h).1) (BitVec.ofNat 64 (i.src 2 h).1) f.ext (acc.2.taskQueue i) i.stepSpace
      (acc.1 ++ [i.resV h v none 0], s)) ([], s)
    s.finish i rs

/-- The active step with an id that a fibre may name: one of its own space (R418). -/
def State.stepOf (s : State) (i : Iss) (id : Nat) : Option Step :=
  s.steps.find? fun p => p.id.toNat == id && p.asid == i.stepSpace

/-- DLEND (R418). -/
def execDlend (f : Fields) (s : State) : Out :=
  s.issue 0x342 f fun s i =>
    let (rs, s) := i.on.foldl (fun (acc : List Res × State) h =>
      let (rs, s) := (acc.1, acc.2.lateSteps fun _ => true)
      match s.stepOf i (i.src 1 h).1 with
      | some p => (rs ++ [i.resV h 0 none 0], { s with steps := s.steps.filter fun x => x.slot != p.slot })
      | none => (rs ++ [i.resV h 1 none 0], s)) ([], s)
    s.finish i rs

/-- The four words of a DLQRY (R419). -/
def Step.query : Option Step → Nat
  | none => (2 ^ 64 - 1) + 0xFFFFFFFF * 2 ^ 96
  | some p => p.proj.toNat + (if p.risk then 2 else 1) * 2 ^ 64 + p.slot * 2 ^ 96

/-- DLQRY (R419). -/
def execDlqry (f : Fields) (s : State) : Out :=
  s.issue 0x343 f fun s i => s.finish i (i.on.map fun h =>
    let a := i.src 1 h
    i.resV h (Step.query (s.stepOf i a.1)) a.2 0)

end Sys2Proof.Machine
end

