-- ==== Sys2Proof/Machine/System.lean ====
section
/-!
DEFINITION. Machine/System.lean: group E, system (R420 to R426), and group F (R289).
-/
namespace Sys2Proof.Machine

/-- NOP (R422). -/
def execNop (f : Fields) (s : State) : Out := s.issue 0x380 f fun s i => s.finish i []

/-! ### System registers (R420, R421) -/

/-- TEAMCFG (R177). -/
def Team.cfg (t : Team) : Nat :=
  t.fib + b2n t.w64 * 2 ^ 14 + b2n t.fixed * 2 ^ 15 + b2n t.strictx * 2 ^ 16 + t.fto.toNat * 2 ^ 17
    + t.split.toNat * 2 ^ 23 + t.hls * 2 ^ 29

/-- A system register as a fibre reads it (R267, R420). -/
def State.sysRead (s : State) (t : Team) (f : Fibre) (n : Nat) : Nat :=
  match n with
  | 0 => t.fpmode.toNat
  | 1 => t.fpstat.toNat
  | 2 => t.cfg
  | 3 => t.privb.toNat
  | 4 => t.privs.toNat
  | 5 => f.gen.toNat
  | 0x80 => s.core.root.toNat
  | _ => match f.trec with
    | some r => atD r.words (n - 8) 0
    | none => 0

/-- SRD (R420). -/
def execSrd (f : Fields) (s : State) : Out :=
  s.issue 0x381 f (fun s i => s.finish i (i.on.map fun h =>
    i.resV h (s.sysRead i.team (i.fib h) f.sa.toNat) none 0)) (if f.sa.toNat = 5 then genExtra else {})

/-- FPMODE as written: a reserved APX keeps the field (R6, R225). -/
def fpmodeWrite (old : Word) (v : Nat) : Word :=
  let v := v % 2 ^ 11
  BitVec.ofNat 32 (if fld v 8 2 = 3 then setFld v 8 2 (fmApx old) else v)

/-- Whether a fibre of the team holds a spilled return-stack entry (R315). -/
def Team.spilled (t : Team) : Bool := t.fibres.any fun f => f.live && f.rssp != 0

/-- A team register written (R177, R225, R226, R315, R421). -/
def Team.sysWrite (t : Team) (n v : Nat) : Team :=
  match n with
  | 0 => { t with fpmode := fpmodeWrite t.fpmode v }
  | 1 => { t with fpstat := t.fpstat &&& ~~~(BitVec.ofNat 32 (v % 2 ^ 7)) }
  | 2 => { t with strictx := bitOf v 16, fto := BitVec.ofNat 6 (fld v 17 6), split := BitVec.ofNat 4 (fld v 23 4) }
  | 3 => if t.spilled || v % 256 != 0 || decide (v ≥ 2 ^ 48) then t else { t with privb := BitVec.ofNat 64 v }
  | 4 =>
    let ok := v == 0 || (v % 1024 == 0 && decide (2048 ≤ v ∧ v ≤ 2 ^ 24))
    if t.spilled || !ok then t else { t with privs := BitVec.ofNat 32 v }
  | _ => t

/-- The writes of cycles before `now` (of all, with none) take effect (R177, R227, R315): of one cycle's the lower slice's
last, and a flag set in the cycle stays set. -/
def Team.sysSettle (t : Team) (now : Option Nat) : Team :=
  let due (w : Nat × Nat × Nat × DWord) : Bool := match now with | some c => decide (w.1 < c) | none => true
  let ws := sortBy (fun (a b : Nat × Nat × Nat × DWord) => decide (a.1 < b.1 ∨ (a.1 = b.1 ∧ b.2.1 < a.2.1))) (t.sysw.filter due)
  let one (t : Team) (w : Nat × Nat × Nat × DWord) : Team :=
    t.sysWrite w.2.2.1 (if w.2.2.1 = 1 ∧ t.fpset.1 = w.1 then w.2.2.2 &&& ~~~(t.fpset.2.setWidth 64) else w.2.2.2).toNat
  { ws.foldl one t with sysw := t.sysw.filter fun w => !due w }

/-- One fibre's write: to the team's registers it is in force from the next cycle (R177, R227). -/
def State.sysWriteOne (s : State) (i : Iss) (n h v : Nat) : State :=
  match n with
  | 5 => s.modFibre i.cl i.slot h fun y => { y with gen := if v % 2 ^ 32 = 0 then 1 else BitVec.ofNat 32 v }
  | 0x80 => { s with core := { s.core with root := BitVec.ofNat 64 (fld v 12 40 * 4096) } }
  | _ => s.modTeam i.cl i.slot fun t => { t with
      sysw := t.sysw ++ [((s.cl i.cl).cycle, i.x.co.slice, n, BitVec.ofNat 64 v)] }

/-- SWR (R421). -/
def execSwr (f : Fields) (s : State) : Out :=
  s.issue 0x382 f (fun s i =>
    (i.on.foldl (fun s h => s.sysWriteOne i f.sa.toNat h (i.src 2 h).1) s).finish i [])
    (if f.sa.toNat = 5 then genExtra else {})

/-! ### Traps and poison (R269, R422) -/

/-- TRAP (R422): SOFT in each guarded fibre. -/
def execTrap (f : Fields) (s : State) : Out :=
  s.issue 0x383 f fun s i =>
    if i.on.isEmpty then s.finish i [] else s.trapNow i ⟨0x0C, 0, i.on.map fun h => (h, 0), 0xFFFF⟩

/-- TRET on the management core (R422): to MC_EPC, IE set; results pending are written and distances begin anew. -/
def State.mcReturn (s : State) (i : Iss) (next : Bool) : State :=
  let iw := (s.homeByte (s.sramPa ((s.reg 0x210).toNat + 80))).toNat
  let len := if next then (match iw % 4 with | 1 => 12 | 2 => 16 | _ => 8) else 0
  let pc := BitVec.ofNat 48 ((s.reg 0x218).toNat + len)
  let s := (((s.account i).land i.cl i.x.co.id none).unlatchAll i.cl i.x.co.id).setIe true
  let s := s.modFibre i.cl i.slot 0 fun y => { y with pc := pc }
  s.modCohort i.cl i.x.co.id fun k => { k with dist := 0, rest := (0, 0), blocked := none }

/-- A fibre of the issue outside trap mode makes TRET illegal (R269); the core has no trap mode (R422). -/
def tretExtra : Extra where
  bad := fun _ x => if !x.isMc && x.fs.any (fun h => !(x.fib h).tm) then some 4 else none

/-- TRET (R269): guarded fibres return; the others enter the pool at PC + 8. -/
def execTret (f : Fields) (s : State) : Out :=
  s.issue 0x384 f (fun s i =>
    if i.on.isEmpty then s.finish i []
    else if i.x.isMc then s.mcReturn i (f.m 0)
    else
      let s := (s.account i).disband i.x i.stall
      i.x.fs.foldl (fun s h =>
        if i.guard h then s.trapReturn i.x (f.m 0) h else s.toPool i.cl i.slot h i.next .plain 0) s)
    tretExtra

/-- The cause TABORT gives (R80): that of the trap being handled, 0x0C if none. Of fibres that handle traps of different causes the
lowest position's counts, which R80 does not say (DESIGN CHOICE, log entry 131). -/
def Iss.abortCause (i : Iss) : Nat :=
  match i.on.findSome? fun h => (i.fib h).trec with
  | some r => r.cause.toNat
  | none => 0x0C

/-- TABORT (R422). -/
def execTabort (f : Fields) (s : State) : Out :=
  s.issue 0x385 f fun s i =>
    if i.on.isEmpty then s.finish i []
    else if i.x.isMc then s.takeover
    else s.faultTask i.team.seq i.abortCause i.team.index

/-- PCLR (R422): in trap mode, or on the management core. -/
def execPclr (f : Fields) (s : State) : Out :=
  s.issue 0x386 f fun s i => s.finish i (i.on.map fun h =>
    let fb := i.fib h
    let dsts : List Dst :=
      if !(fb.tm || i.x.isMc) then []
      else if f.m 0 then
        let n := f.dst.toNat % 8
        if n = 7 then [] else [.p n { fb.pred n with pois := none }]
      else match i.use? 0 h with
        | some u => (u.regs fb).map fun r => .v r { fb.reg r with pois := false }
        | none => []
    ⟨h, dsts, 0, none⟩)

/-! ### Code changes (R423) -/

/-- ICINV (R423). -/
def execIcinv (f : Fields) (s : State) : Out :=
  s.issue 0x387 f fun s i =>
    if i.on.any fun h => (i.fib h).phase then s
    else
      let inv := i.on.filterMap fun h => if (i.src 2 h).1 = 0 then none else some ((i.src 1 h).1, (i.src 2 h).1)
      ((s.account i).beginPhase i ⟨i.slot, i.on, true, false, [], [], inv, i.x.pc⟩).goOn i.x i.stall fun _ => i.next

/-- FENCEI (R423): nothing of a cohort is fetched ahead in this model; on the management core a new MC_ROOT is in force after it
(R421). -/
def execFencei (f : Fields) (s : State) : Out :=
  s.issue 0x388 f fun s i => (if i.x.isMc && !i.on.isEmpty then s.mcFlush else s).finish i []

/-! ### Debug, wait and counters (R424 to R426) -/

/-- BKPT (R424). -/
def execBkpt (f : Fields) (s : State) : Out :=
  s.issue 0x389 f fun s i =>
    let off := clOff i.cl + 0x188
    let v := (s.reg off).toNat
    if i.x.isMc || i.on.isEmpty || !bitOf v 0 || i.x.co.hold == .resumed then
      (s.modCohort i.cl i.x.co.id fun k => { k with hold := .none }).finish i []
    else
      let hit := if bitOf v 1 then v else v % 4 + 2 + i.slot * 2 ^ 11 + i.x.pc.toNat * 2 ^ 16
      (s.setReg off (BitVec.ofNat 64 hit)).modCohort i.cl i.x.co.id fun k => { k with hold := .bkpt }

/-- WFI (R425): the core issues nothing further until an enabled interrupt is pending. -/
def execWfi (f : Fields) (s : State) : Out :=
  s.issue 0x38A f fun s i =>
    if i.on.isEmpty then s.finish i []
    else State.finish { s with core := { s.core with wfi := true } } i []

/-- The register of a counter number (R426). -/
def perfOff (n : Nat) : Nat := if n = 16 then 0x160 else if n < 8 then 0x140 + 4 * n else 0x100 + 4 * (n - 8)

/-- PERFRD (R426); the management core's slice has no counters and reads 0. -/
def execPerfrd (f : Fields) (s : State) : Out :=
  s.issue 0x38B f fun s i =>
    let v := if i.x.isMc then 0 else s.regView (clOff i.cl + perfOff f.sa.toNat)
    s.finish i (i.on.map fun h => i.resV h v none 0)

/-! ### Group F (R289) -/

/-- An opcode of group F traps EXTENSION in every fibre of the issue. -/
def execExtensionOpcode (len : Len) (slot : BitVec 6) (rest : BitVec 116) (s : State) : Out :=
  match s.ready with
  | none => .next s
  | some (s, x) => .next (s.takeTrap x ((encode (.extensionOpcode len slot rest)).getD 0) (Trap.all x 0x02 0 0))

end Sys2Proof.Machine
end

