-- ==== Sys2Proof/Machine/Arrivals.lean ====
section
/-!
DEFINITION. Machine/Arrivals.lean: outstanding results that arrive (R146, R148, R207, R213, R217, R375, R391), fibres parked
under D6 whose registers are full (R184, R201), and the completion of a release or acquire (R388).
-/
namespace Sys2Proof.Machine

/-! ### Filling registers -/

/-- Fibres of a team parked under D6 whose registers are all full enter the pool in the next cycle (R184, R201). -/
def State.wakeFull (s : State) (c slot : Nat) : State :=
  let cyc := (s.cl c).cycle
  let ready (f : Fibre) : Bool := match f.wait with
    | .d6 regs => f.live && regs.all fun r => (f.reg r).full
    | _ => false
  s.modTeam c slot fun t => { t with fibres := t.fibres.map fun f => if ready f then f.wake cyc .plain else f }

/-- A result's registers filled, its flags set (R207, R227). -/
def State.fillPend (s : State) (c : Nat) (p : Pend) (vs : List VReg) (fl : Flags) : State :=
  (s.fillRegs c p.slot p.fibre p.regs vs).orFlags c p.slot fl

/-- The k-th outstanding result leaves the list. -/
def State.takePend (s : State) (c : Nat) (gone : Pend → Bool) : State :=
  s.modCl c fun k => { k with pend := k.pend.filter fun p => !gone p }

/-- A result whose value was fixed at its issue arrives: the k-th of the cluster, when it is of a kind. -/
def State.arriveFixed (s : State) (c k : Nat) (kind : PendKind → Bool) : State :=
  match (s.cl c).pend[k]? with
  | none => s
  | some p =>
    if !kind p.kind then s
    else
      let gone (s : State) : State := s.modCl c fun x => { x with pend := x.pend.eraseIdx k }
      match p.pay with
      | .bits vs fl => ((gone s).fillPend c p vs fl).wakeFull c p.slot
      | .old _ _ _ vs => ((gone s).fillPend c p vs 0).wakeFull c p.slot
      | .tlqry ref =>
        let t := s.timeline ref.toNat
        ((gone s).fillPend c p (regsOf (t.value.toNat + t.errv.toNat * 2 ^ 64) p.regs.length none) 0).wakeFull c p.slot
      | .load .. => s
      | .pref .. => s

/-! ### Loads (R375) -/

/-- Whether an outstanding load is one of memory. -/
def Pend.isLoad (p : Pend) : Bool := p.kind == .load || p.kind == .replay

/-- Address, size and sign of a load still to be performed. -/
def Pend.access (p : Pend) : Option (Nat × Nat × Bool) :=
  match p.pay with
  | .load va n sg => some (va, n, sg)
  | _ => none

/-- One load filled from memory at its physical address. -/
def State.fillLoad (s : State) (c asid : Nat) (p : Pend) (pa cls n : Nat) (sg : Bool) : State :=
  let (vs, s) := s.loadRegs c asid p pa cls n sg
  s.fillPend c p vs 0

/-- One load whose translation failed (R114, R213). -/
def State.failLoad (s : State) (c asid cause : Nat) (p : Pend) (va : Nat) : State :=
  let (o, s) := s.fillOrigin c cause (s.pageKey c asid va) va asid p
  s.fillPend c p (regsOf 0 p.regs.length (some o)) 0

/-- ASID of the team an outstanding load belongs to. -/
def State.pendSpace (s : State) (c : Nat) (p : Pend) : Nat :=
  match s.team? c p.slot with
  | some t => t.space
  | none => 0

/-- Whether a LIVE load of the list comes behind an earlier one of its fibre to another sector of the line (R151). -/
def behindLive (pend : List Pend) (k : Nat) (va : Nat) : Bool :=
  match pend[k]? with
  | none => false
  | some p => (pend.take k).any fun q => q.isLoad && q.slot == p.slot && q.fibre == p.fibre && (match q.access with
    | some (v, _, _) => v / 256 == va / 256 && v / 64 != va / 64
    | none => false)

/-- The loads that the data of one sector fills: those of the space to the sector, in the order they were made (R131). -/
def State.sectorLoads (s : State) (c asid va : Nat) (live : Bool) : List (Pend × Nat × Nat × Bool) :=
  let pend := (s.cl c).pend
  (List.range pend.length).filterMap fun k => match pend[k]? with
    | none => none
    | some p => (match p.access with
      | some (v, n, sg) =>
        if p.isLoad && s.pendSpace c p == asid && v / 64 == va / 64 && !(live && behindLive pend k v)
        then some (p, v, n, sg) else none
      | none => none)

/-- The sector an outstanding result of memory has a request for: of a space, or physical for a prefetch. One whose page waits or is
UNCACHED, and an atomic's, are among the entries too, which is why a replay list never exceeds them (R131, R276; log entry 135). -/
def State.missOf (s : State) (c : Nat) (p : Pend) : Option (Nat × Nat) :=
  match p.pay with
  | .pref _ _ _ pa _ => some (2 ^ 11, pa / 64)
  | .load va _ _ => some (s.pendSpace c p, va / 64)
  | .old va _ _ _ => some (s.pendSpace c p, va / 64)
  | _ => none

/-- The outstanding sectors of a cluster in the order of their requests, once there may be more than its 512 miss-status
entries (R131); the first 512 hold the entries. -/
def State.misses (s : State) (c : Nat) : List (Nat × Nat) :=
  if (s.cl c).pend.length ≤ 512 then []
  else ((s.cl c).pend.filterMap (s.missOf c)).eraseDups

/-- Whether an outstanding load has no miss-status entry yet: its request is held (R131). -/
def State.noEntry (s : State) (c : Nat) (p : Pend) : Bool :=
  match s.missOf c p with
  | some m => ((s.misses c).drop 512).contains m
  | none => false

/-- Whether the k-th outstanding result waits for an entry: none is free, or 120 lanes already wait in its sector's (R131,
R276). -/
def State.heldMiss (s : State) (c k : Nat) : Bool :=
  match (s.cl c).pend[k]? with
  | none => false
  | some p => s.noEntry c p || (match s.missOf c p with
    | some m => decide (120 ≤ (((s.cl c).pend.take k).filter fun q => s.missOf c q == some m).length)
    | none => false)

/-- A prefetched sector arrives (R148); `repl`: of a REPL page. -/
def State.prefFill (s : State) (c pa : Nat) (repl : Bool) : State :=
  let no := pa / 64
  if ((s.cl c).sector? no).isSome then s
  else
    let s := if s.missHome c no repl then s.demandHome [pa] else s
    (s.fill c no repl).modCl c fun x => { x with pref := x.pref ++ [(no, x.cycle)] }

/-- The data of a prefetch arrives. A request whose generation is stale has been rejected: it is translated again, and dropped
unless the page is still one that PREF reads (R106, R378). -/
def State.prefArrive (s : State) (c k va asid : Nat) (gen : Half) (pa : Nat) (repl : Bool) : State :=
  let s := s.modCl c fun x => { x with pend := x.pend.eraseIdx k }
  if gen = s.gen asid then (if s.lineWaits pa then s else s.prefFill c pa repl)
  else match s.xlate c asid va 0 with
    | (.ok pa cls, s) => if cls = 0 ∨ cls = 2 then s.prefFill c pa (cls == 2) else s
    | (_, s) => s

/-- Whether a load of a replay list must wait for an earlier entry of the list (R277). -/
def replayBehind (pend : List Pend) (k va : Nat) : Bool :=
  match pend[k]? with
  | none => false
  | some p => p.kind == .replay && (pend.take k).any fun q => q.kind == .replay && q.slot == p.slot && (match q.access with
    | some (v, _, _) => v / 64 != va / 64
    | none => false)

/-- The data of the sector that the k-th result of a cluster waits for arrives, or its translation fails; a page that waits, or a
load without a place in a miss-status entry, keeps waiting (R114, R131, R276). An UNCACHED access is made by itself, behind those
its fibre has to send before it (R137, R151). -/
def State.loadArrive (s : State) (c k : Nat) : State :=
  match (s.cl c).pend[k]? with
  | none => s
  | some p =>
    if s.heldMiss c k then s
    else match p.kind, p.pay with
    | .pref, .pref va asid gen pa repl => s.prefArrive c k va asid gen pa repl
    | _, .load va n sg =>
      let asid := s.pendSpace c p
      if !p.isLoad || replayBehind (s.cl c).pend k va then s
      else match s.xlate c asid va 0 with
        | (.wait post, s) => if post then s.postReplay 0 c asid va else s
        | (.ok pa cls, s) =>
          let all := if cls = 3 then [(p, va, n, sg)] else (s.sectorLoads c asid va (cls == 1)).take 120
          if !(all.any fun x => x.1 == p) || (cls == 3 && s.sendsFirst c p.slot p.fibre asid ((s.cl c).pend.take k)) then s
          else
            let s := all.foldl (fun s x =>
              s.fillLoad c asid x.1 (pa / 64 * 64 + x.2.1 % 64) cls x.2.2.1 x.2.2.2) s
            let s := s.takePend c fun q => all.any fun x => x.1 == q
            (all.map (·.1.slot)).eraseDups.foldl (fun s n => s.wakeFull c n) s
        | (x, s) =>
          let cause := if x = .page then 0x08 else 0x09
          let same (q : Pend) : Bool := q.isLoad && q.slot == p.slot && q.issue == p.issue && (match q.access with
            | some (v, _, _) => (p.kind != .replay || v / 64 == va / 64) && s.pageKey c asid v == s.pageKey c asid va
            | none => false)
          let all := (s.cl c).pend.filter same
          let s := all.foldl (fun s q => s.failLoad c asid cause q ((q.access.map (·.1)).getD va)) s
          (s.takePend c fun q => all.contains q).wakeFull c p.slot
    | _, _ => s.arriveFixed c k fun x => x == .load || x == .replay

/-- LOAD_DATA_ARRIVAL (R375). -/
def execLoadDataArrival (cl k : Nat) (s : State) : Out := .next (s.loadArrive cl k)

/-- VARIABLE_RESULT_ARRIVAL (R207, R415). -/
def execVariableResultArrival (cl k : Nat) (s : State) : Out := .next (s.arriveFixed cl k (· == .arith))

/-- CADDY_RESULT_ARRIVAL (R391). -/
def execCaddyResultArrival (cl k : Nat) (s : State) : Out := .next (s.arriveFixed cl k (· == .caddy))

/-- PHASE_COMPLETION (R388). -/
def execPhaseCompletion (cl k : Nat) (s : State) : Out :=
  .next (match (s.cl cl).phases[k]? with
    | some op => (s.phaseDone cl k).wakeFull cl op.slot
    | none => s)

end Sys2Proof.Machine
end

