-- ==== Sys2Proof/Machine/Placement.lean ====
section
/-!
DEFINITION. Machine/Placement.lean: the dispatcher (R72 to R77, R249, R295): ready order, the fit test with lane windows,
reserved clusters, the placement of a team, and the release of an ended team's resources.
-/
namespace Sys2Proof.Machine

/-! ### Windows (R74, R206) -/

/-- Rows in use in a home lane: base and count of each resident window. -/
def laneRows (ts : List Team) (lane : Nat) : List (Nat × Nat) :=
  ts.flatMap fun t => ((List.range t.fib).filter fun f => t.homeLane f == lane).map fun f => ((t.fibre f).base, t.regs)

/-- The lowest base of `regs` rows free in two lanes. -/
def lowestBase (regs : Nat) (a b : List (Nat × Nat)) : Option Nat :=
  ((List.range 64).map (8 * ·)).find? fun x =>
    decide (x + regs ≤ 512) && (a ++ b).all fun o => decide (o.1 + o.2 ≤ x ∨ x + regs ≤ o.1)

/-- Window bases of fibre indices 0 to fib − 1 under an HLB, given the rows in use by lane. An even index takes the lowest base
free in its own lane and its partner's; where none is, and for an odd index, whose partner is assigned, the lowest free in its own
lane (R74; R173: log entry 78). -/
def windowsAt (occ : List (List (Nat × Nat))) (hlb fib regs : Nat) : Option (List Nat) :=
  ((List.range fib).foldl (fun (acc : Option (List Nat × List (List (Nat × Nat)))) f =>
    match acc with
    | none => none
    | some (bases, occ) =>
      let h := (hlb + f) % 192
      let own := atD occ h []
      let both := if f % 2 = 0 ∧ f + 1 < fib then lowestBase regs own (atD occ (h + 1) []) else none
      match both <|> lowestBase regs own [] with
      | none => none
      | some b => some (bases ++ [b], modAt occ h fun l => (b, regs) :: l)) (some ([], occ))).map (·.1)

/-- The first HLB that fits, as HLS, with the window bases. -/
def windowsFor (ts : List Team) (fib regs : Nat) : Option (Nat × List Nat) :=
  let occ := (List.range 192).map (laneRows ts)
  (List.range 6).findSome? fun hls => (windowsAt occ (32 * hls) fib regs).map fun b => (hls, b)

/-! ### Fit (R74) -/

/-- What a team asks of a cluster. -/
structure Need where
  fib  : Nat
  regs : Nat
  acc  : Nat
  scr  : Nat
deriving DecidableEq, Repr

def Tcb.need (t : Tcb) : Need := ⟨t.fib, t.regs, t.acc, t.scr⟩
def Team.need (t : Team) : Need := ⟨t.fib, t.regs, t.acc, t.scr⟩

/-- Accumulator tiles of a leader held for saved teams, apart from one (R278). -/
def State.heldTiles (s : State) (cl : Nat) (own : Option SavedTeam) : Nat :=
  ((s.saved.filter fun v => !v.accSaved && v.leader == cl && some v != own).map (·.team.acc)).sum

/-- Whether a cluster's pair is being retired or has teams to take back, so that it takes no others (R15). -/
def State.pairHeld (s : State) (cl : Nat) : Bool :=
  [cl / 2 * 2, cl / 2 * 2 + 1].any fun c => (s.cl c).teams.any (·.pinned) || s.saved.any fun v => v.pin == some c

/-- Whether a team fits a cluster without some of its teams, and with which HLS and bases. -/
def State.fits (s : State) (cl : Nat) (n : Need) (gone : List Nat) (own : Option SavedTeam) : Option (Nat × List Nat) :=
  let ts := (s.cl cl).teams.filter fun t => !gone.contains t.slot
  let run := ts.filter fun t => !t.ended
  if (s.pairHeld cl && (own.bind (·.pin)).isNone) || decide (run.length ≥ s.teamLimit cl) || decide (ts.length ≥ 32) || decide ((run.map (·.fib)).sum + n.fib > 1536)
      || decide ((ts.map (·.scr)).sum + n.scr > 512)
      || (n.acc != 0 && (cl % 2 != 0 || decide ((ts.map (·.acc)).sum + s.heldTiles cl own + n.acc > 4)))
  then none
  else windowsFor run n.fib n.regs

/-! ### Clusters a team may go to (R15, R75) -/

/-- Pairs of a die that are online. -/
def State.onlinePairs (s : State) (die : Nat) : List Nat :=
  (List.range 20).filter fun p => !(atD s.spares die Spares.reset).offline.contains p

/-- Reserved pairs of a die: 18 and 19, an offline one replaced by the highest-numbered online pair left. -/
def State.reservedPairs (s : State) (die : Nat) : List Nat :=
  let on := s.onlinePairs die
  let base := on.filter fun p => decide (p ≥ 18)
  base ++ ((on.filter fun p => decide (p < 18)).reverse.take (2 - base.length))

def State.online (s : State) (cl : Nat) : Bool := decide (cl < 160) && (s.onlinePairs (cl / 40)).contains (cl % 40 / 2)
def State.reserved (s : State) (cl : Nat) : Bool := (s.reservedPairs (cl / 40)).contains (cl % 40 / 2)

/-- Whether a cluster holds latency teams. -/
def Cluster.hasLatency (k : Cluster) : Bool := k.teams.any fun t => !t.bulk && !t.ended

/-- Whether a non-reserved cluster may take a latency team: idle, and fewer than half of its die's hold one. -/
def State.idleFor (s : State) (cl : Nat) : Bool :=
  let die := cl / 40
  let others := (List.range 40).map (die * 40 + ·) |>.filter fun c => s.online c && !s.reserved c
  (s.cl cl).teams.all (·.ended)
    && decide ((others.filter fun c => (s.cl c).hasLatency).length < others.length / 2)

/-- Where a latency team may be placed: a reserved cluster where it fits, else an idle one. -/
def State.latencyAt (s : State) (cl : Nat) (n : Need) (own : Option SavedTeam) : Option (Nat × List Nat) :=
  if !s.online cl then none
  else if s.reserved cl then s.fits cl n [] own
  else if (List.range 160).any fun c => s.online c && s.reserved c && (s.fits c n [] own).isSome then none
  else if s.idleFor cl then s.fits cl n [] own else none

/-! ### Ready order (R72, R73) -/

/-- Saved teams of a task that the dispatcher restores, in ascending team index. -/
def State.savedOf (s : State) (seq : Nat) : List SavedTeam :=
  sortBy (fun a b => decide (a.team.index < b.team.index)) (s.saved.filter fun v => v.team.seq == seq && v.pin.isNone)

/-- The first task of a class in ready order that has a team to place or to restore. -/
def State.firstReady (s : State) (bulk : Bool) : Option Task :=
  let ts := s.tasks.filter fun t => t.tcb.kind == .task && t.tcb.bulk == bulk && (t.state == .ready || t.state == .running)
    && t.fault.isNone && (decide (t.placed < t.tcb.teams) || !(s.savedOf t.seq).isEmpty)
  let lt (a b : Task) : Bool :=
    decide (a.tcb.prio > b.tcb.prio ∨ (a.tcb.prio = b.tcb.prio ∧
      (a.readyAt < b.readyAt ∨ (a.readyAt = b.readyAt ∧ a.seq < b.seq))))
  (sortBy lt ts).head?

/-- What the next team of a task needs, and the saved team it is, if one waits. -/
def State.nextNeed (s : State) (t : Task) : Need × Option SavedTeam :=
  match s.savedOf t.seq with
  | v :: _ => (v.team.need, some v)
  | [] => (t.tcb.need, none)

/-- Whether a latency team could be placed now. -/
def State.latencyPlaceable (s : State) : Bool :=
  match s.firstReady false with
  | none => false
  | some t =>
    let (n, own) := s.nextNeed t
    (List.range 160).any fun c => (s.latencyAt c n own).isSome && (match own with
      | some v => v.accSaved || v.leader == c
      | none => true)

/-- Where the next team of a class goes on a cluster (R75): the latency class is served first, and a bulk team takes a
reserved cluster only while no latency team waits. -/
def State.placeAt (s : State) (bulk : Bool) (cl : Nat) (n : Need) (own : Option SavedTeam) : Option (Nat × List Nat) :=
  if !bulk then s.latencyAt cl n own
  else if !s.online cl || s.latencyPlaceable || (s.reserved cl && (s.firstReady false).isSome) then none
  else s.fits cl n [] own

/-! ### Placement (R77) -/

/-- Accumulator tiles given to a team of a leader: of those free, the ones that hold nothing of an ended team first, then the one
freed longest ago, which is cleared (R245, R249). R249 does not say which free tile is given (DESIGN CHOICE, log entry 134). -/
def State.giveTiles (s : State) (cl n : Nat) (own : Option SavedTeam) : State :=
  let used := ((s.cl cl).teams.map (·.acc)).sum + s.heldTiles cl own
  if n = 0 then s else s.modCl cl fun k => { k with accOld := k.accOld.drop (k.accOld.length + used + n - 4) }

/-- A fibre of a new team. -/
def firstFibre (t : Tcb) (index f base entered : Nat) : Fibre :=
  let b := { Fibre.blank t.regs (seedOf index f) with base := base, entered := entered }
  if f < t.initf then
    { b with
      live := true
      pc := t.code
      sets := 1
      v := [VReg.of (BitVec.ofNat 32 t.frame), VReg.of (BitVec.ofNat 32 (fld t.frame 32 16)), VReg.of (BitVec.ofNat 32 index)]
        ++ List.replicate (t.regs - 3) (VReg.of 0) }
  else b

/-- A team as it is placed (R77, R245). -/
def newTeam (task : Task) (slot hls : Nat) (bases : List Nat) (inter : Bool) (entered place : Nat) : Team where
  slot := slot
  mc := false
  seq := task.seq
  tcb := task.tcba
  index := task.placed
  asid := task.asid
  fib := task.tcb.fib
  regs := task.tcb.regs
  etag := task.tcb.etag
  trapv := task.tcb.trapv
  frame := task.tcb.frame
  code := task.tcb.code
  acc := task.tcb.acc
  scr := task.tcb.scr
  caddy := task.tcb.caddy
  w64 := task.tcb.w64
  fixed := task.tcb.fixed
  strictx := task.tcb.strictx
  fto := BitVec.ofNat 6 task.tcb.fto
  split := BitVec.ofNat 4 task.tcb.split
  hls := hls
  bulk := task.tcb.bulk
  step := task.tcb.step
  inter := inter
  fpmode := task.tcb.fpm.setWidth 32
  fpstat := 0
  fpset := (0, 0)
  sysw := []
  privb := 0
  privs := 0
  fibres := (List.range task.tcb.fib).map fun f => firstFibre task.tcb task.placed f (atD bases f 0) entered
  uni := []
  bars := List.replicate 16 ⟨0, 0⟩
  joins := List.replicate 16 JoinSlot.zero
  gbar := []
  scratch := []
  scrPois := []
  tiles := []
  accPois := []
  claim := none
  matq := []
  matLast := 0
  charge := 0
  halted := false
  pinned := false
  ended := false
  placedAt := place

/-- The mode of a team (R295): IL of the pad at CODE, or ILF of the cluster. -/
def State.interAt (s : State) (cl asid code : Nat) : Bool :=
  let pad : Bool := match (s.fetch cl asid code 8).1 with
    | .ok bs =>
      let w := leVal bs
      fld w 0 2 == 0 && fld w 2 10 == 0x185 && fld w 58 3 == 2 && bitOf w 63
    | _ => false
  pad || (s.reg (clOff cl + 0x180)).getLsbD 1

/-- The lowest team slot no team holds. -/
def Cluster.freeSlot (k : Cluster) : Nat := ((List.range 32).find? fun n => k.teams.all fun t => t.slot != n).getD 0

/-- TEAM_PLACEMENT (R73 to R77): the pad at CODE is checked as the team enters, and the writes of its predecessors are
acquired (R64). -/
def State.place (s : State) (bulk : Bool) (cl : Nat) : State :=
  match s.firstReady bulk with
  | none => s
  | some t =>
    match s.nextNeed t with
    | (_, some _) => s
    | (n, none) =>
      match s.placeAt bulk cl n none with
      | none => s
      | some (hls, bases) =>
        match s.padCheck cl t.asid t.tcb.code.toNat 2 t.tcb.etag.toNat with
        | (.wait, s) => s
        | (.fail, s) =>
          (if t.state = .ready then s.enterState t.seq .running else s).faultTask t.seq 0x04 t.placed
        | (.pass, s) =>
          let k := s.cl cl
          let x := newTeam t k.freeSlot hls bases (s.interAt cl t.asid t.tcb.code.toNat) k.cycle s.placeNo
          let s := if t.state = .ready then s.enterState t.seq .running else s
          let s := ((s.modTask t.seq fun y => { y with placed := y.placed + 1 }).giveTiles cl n.acc none).acquire cl
          State.modCl { s with placeNo := s.placeNo + 1 } cl fun k => { k with teams := k.teams ++ [x] }

/-- TEAM_PLACEMENT. -/
def execTeamPlacement (latency : Bool) (cl : Nat) (s : State) : Out := .next (if cl < 160 then s.place (!latency) cl else s)

/-! ### The end of a team (R249) -/

/-- Whether a transfer in flight touches the scratchpad of a team (R411). -/
def State.scrBusy (s : State) (cl slot : Nat) : Bool :=
  let inScr (o : Operand) : Bool := match o with | .scratch _ => true | _ => false
  s.xfers.any fun x => x.cl == cl && x.slot == slot && !x.dead && (inScr x.dst || (x.src.map inScr).getD false)

/-- Whether nothing an ended team issued is left that holds its tiles, scratchpad or caddy, and its pair's counter has reached the
number of its last operation (R249). -/
def State.teamIdle (s : State) (cl : Nat) (t : Team) : Bool :=
  let k := s.cl cl
  t.matq.isEmpty && decide (t.matLast ≤ (s.timeline (matCounter cl)).value)
    && k.phases.all (fun p => p.slot != t.slot) && k.pend.all (fun p => p.kind == .pref || p.slot != t.slot)
    && k.cohorts.all (fun h => h.team != t.slot)
    && !s.scrBusy cl t.slot

/-- A team's tiles as they leave it: words and poison of each (R249). -/
def Team.oldTiles (t : Team) : List (Tab Word × Tab (Option Half)) :=
  (List.range t.acc).map fun k =>
    ((t.tiles.filter fun x => x.1 / 32768 == k).map fun x => (x.1 % 32768, x.2),
     (t.accPois.filter fun x => x.1 / 16384 == k).map fun x => (x.1 % 16384, x.2))

/-- TEAM_RESOURCE_RELEASE (R249): the tiles keep what they hold until they are given to another team. -/
def execTeamResourceRelease (cl slot : Nat) (s : State) : Out :=
  .next (match s.team? cl slot with
    | none => s
    | some t =>
      if t.ended && !t.mc && s.teamIdle cl t then s.modCl cl fun k => { k with
        teams := k.teams.filter fun x => x.slot != slot
        accOld := k.accOld ++ t.oldTiles }
      else s)

end Sys2Proof.Machine
end

