-- ==== Sys2Proof/Machine/Context.lean ====
section
/-!
DEFINITION. Machine/Context.lean: pre-emption, the save pool, context save and restore (R76, R250, R270 to R278).
-/
namespace Sys2Proof.Machine

/-! ### The pool (R272) -/

/-- The pool's free slots. -/
def State.slotsFree (s : State) (die : Nat) : Nat := s.regFld (dieOff die + 0x1808) 0 16 - s.slotsUsed die

/-- The lowest slot that holds no team. -/
def State.freePoolSlot (s : State) (die : Nat) : Nat :=
  ((List.range (s.saved.length + s.restoring.length + 1)).find? fun n => s.saved.all (fun v => !(v.die == die && v.slot == n))
    && s.restoring.all fun r => !(r.1 == die && r.2.1 == n && s.restores r)).getD 0

/-- Physical base of a slot. -/
def State.slotBase (s : State) (die slot : Nat) : Nat := s.regFld (dieOff die + 0x1800) 21 31 * 2 ^ 21 + slot * 2 ^ 21

/-! ### Requests (R270) -/

/-- One team halted, when it is resident and a slot is free. -/
def State.haltTeam (s : State) (cl slot : Nat) : State :=
  match s.team? cl slot with
  | none => s
  | some t =>
    if t.mc || t.ended || t.halted || s.slotsFree (cl / 40) == 0 then s
    else s.modTeam cl slot fun t => { t with halted := true }

/-- The bulk teams of a cluster whose removal, most recently placed first, makes room for a team: none if no number of them
does (R76). -/
def State.removals (s : State) (cl : Nat) (n : Need) (own : Option SavedTeam) : Option (List Nat) :=
  let bulk := sortBy (fun (a b : Team) => decide (a.placedAt > b.placedAt)) ((s.cl cl).teams.filter fun t => t.bulk && !t.ended)
  ((List.range (bulk.length + 1)).map fun k => (bulk.take k).map (·.slot)).find? fun l => (s.fits cl n l own).isSome

/-- The reserved cluster where teams are pre-empted for the next latency team, and which: when it fits nowhere, the one that
needs the fewest removed, the lower number on a tie (R76). -/
def State.preemptAt (s : State) : Option (Nat × List Nat) :=
  match s.firstReady false with
  | none => none
  | some t =>
    let (n, own) := s.nextNeed t
    let here (c : Nat) : Bool := match own with | some v => v.accSaved || v.leader == c | none => true
    if s.latencyPlaceable then none
    else
      let cs := (List.range 160).filterMap fun c =>
        if s.online c && s.reserved c && here c then (s.removals c n own).map fun l => (c, l) else none
      (sortBy (fun (a b : Nat × List Nat) => decide (a.2.length < b.2.length)) cs).head?

/-- PREEMPT_REQUEST (R76, R270): the former and the slices let the teams go on no further that the dispatcher may pre-empt
there, as many of them, most recently placed first, as the request names. -/
def execPreemptRequest (cl : Nat) (slots : List Nat) (s : State) : Out :=
  .next (match s.preemptAt with
    | some (c, l) => if c = cl then (l.takeWhile slots.contains).foldl (fun s n => s.haltTeam cl n) s else s
    | none => s)

/-! ### The slot's contents (R273 to R276) -/

/-- WAIT and WOBJ of a fibre's record, and WVAL. -/
def Wait.codes : Wait → Nat × Nat × Nat
  | .none => (0, 0, 0)
  | .join j => (1, j, 0)
  | .bar s => (2, s, 0)
  | .gbar b v => (3, b, v.toNat)
  | .csync s => (4, s, 0)
  | .d6 _ => (5, 0, 0)
  | .sleep t => (6, 0, t)

/-- A fibre's record (R275). -/
def Fibre.image (f : Fibre) : List Byte :=
  if !f.live then List.replicate 24 0 ++ leBytes 8 (f.gen.toNat * 2 ^ 32) ++ List.replicate 224 0
  else
    let (w, obj, val) := f.wait.codes
    let bits (g : Pred → Bool) : Nat := ((List.range 7).map fun k => if g (atD f.p k ⟨false, none⟩) then 2 ^ k else 0).sum
    let x := (List.range 4).map fun k => (atD f.x k 0).toNat * 2 ^ (16 * k)
    let trec : List Nat := match f.trec with
      | some r => r.words
      | none => List.replicate 8 0
    leBytes 8 (f.pc.toNat + w * 2 ^ 48 + b2n f.tm * 2 ^ 52 + 2 ^ 53)
      ++ leBytes 8 (bits (·.val) + bits (fun p => p.pois.isSome) * 2 ^ 8 + obj * 2 ^ 16 + f.rs.length * 2 ^ 24 + f.rssp * 2 ^ 32)
      ++ leBytes 8 x.sum ++ leBytes 8 (f.sets.toNat + f.jmask.toNat * 2 ^ 16 + f.gen.toNat * 2 ^ 32)
      ++ (List.range 16).flatMap (fun k => leBytes 2 (atD f.lph k 0).toNat)
      ++ (List.range 8).flatMap (fun k => leBytes 8 (atD f.rs k 0).toNat)
      ++ trec.flatMap (leBytes 8) ++ leBytes 8 val ++ List.replicate 56 0

/-- 32 bytes of a register map. -/
def Fibre.map (f : Fibre) (g : VReg → Bool) : List Byte :=
  leBytes 32 (((List.range f.v.length).map fun n => if g (atD f.v n (VReg.of 0)) then 2 ^ n else 0).sum)

/-- The outstanding sectors of a replay list, each with its loads (R276). -/
def replaySectors (ps : List Pend) : List (Nat × List Pend) :=
  let va (p : Pend) : Option Nat := p.access.map fun a => a.1 / 64
  ((ps.filterMap va).eraseDups).map fun n => (n, ps.filter fun p => va p == some n)

/-- A load's lane of an entry: fibre, offset in the sector, destination and access. -/
def Pend.lane (p : Pend) : Nat := p.fibre + (p.access.map (·.1)).getD 0 % 64 * 2 ^ 10 + p.regs.headD 255 * 2 ^ 16 + p.code * 2 ^ 24

/-- One entry of 512 bytes. -/
def replayImage (e : Nat × List Pend) : List Byte :=
  let body := e.2.flatMap fun p => leBytes 4 p.lane
  leBytes 8 (e.1 * 64) ++ leBytes 8 e.2.length ++ List.replicate 16 0 ++ body ++ List.replicate (480 - body.length) 0

/-- The header (R274), PRIVBASE and PRIVSIZE behind it (R315). -/
def Team.slotHeader (t : Team) (replay : Nat) (accSaved : Bool) (leader : Nat) : List Byte :=
  let w := leBytes 8
  w (0x4F564358 + 2 ^ 32 + b2n accSaved * 2 ^ 48 + b2n t.claim.isSome * 2 ^ 49) ++ w t.tcb ++ w t.seq
    ++ w (t.asid + t.index * 2 ^ 16 + t.fib * 2 ^ 32 + t.regs * 2 ^ 48 + t.acc * 2 ^ 56)
    ++ w (t.cfg + t.scr * 2 ^ 32 + t.caddy * 2 ^ 42) ++ w (t.fpmode.toNat + t.fpstat.toNat * 2 ^ 32)
    ++ w (replay + leader * 2 ^ 16) ++ w 0
    ++ (List.range 16).flatMap (fun k =>
      let b := atD t.bars k ⟨0, 0⟩
      w (b.p.toNat + t.count k * 2 ^ 16 + b.a * 2 ^ 32))
    ++ (List.range 16).flatMap (fun k =>
      let j := atD t.joins k JoinSlot.zero
      w (j.c + j.a * 2 ^ 16) ++ w j.target.toNat)
    ++ (match t.claim with
      | some c => w (c.b + b2n c.kw64 * 2 ^ 4 + b2n c.vw64 * 2 ^ 5 + c.op * 2 ^ 6) ++ w c.sbase ++ w c.scap ++ w c.a
      | none => List.replicate 32 0)
    ++ w t.privb.toNat ++ w t.privs.toNat

/-- The parts of a slot a team uses, tiles apart. -/
def Team.image (t : Team) (replay : List Pend) (leader : Nat) : List (Nat × List Byte) :=
  let es := replaySectors replay
  let all := List.range t.fib
  [(0, t.slotHeader es.length false leader)]
    ++ all.map (fun f => (0x1000 + 256 * f, (t.fibre f).image))
    ++ all.map (fun f => (0x41000 + 32 * f, (t.fibre f).map fun r => !r.full))
    ++ all.map (fun f => (0x49000 + 32 * f, (t.fibre f).map (·.pois)))
    ++ all.map (fun f => (0x51000 + 4 * t.regs * f, (t.fibre f).v.flatMap fun r => leBytes 4 r.val.toNat))
    ++ ((List.range es.length).zip es).map (fun e => (0xB1000 + 512 * e.1, replayImage e.2))
    ++ [(0x100000, t.scrBytes 0 (t.scr * 1024))]

/-- A tile and its poison bits (R273). -/
def Team.tileImage (t : Team) (k : Nat) : List (Nat × List Byte) :=
  [(0x180000 + 0x20000 * k, (List.range 32768).flatMap fun n => leBytes 4 (t.tileAt k n)),
   (0xF1000 + 0x800 * k, (List.range 2048).map fun b =>
     BitVec.ofNat 8 (((List.range 8).map fun i => if (t.tilePois k (8 * b + i)).isSome then 2 ^ i else 0).sum))]

/-- Parts written at a slot. -/
def State.putImage (s : State) (base : Nat) (parts : List (Nat × List Byte)) : State :=
  parts.foldl (fun s p => s.homeWrite (cellsAt (base + p.1) p.2)) s

/-- An outstanding load or returning atomic as a replay entry asks for it again (R270, R276). -/
def Pend.again (p : Pend) : Pend := match p.pay with
  | .old va n sg _ => { p with pay := .load va n sg }
  | _ => p

/-! ### Saving (R270, R273) -/

/-- Whether a halted team's issued work is over: no operation of its queue, release, acquire or engine issue is under way, no
transfer touches its scratchpad (R411), its cluster's writes of its space can go home, and of its results only loads and
returning atomics are still to come, with their miss-status entries (R250, R270, R276). -/
def State.saveReady (s : State) (cl : Nat) (t : Team) : Bool :=
  let k := s.cl cl
  t.halted && !t.ended && t.matq.isEmpty && k.phases.all (fun p => p.slot != t.slot)
    && k.cohorts.all (fun h => h.team != t.slot || h.part.isNone)
    && !s.scrBusy cl t.slot && !(s.unflushed cl fun _ a => a == t.space)
    && (k.pend.all fun p => p.kind == .pref || p.slot != t.slot || (p.isLoad && p.again.access.isSome))
    && (List.range k.pend.length).all fun n => !(s.heldMiss cl n && (k.pend[n]?.map (·.slot)) == some t.slot)

/-- A cohort's pending results are written, and it is gone; a sleeping one leaves its fibres asleep (R275, R360). -/
def State.saveCohort (s : State) (cl : Nat) (h : Cohort) : State :=
  let s := s.land cl h.id none
  let s := match h.hold with
    | .sleep t => h.fibres.foldl (fun (s : State) f => s.modFibre cl h.team f fun y =>
        if y.live && !y.parked then { y with wait := .sleep t } else y) s
    | _ => s
  ((if h.fixed.isSome then s else s.countCl cl 0x148 1).unlatchAll cl h.id).dropCohort cl h.id

/-- The team's context goes into the lowest free slot of its die, and the team leaves the cluster; its space's writes go home
first, so that wherever it is restored it reads and releases what it wrote (R150, R155). -/
def State.contextSave (s : State) (cl slot : Nat) : State :=
  match s.team? cl slot with
  | none => s
  | some t =>
    if !s.saveReady cl t then s
    else
      let s := ((s.cl cl).cohorts.filter fun h => h.team == slot).foldl (fun s h => s.saveCohort cl h) s
      let s := s.flush cl fun _ a => a == t.space
      let t := { ((s.team? cl slot).getD t).sysSettle none with halted := false, pinned := false, fpset := (0, 0), uni := [], matLast := 0 }
      let mine (p : Pend) : Bool := p.isLoad && p.slot == slot
      let replay := ((s.cl cl).pend.filter mine).map Pend.again
      let pin := match s.team? cl slot with | some x => if x.pinned then some cl else none | none => none
      let die := cl / 40
      let n := s.freePoolSlot die
      let s := s.putImage (s.slotBase die n) (t.image replay cl)
      let s := s.modCl cl fun k => { k with
        teams := k.teams.filter fun x => x.slot != slot
        pend := k.pend.filter fun p => !mine p }
      { s with
        saved := s.saved ++ [⟨die, n, t, replay, t.acc == 0, cl, pin⟩]
        restoring := s.restoring.filter s.restores }

/-- CONTEXT_SAVE (R273). -/
def execContextSave (cl slot : Nat) (s : State) : Out := .next (if cl < 160 then s.contextSave cl slot else s)

/-! ### Restoring (R277) -/

/-- A trap record from its eight words (R267). -/
def trapRecOf (w : Nat → Nat) : TrapRec where
  pc := BitVec.ofNat 48 (w 0 / 2 ^ 16)
  sub := BitVec.ofNat 8 (w 0 / 2 ^ 8)
  cause := BitVec.ofNat 8 (w 0)
  origin := BitVec.ofNat 16 (w 1 / 2 ^ 48)
  npos := BitVec.ofNat 7 (w 1 / 2 ^ 41)
  pos := BitVec.ofNat 6 (w 1 / 2 ^ 35)
  aligned := bitOf (w 1) 34
  pol := bitOf (w 1) 33
  w := bitOf (w 1) 32
  fpmode := BitVec.ofNat 32 (w 1)
  iw := BitVec.ofNat 128 (w 2 + w 3 * 2 ^ 64)
  mask := BitVec.ofNat 64 (w 4)
  info := BitVec.ofNat 64 (w 5)
  time := BitVec.ofNat 64 (w 6)

/-- A wait from WAIT, WOBJ and WVAL; a D6 fibre waits for the registers it was parked for, which no record holds (R275, log entry
83). -/
def waitOf (old : Wait) (w obj val : Nat) : Wait :=
  match w with
  | 1 => .join obj
  | 2 => .bar obj
  | 3 => .gbar obj (BitVec.ofNat 16 val)
  | 4 => .csync obj
  | 5 => (match old with | .d6 regs => .d6 regs | _ => .d6 [])
  | 6 => .sleep val
  | _ => .none

/-- A fibre from its record, its maps and its registers (R275); the origin of a poisoned predicate, which no record holds, is the
one it had (log entry 83). -/
def Fibre.reload (f : Fibre) (rec empty pois regs : List Byte) : Fibre :=
  let w (k : Nat) : Nat := leVal ((rec.drop (8 * k)).take 8)
  let gen : Word := BitVec.ofNat 32 (w 3 / 2 ^ 32)
  if !bitOf (w 0) 53 then { f with live := false, gen := gen, wait := .none }
  else { f with
    live := true
    pc := BitVec.ofNat 48 (w 0)
    tm := bitOf (w 0) 52
    wait := waitOf f.wait (fld (w 0) 48 4) (fld (w 1) 16 8) (w 24)
    v := (List.range f.v.length).map fun n =>
      ⟨BitVec.ofNat 32 (leVal ((regs.drop (4 * n)).take 4)), !bitOf (leVal empty) n, bitOf (leVal pois) n⟩
    p := (List.range 7).map fun k => ⟨bitOf (w 1) k, if bitOf (w 1) (8 + k) then some ((f.pred k).pois.getD 0xFFFF) else none⟩
    x := (List.range 4).map fun k => BitVec.ofNat 16 (fld (w 2) (16 * k) 16)
    rs := (List.range (fld (w 1) 24 4)).map fun k => BitVec.ofNat 48 (w (8 + k))
    rssp := fld (w 1) 32 32
    sets := BitVec.ofNat 16 (w 3)
    jmask := BitVec.ofNat 16 (w 3 / 2 ^ 16)
    gen := gen
    lph := (List.range 16).map fun k => BitVec.ofNat 16 (leVal ((rec.drop (32 + 2 * k)).take 2))
    trec := f.trec.map fun _ => trapRecOf fun k => w (16 + k) }

/-- A team from its slot's bytes, read by offset and length: every item of R273 to R275. What no item holds is as it was (log
entry 83). -/
def Team.reload (t : Team) (get : Nat → Nat → List Byte) : Team :=
  let h (k : Nat) : Nat := leVal (get (8 * k) 8)
  let cell {α : Type} (l : List α) (zero : α → Bool) : List (Nat × α) := ((List.range l.length).zip l).filter fun x => !zero x.2
  let words (o n : Nat) : List Word := (List.range n).map fun k => BitVec.ofNat 32 (leVal (get (o + 4 * k) 4))
  let tiles := (List.range t.acc).flatMap fun k => words (0x180000 + 0x20000 * k) 32768
  let pois : List (Option Half) := (List.range t.acc).flatMap fun k => (List.range 16384).map fun w =>
    if bitOf (leVal (get (0xF1000 + 0x800 * k + w / 8) 1)) (w % 8) then
      some (BitVec.ofNat 16 (leVal (get (0x180000 + 0x20000 * k + 8 * w) 2))) else none
  { t with
    fpmode := BitVec.ofNat 32 (h 5)
    fpstat := BitVec.ofNat 32 (h 5 / 2 ^ 32)
    bars := (List.range 16).map fun k => ⟨BitVec.ofNat 16 (h (8 + k)), fld (h (8 + k)) 32 32⟩
    joins := (List.range 16).map fun k => { atD t.joins k JoinSlot.zero with
      c := fld (h (24 + 2 * k)) 0 16, a := fld (h (24 + 2 * k)) 16 16, target := BitVec.ofNat 48 (h (25 + 2 * k)) }
    claim := if !bitOf (h 0) 49 then none else t.claim.map fun c => { c with
      b := fld (h 56) 0 4, kw64 := bitOf (h 56) 4, vw64 := bitOf (h 56) 5, op := fld (h 56) 6 4, sbase := h 57, scap := h 58, a := h 59 }
    privb := BitVec.ofNat 64 (h 60)
    privs := BitVec.ofNat 32 (h 61)
    fibres := (List.range t.fib).map fun f => (t.fibre f).reload (get (0x1000 + 256 * f) 256) (get (0x41000 + 32 * f) 32)
      (get (0x49000 + 32 * f) 32) (get (0x51000 + 4 * t.regs * f) (4 * t.regs))
    scratch := cell (get 0x100000 (t.scr * 1024)) (· == 0)
    tiles := if bitOf (h 0) 48 then cell tiles (· == 0) else t.tiles
    accPois := if bitOf (h 0) 48 then cell pois (·.isNone) else t.accPois }

/-- Size, sign and registers of an access code of R276. -/
def replayAccess (code : Nat) : Nat × Bool × Nat :=
  match code with
  | 0 => (1, false, 1)
  | 1 => (1, true, 1)
  | 2 => (2, false, 1)
  | 3 => (2, true, 1)
  | 5 => (8, false, 2)
  | 6 => (16, false, 4)
  | _ => (4, false, 1)

/-- The loads of a slot's replay list, in its order (R276). The instruction and issue of each, which no entry holds, are those of the
load saved there (log entry 83). -/
def replayOf (old : List Pend) (get : Nat → Nat → List Byte) : List Pend :=
  (List.range (fld (leVal (get 0x30 8)) 0 10)).flatMap fun e =>
    let w (k : Nat) : Nat := leVal (get (0xB1000 + 512 * e + 8 * k) 8)
    (List.range (fld (w 1) 0 7)).map fun k =>
      let l := leVal (get (0xB1000 + 512 * e + 32 + 4 * k) 4)
      let va := w 0 / 64 * 64 + fld l 10 6
      let (n, sg, m) := replayAccess (fld l 24 4)
      let d := fld l 16 8
      let from' := old.find? fun p => p.access.map (·.1) == some va && p.lane == l
      ⟨.replay, 0, fld l 0 10, if d = 255 then List.replicate m 255 else (List.range m).map (d + ·),
        (from'.map (·.issue)).getD 0, (from'.map (·.pc)).getD 0, fld l 24 4, .load va n sg⟩

/-- The fibres of a restored team: every unparked one enters the pool. -/
def Fibre.back (f : Fibre) (base cycle : Nat) : Fibre := { f with base := base, entered := cycle, rel := .plain }

/-- The replay list's loads on the new cluster, each issue under a number of its own there. -/
def renumber (ps : List Pend) (slot base : Nat) : List Pend :=
  let ns := (ps.map (·.issue)).eraseDups
  ps.map fun p => { p with kind := .replay, slot := slot, issue := base + ((ns.findIdx? (· == p.issue)).getD 0) }

/-- Where a saved team may be restored on a cluster: under its own number once its retired pair is remapped (R15), else as the next
team of its class (R75, R277). -/
def State.restoreAt (s : State) (v : SavedTeam) (cl : Nat) : Option (Nat × List Nat) :=
  if !(v.accSaved || v.leader == cl) then none
  else match v.pin with
    | some c => if c = cl ∧ (atD s.spares (cl / 40) Spares.reset).pair = some (cl % 40 / 2) then s.fits cl v.team.need [] (some v) else none
    | none => match s.firstReady v.team.bulk with
      | none => none
      | some t =>
        let (n, own) := s.nextNeed t
        if own = some v then s.placeAt v.team.bulk cl n own else none

/-- Whether a line of a slot still waits at its home (R16, R29). -/
def State.slotHeld (s : State) (base : Nat) : Bool :=
  s.stalled.any (fun x => decide (base ≤ x.pa ∧ x.pa < base + 2 ^ 21)) || (List.range 8192).any fun l => s.lineWaits (base + 256 * l)

/-- The k-th saved team is placed on a cluster, from what its slot holds (R277). Its die applies the REPL updates that it has made and
that its reads may have returned, and it acquires, so that it reads nothing older than it has seen (R150, R162). -/
def State.teamRestore (s : State) (k cl : Nat) : State :=
  match s.saved[k]? with
  | none => s
  | some v =>
    match s.restoreAt v cl with
    | none => s
    | some (hls, bases) =>
      let base := s.slotBase v.die v.slot
      if s.slotHeld base then s else
      match s.fetch cl v.team.asid v.team.code.toNat 8 with
      | (.wait post, s) => if post then s.postReplay 3 cl v.team.asid v.team.code.toNat else s
      | (_, s) =>
        let c := s.cl cl
        let slot := c.freeSlot
        let get (o n : Nat) : List Byte := s.homeBytes (base + o) n
        let t := v.team.reload get
        let x := { t with
          slot := slot
          hls := hls
          inter := s.interAt cl v.team.asid v.team.code.toNat
          halted := false
          placedAt := s.placeNo
          fibres := ((List.range t.fib).map fun f => (t.fibre f).back (atD bases f 0) c.cycle) }
        let last := t.fibres.foldl (fun m f => max m (max f.repl f.saw)) 0
        let replay := replayOf v.replay get
        let s := { ((s.giveTiles cl t.acc (some v)).replApply (s.dieOf cl) last).acquire cl with
          saved := s.saved.eraseIdx k
          restoring := s.restoring.filter s.restores ++ [(v.die, v.slot, cl, slot)]
          placeNo := s.placeNo + 1 }
        (s.modCl cl fun c => { c with
          teams := c.teams ++ [x]
          pend := c.pend ++ renumber replay slot c.nextId
          nextId := c.nextId + replay.length }).gbarWake

/-- TEAM_RESTORE (R277). -/
def execTeamRestore (k cl : Nat) (s : State) : Out := .next (if cl < 160 then s.teamRestore k cl else s)

/-- The tiles that a saved team kept in its pair are written to its slot (R278). -/
def State.saveTiles (s : State) (v : SavedTeam) : State :=
  if v.accSaved then s
  else
    let base := s.slotBase v.die v.slot
    let s := s.putImage base ((List.range v.team.acc).flatMap v.team.tileImage)
    let s := s.putImage base [(0, v.team.slotHeader (replaySectors v.replay).length true v.leader)]
    { s with saved := s.saved.map fun x => if x = v then { v with accSaved := true } else x }

/-- The next team of a class: what it needs, and which saved team it is. -/
def State.nextTeam (s : State) (bulk : Bool) : Option (Need × Option SavedTeam) := (s.firstReady bulk).map s.nextNeed

/-- Whether the next team of a class may be placed or restored on a cluster now (R75, R277). -/
def State.nextGoes (s : State) (bulk : Bool) (cl : Nat) : Bool :=
  match s.nextTeam bulk with
  | none => false
  | some (n, none) => (s.placeAt bulk cl n none).isSome
  | some (_, some v) => (s.restoreAt v cl).isSome

/-- Whether the next team of a class could go to the leader where a saved team keeps its tiles, but for the tiles that saved teams
keep there (R278). -/
def State.tilesWanted (s : State) (v : SavedTeam) : Bool :=
  let freed (own : Option SavedTeam) : State :=
    { s with saved := s.saved.map fun x => if x.leader == v.leader && some x != own then { x with accSaved := true } else x }
  [true, false].any fun bulk => match s.nextTeam bulk with
    | none => false
    | some (_, own) => own != some v && !s.nextGoes bulk v.leader && (freed own).nextGoes bulk v.leader

/-- ACC_TILE_SAVE (R278): the tiles kept in the pair are saved when a placement on the leader needs their room. -/
def execAccTileSave (k : Nat) (s : State) : Out :=
  .next (match s.saved[k]? with
    | none => s
    | some v => if s.tilesWanted v then s.saveTiles v else s)

end Sys2Proof.Machine
end

