-- ==== Sys2Proof/Machine/Former.lean ====
section
/-!
DEFINITION. Machine/Former.lean: the cohort former (R180 to R183, R186, R188, R191), the split threshold (R184 D6), and the
ends of SLEEP and YIELD (R359, R360).
-/
namespace Sys2Proof.Machine

/-! ### Groups (R180, R186, R188) -/

/-- A group of the pool: its PC, its members by ascending index, and how they were released. -/
structure Group where
  pc  : Nat
  rel : Rel
  fs  : List Nat
deriving DecidableEq, Repr

/-- The release that keeps a group apart: CSYNC and JWAIT groups stay whole, every other fibre is pooled by PC alone. -/
def Rel.key : Rel → Rel
  | .join id a => .join id a
  | .csync s id => .csync s id
  | _ => .plain

/-- The pool of a team as the former sees it in cycle t. -/
def poolOf (k : Cluster) (t : Team) : List Nat :=
  let held := (k.cohorts.filter fun h => h.team == t.slot).flatMap (·.fibres)
  t.live.filter fun f => !(t.fibre f).parked && !held.contains f && decide ((t.fibre f).entered + 1 ≤ k.cycle)

/-- The pool's groups; fibres in trap mode are grouped apart from the others (R268). -/
def groupsOf (k : Cluster) (t : Team) : List Group :=
  let pool := poolOf k t
  let keyOf (f : Nat) : Nat × Rel × Bool := ((t.fibre f).pc.toNat, (t.fibre f).rel.key, (t.fibre f).tm)
  ((pool.map keyOf).eraseDups).map fun x => ⟨x.1, x.2.1, pool.filter fun f => keyOf f == x⟩

/-- Entry cycle of a group's oldest fibre. -/
def Group.oldest (g : Group) (t : Team) : Nat := (minNat? (g.fs.map fun f => (t.fibre f).entered)).getD 0

/-- Number of the release a JWAIT or CSYNC group came by. -/
def Group.release (g : Group) : Option Nat :=
  match g.rel with
  | .join id _ => some id
  | .csync _ id => some id
  | _ => none

def Group.isCsync (g : Group) : Bool := match g.rel with | .csync .. => true | _ => false

/-- Whether a group is ready in the cluster's present cycle (R180). -/
def Group.ready (g : Group) (k : Cluster) (t : Team) : Bool :=
  g.release.isSome || decide (g.fs.length ≥ t.width) || decide (g.oldest t + t.fto.toNat ≤ k.cycle)
    || t.live.all fun f => g.fs.contains f || (t.fibre f).parked

/-- Whether the keys of one group come before another's: the first that differs decides. -/
def keysBefore : List Nat → List Nat → Bool
  | a :: as, b :: bs => if a = b then keysBefore as bs else decide (a < b)
  | _, _ => false

/-- The order of R181 and R186: a CSYNC release first; then aged groups, the oldest first; then JWAIT releases, the earliest
(whose fibres entered first) first; then the oldest fibre; then the lower PC. -/
def Group.keys (g : Group) (k : Cluster) (t : Team) : List Nat :=
  let old := g.oldest t
  let aged := decide (old + 256 ≤ k.cycle)
  if g.isCsync then [0, g.release.getD 0, 0, 0, g.pc]
  else [1, b2n (!aged), if aged then old else 0, b2n g.release.isNone, old, g.pc]

/-- Whether group a comes before group b (R181, R186). -/
def Group.before (k : Cluster) (t : Team) (a b : Group) : Bool := keysBefore (a.keys k t) (b.keys k t)

/-- The group the former chooses. -/
def chooseGroup (k : Cluster) (t : Team) : Option Group :=
  (sortBy (Group.before k t) ((groupsOf k t).filter fun g => g.ready k t)).head?

/-- The fibres taken (R182): the first W, the longest waiting one always among them; a released group goes by rank. -/
def Group.take (g : Group) (t : Team) : List Nat :=
  let w := t.width
  let first := g.fs.take w
  if g.release.isSome || decide (g.fs.length ≤ w) then first
  else
    let old := g.oldest t
    if first.any fun f => (t.fibre f).entered == old then first
    else match g.fs.find? fun f => (t.fibre f).entered == old with
      | some f => first.dropLast ++ [f]
      | none => first

/-! ### The cohort (R183, R184, R186) -/

/-- Lanes of a half: home lanes on the slice first, then the lowest lanes still free. -/
def halfLanes (t : Team) (slice : Nat) (fs : List Nat) : List Nat :=
  let home (f : Nat) : Option Nat := if t.homeLane f / 32 = slice then some (t.homeLane f % 32) else none
  let own := fs.map fun f => match home f with
    | some l => if (fs.find? fun g => home g == some l) == some f then some l else none
    | none => none
  let used := own.filterMap id
  let free := (List.range 32).filter fun l => !used.contains l
  (own.foldl (fun (acc : List Nat × List Nat) o => match o with
    | some l => (acc.1 ++ [l], acc.2)
    | none => (acc.1 ++ [acc.2.headD 0], acc.2.drop 1)) ([], free)).1

def lanesOf (t : Team) (slice : Nat) (fs : List Nat) : List Nat :=
  halfLanes t slice (fs.take 32) ++ halfLanes t slice (fs.drop 32)

/-- The slice a cohort goes to (R183). -/
def sliceFor (k : Cluster) (mc : Bool) (used : List Nat) (t : Team) (fs : List Nat) : Option Nat :=
  let open' := (List.range (if mc then 1 else 6)).filter fun j =>
    !used.contains j && decide ((k.cohorts.filter fun h => h.slice == j).length < 16)
  let homes (j : Nat) : Nat := (fs.filter fun f => t.homeLane f / 32 == j).length
  (sortBy (fun a b => decide (homes a > homes b)) open').head?

/-- The lowest cohort slot of a slice that is free. -/
def Cluster.freeCohort (k : Cluster) (slice : Nat) : Nat :=
  ((List.range 16).find? fun n => k.cohorts.all fun h => !(h.slice == slice && h.slot == n)).getD 0

/-- The formation set (R184): s when every fibre comes from one release of set s. -/
def formationSet (t : Team) (fs : List Nat) : Nat :=
  match fs with
  | [] => 0
  | f :: r =>
    let rel := (t.fibre f).rel
    if r.all fun g => (t.fibre g).rel == rel then
      (match rel with
        | .bar s _ => s
        | .csync s _ => s
        | _ => 0)
    else 0

/-- Whether a cohort of a group is aligned (R186). -/
def Group.aligned (g : Group) : Bool :=
  match g.rel with
  | .csync .. => true
  | .join _ a => a
  | _ => false

/-- A cohort joins its slice, whose ratio is to be 8, whatever it was on its way to (R85). -/
def State.addCohort (s : State) (c : Nat) (h : Cohort) : State :=
  let s := s.modCl c fun k => { k with
    cohorts := k.cohorts ++ [h]
    nextId := k.nextId + 1
    ratioTo := if c < 160 then modAt k.ratioTo h.slice fun _ =>
      if s.regFld (clOff c + 0x08) (4 * h.slice) 4 = 8 then none else some 8 else k.ratioTo }
  (s.countCl c 0x140 1).countCl c 0x144 (b2n h.aligned)

/-- One cohort of a REFORM team, if a group is ready and a slice has room: the slice it took. -/
def State.formOne (s : State) (c : Nat) (used : List Nat) (t : Team) : Option Nat × State :=
  let k := s.cl c
  match chooseGroup k t with
  | none => (none, s)
  | some g =>
    let fs := g.take t
    match sliceFor k t.mc used t fs with
    | none => (none, s)
    | some j =>
      let h := Cohort.make k.nextId t.slot j (k.freeCohort j) none fs (lanesOf t j fs)
      (some j, s.addCohort c { h with aligned := g.aligned, fset := formationSet t fs })

/-- The next cohort of a FIXED team that is not on its slice yet (R191): once, when the team has been placed or restored, whether or
not a fibre of it lives; it counts as aligned (R187, R430). -/
def State.formFixed (s : State) (c : Nat) (used : List Nat) (t : Team) : Option Nat × State :=
  let k := s.cl c
  let w := t.width
  let there (n : Nat) : Bool := k.cohorts.any fun h => h.team == t.slot && h.fixed == some n
  let members (n : Nat) : List Nat := (List.range t.fib).filter fun f => f / w == n
  let ready (n : Nat) : Bool :=
    let j := t.homeLane (n * w) / 32
    !there n && !used.contains j
      && decide ((k.cohorts.filter fun h => h.slice == j).length < 16)
  match (List.range ((t.fib + w - 1) / w)).find? ready with
  | none => (none, s)
  | some n =>
    let j := t.homeLane (n * w) / 32
    (some j, s.addCohort c
      { Cohort.make k.nextId t.slot j (k.freeCohort j) (some n) (members n) ((members n).map (· % 32)) with aligned := true })

/-- Whether the former serves a team: it is neither halted nor ended, and its replay list has been re-issued (R270, R277). -/
def formable (k : Cluster) (t : Team) : Bool :=
  !t.halted && !t.ended && k.pend.all fun p => !(p.kind == .replay && p.slot == t.slot)

/-- One cycle of the former (R181): the teams in turn, one cohort a team and one a slice; once a cycle. -/
def State.form (s : State) (c : Nat) : State :=
  if (s.cl c).formed = some (s.cl c).cycle then s else
  let s := s.modCl c fun k => { k with formed := some k.cycle }
  let slots := sortNat ((s.cl c).teams.map (·.slot))
  let rr := (s.cl c).rr
  let order := (slots.filter fun n => decide (n > rr)) ++ slots.filter fun n => decide (n ≤ rr)
  match order with
  | [] => s
  | first :: _ =>
    let s := (order.foldl (fun (acc : List Nat × State) n =>
      match acc.2.team? c n with
      | none => acc
      | some t =>
        if !formable (acc.2.cl c) t then acc
        else
          let (j, s) := if t.fixed then acc.2.formFixed c acc.1 t else acc.2.formOne c acc.1 t
          (acc.1 ++ j.toList, s)) ([], s)).2
    s.modCl c fun k => { k with rr := first }

/-- Whether the former has a cohort to form in a cluster's present cycle. -/
def State.formDue (s : State) (c : Nat) : Bool :=
  (s.cl c).formed != some (s.cl c).cycle && ((s.form c).cl c).cohorts.length != (s.cl c).cohorts.length

/-- COHORT_FORMATION (R181). -/
def execCohortFormation (cl : Nat) (s : State) : Out := .next (s.form cl)

/-! ### The split threshold (R184 D6) -/

/-- SPLIT_THRESHOLD_EXPIRY: fibres whose registers are full go to the pool, the others park until theirs fill. The threshold is
that of the cycle in which the instruction was first blocked (R177). -/
def State.split (s : State) (c id : Nat) : State :=
  match s.ctxOf c id with
  | none => s
  | some x =>
    match x.co.blocked with
    | none => s
    | some (since, thr, l) =>
      let empty (f : Nat) : List Nat := (l.filter fun p => p.1 == f && !((x.fib f).reg p.2).full).map (·.2)
      if decide ((s.cl c).cycle ≤ since + 2 ^ (thr + 4)) || x.fs.all (fun f => (empty f).isEmpty)
          || x.co.part.isSome then s
      else
        let s := (s.countCl c 0x14C 1).dissolve c id
        x.fs.foldl (fun s f =>
          let e := empty f
          if e.isEmpty then s.toPool c x.co.team f (x.fib f).pc .plain 0
          else s.modFibre c x.co.team f fun y => { y with wait := .d6 e }) s

/-- Whether a cohort's split threshold has expired in a cluster's present cycle. -/
def State.splitDue (s : State) (c : Nat) : Bool :=
  (s.cl c).cohorts.any fun h => h.blocked.isSome && (((s.split c h.id).cohort? c h.id).bind (·.blocked)).isNone

/-- Whether a cluster's former or split threshold counts cycles: fibres stand in a pool, or a cohort is blocked. -/
def Cluster.counts (k : Cluster) : Bool :=
  k.cohorts.any (·.blocked.isSome) || k.teams.any fun t =>
    t.live.any fun f => !(t.fibre f).parked && !(k.cohorts.any fun h => h.team == t.slot && h.fibres.contains f)

/-- The cycles of a cluster that pass with a step: any number, but none while the former has a cohort to form or a split is due, and
one at a time while they may come to be, so that each comes in its cycle (R3, R181, R184; log entries 2 and 86). -/
def State.cyclesNow (s : State) (c : Nat) : Nat :=
  let n := Config.cycles c s.free
  if !(s.cl c).counts then n else if s.formDue c || s.splitDue c then 0 else min n 1

/-- SPLIT_THRESHOLD_EXPIRY. -/
def execSplitThresholdExpiry (cl id : Nat) (s : State) : Out := .next (s.split cl id)

/-! ### SLEEP and YIELD -/

/-- SLEEP_WAKE (R360): the cohort goes on; fibres of restored teams whose time has come enter the pool. -/
def State.wakeSleep (s : State) (c id : Nat) : State :=
  let cyc := (s.cl c).cycle
  let due (f : Fibre) : Bool := match f.wait with
    | .sleep t => f.live && decide (t ≤ s.ptime)
    | _ => false
  s.modCl c fun k => { k with
    cohorts := k.cohorts.map fun (h : Cohort) => match h.hold with
      | .sleep t => if h.id = id ∧ t ≤ s.ptime then { h with hold := .none } else h
      | _ => h
    teams := k.teams.map fun (t : Team) =>
      if t.fibres.any due then { t with fibres := t.fibres.map fun f => if due f then f.wake cyc .plain else f } else t }

/-- SLEEP_WAKE. -/
def execSleepWake (cl id : Nat) (s : State) : Out := .next (s.wakeSleep cl id)

/-- YIELD_RELEASE (R359): every other cohort of the slice that could issue has issued since, or 16 cycles of the slice
have passed. -/
def State.yieldEnd (s : State) (c id : Nat) : State :=
  match s.cohort? c id with
  | none => s
  | some h =>
    match h.hold with
    | .yielded t =>
      let others := (s.cl c).cohorts.all fun o =>
        o.slice != h.slice || o.id == h.id || decide (o.issued > h.issued) || !s.offered c o
      if others || decide (16 ≤ s.pipeSince c h.slice t) then s.modCohort c id fun k => { k with hold := .none } else s
    | _ => s

/-- YIELD_RELEASE. -/
def execYieldRelease (cl id : Nat) (s : State) : Out := .next (s.yieldEnd cl id)

end Sys2Proof.Machine
end

