-- ==== Sys2Proof/Machine/Queue.lean ====
section
/-!
DEFINITION. Machine/Queue.lean: the front end (R30 to R45): reading packets, the checks of R39, acceptance, completion,
doorbells and queue control.
-/
namespace Sys2Proof.Machine

/-! ### The ring (R31, R36 to R39) -/

/-- U, the units of a ring (R31). -/
def Queue.units (k : Queue) : Nat := 2 ^ (k.size + 6)

/-- Whether the front end parses a queue (R33, R34). -/
def Queue.parses (k : Queue) : Bool := k.enable && (k.state == .running || k.state == .waiting)

/-- Whether ring reads of a queue get through (R21, R30). With its function's link down the queue stays as it is, which R21 does
not say (log entry 118). -/
def State.ringOk (s : State) (k : Queue) : Bool := isLocal k.ring || (isHost k.ring && s.linkUp k.fn)

/-- Bytes of the ring from unit `head`. -/
def State.ringBytes (s : State) (k : Queue) (n : Nat) : List Byte := s.homeBytes (k.ring + k.head.toNat % k.units * 64) n

/-- The packet at a queue's head (R37). -/
structure Packet where
  hdr   : DWord
  bytes : List Byte
deriving DecidableEq, Repr

def Packet.ty (p : Packet) : Nat := fld p.hdr.toNat 0 8
def Packet.len (p : Packet) : Nat := fld p.hdr.toNat 8 8
def Packet.flags (p : Packet) : Nat := fld p.hdr.toNat 16 8
/-- The little-endian value of body bytes. -/
def Packet.at' (p : Packet) (o n : Nat) : Nat := leVal ((p.bytes.drop o).take n)

/-- The types of R38. -/
def packetTypes : List Nat := [0x01, 0x02, 0x03, 0x10, 0x11, 0x12, 0x20, 0x21, 0x22, 0x30, 0x40]

/-- Body bytes from `o` to the end of the first unit that must be zero (R37). -/
def Packet.zeroFrom (p : Packet) (o : Nat) : Bool := ((p.bytes.take 64).drop o).all (· == 0)

/-- LEN and body of a type (R38, R39 check 4). -/
def Packet.bodyOk (p : Packet) : Bool :=
  let one := p.len == 1
  match p.ty with
  | 0x01 => true
  | 0x02 => p.flags == 0
  | 0x03 => one && decide (p.at' 8 8 ≤ 1) && p.zeroFrom 16
  | 0x10 => (one || p.len == 3) && p.zeroFrom 16
  | 0x11 => one && p.at' 8 8 % 8 == 0 && decide (1 ≤ p.at' 16 4 ∧ p.at' 16 4 ≤ 4096) && p.zeroFrom 20
  | 0x12 => one && decide (1 ≤ p.at' 16 1 ∧ p.at' 16 1 ≤ 3) && p.zeroFrom 17
  | 0x20 => one && decide (1 ≤ p.at' 24 8 ∧ p.at' 24 8 ≤ 2 ^ 40) && decide (p.at' 40 2 < 2 ^ 14) && p.zeroFrom 42
  | 0x21 => one && decide (p.at' 16 2 < 2 ^ 14) && p.zeroFrom 18
  | 0x22 => one && decide (p.at' 16 2 < 2 ^ 14) && p.zeroFrom 18
  | 0x30 => one && p.at' 26 2 == 0 && p.zeroFrom 36
  | _ => one && p.at' 8 8 % 4096 == 0 && decide (1 ≤ p.at' 16 4 ∧ p.at' 16 4 ≤ 2 ^ 24) && decide (p.at' 20 1 < 4) && p.zeroFrom 21

/-- Checks 1 to 4 of R39: the code of the first that fails. A poisoned first unit is MALFORMED (log entry 119). -/
def Packet.fault (p : Packet) (k : Queue) (poisoned : Bool) : Option Nat :=
  if p.len = 0 then some 3
  else if k.head.toNat % k.units + p.len > k.units then some 1
  else if !packetTypes.contains p.ty then some 2
  else if decide (p.hdr.toNat ≥ 2 ^ 24) || decide (p.flags ≥ 8) || !p.bodyOk || poisoned then some 3
  else none

/-- What the front end finds at the head of a queue. -/
inductive Look where
  | none
  | halt (code : Nat) (p : Packet)
  | held (p : Packet)            -- R40: an ordering rule holds it back
  | full (p : Packet)            -- R36: the graph window is full
  | page (p : Packet) (va : Nat) (post : Bool)
  | launch (p : Packet) (as : List Nat) (ts : List Tcb)
  | go (p : Packet)
deriving DecidableEq, Repr

/-- Units of the packet at the head of a queue, as its header says and as far as the ring goes. -/
def State.packetLen (s : State) (k : Queue) : Nat := min (max (fld (leVal (s.ringBytes k 8)) 8 8) 1) (k.units - k.head.toNat % k.units)

/-- Whether a BAR4 write of a queue's function that came before its last doorbell still waits (R160). -/
def State.barBefore (s : State) (k : Queue) : Bool := s.stalled.any fun x => x.fn == some k.fn && decide (x.no < k.bell)

/-- The packet at the head, when the queue holds one (R31) and its ring can be read, no line of it waiting at its home (R16,
R29), and whether its first unit and one of the others lie in poisoned sectors. -/
def State.packetAt (s : State) (q : Nat) : Option (Packet × Bool × Bool) :=
  let k := s.queue q
  if !k.parses || k.head == k.tail || !s.ringOk k then none
  else
    let n := s.packetLen k
    let at' (i : Nat) : Nat := k.ring + (k.head.toNat % k.units + i) * 64
    if ((List.range n).any fun i => s.lineWaits (at' i)) || s.barBefore k then none
    else
      let bad (i : Nat) : Bool := s.poisoned (at' i) || (s.l2At (at' i / 64) == 0 && (s.latent.lookup (at' i / 64)).getD 0 != 0)
      some (⟨BitVec.ofNat 64 (leVal (s.ringBytes k 8)), s.ringBytes k (64 * n)⟩, bad 0, (List.range (n - 1)).any fun i => bad (i + 1))

/-- What reading the packet at the head finds of errors in HBM (R145). -/
def State.ringScan (s : State) (q : Nat) : State :=
  match s.packetAt q with
  | some (p, _) =>
    let k := s.queue q
    s.demandHome ((List.range p.bytes.length).map (k.ring + k.head.toNat % k.units * 64 + ·))
  | none => s

/-- Earlier packets of a queue's present epoch that are not complete (R35). -/
def State.earlier (s : State) (q : Nat) : List Pkt :=
  s.pkts.filter fun p => p.q == q && p.epoch == (s.queue q).epoch

/-- Whether a pending packet is a TL_WAIT; a TL_SIGNAL. -/
def PktWait.isWait : PktWait → Bool
  | .wait .. => true
  | _ => false
def PktWait.isSignal : PktWait → Bool
  | .signal .. => true
  | _ => false
/-- Whether a pending packet leaves its queue WAITING, so that it is not served (R36): a TL_WAIT (R40) or a MEM_ATTR (R108). A
pending FENCE holds no later packet back (R40; log entry 71). -/
def PktWait.stops : PktWait → Bool
  | .wait .. => true
  | .memattr _ => true
  | _ => false

/-- Whether the ordering rules of R37 and R40 hold a packet back, which leaves the queue WAITING and so not served (R32, R36). -/
def State.orderHeld (s : State) (q : Nat) (p : Packet) : Bool :=
  let e := s.earlier q
  e.any (·.wait.stops)
    || ((bitOf p.flags 0 || p.ty == 0x03 || p.ty == 0x40) && !e.isEmpty)

/-- The TCB addresses a launching packet names, their TCBs read and checked (R39 step 6). -/
def State.lookTcbs (s : State) (asid : Nat) (p : Packet) (as : List Nat) : Look × State :=
  match s.feTcbs asid as with
  | (.wait va post, s) => (.page p va post, s)
  | (.bad, s) => (.halt 5 p, s)
  | (.ok ts, s) =>
    let ok := if p.ty = 0x10 then ts.all launchable else graphOk as ts
    (if ok then .launch p as ts else .halt 5 p, s)

/-- Check 6 of LAUNCH_TASK: with LEN = 3 the TCB is copied to its address first (R38); poisoned in the ring it is unreadable. -/
def State.lookLaunch (s : State) (asid : Nat) (p : Packet) (poisoned : Bool) : Look × State :=
  let a := p.at' 8 8
  if p.len = 3 then
    if poisoned ∨ a % 128 ≠ 0 ∨ a ≥ 2 ^ 48 then (.halt 5 p, s)
    else match s.fePut asid a ((p.bytes.drop 64).take 128) with
      | (.ok .., s) => s.lookTcbs asid p [a]
      | (.wait post, s) => (.page p a post, s)
      | (_, s) => (.halt 5 p, s)
  else s.lookTcbs asid p [a]

/-- Check 6 of GRAPH_SUBMIT. -/
def State.lookGraph (s : State) (asid : Nat) (p : Packet) : Look × State :=
  let n := p.at' 16 4
  match s.feRead asid (p.at' 8 8) (8 * n) with
  | (.wait va post, s) => (.page p va post, s)
  | (.bad, s) => (.halt 5 p, s)
  | (.ok bs, s) => s.lookTcbs asid p ((List.range n).map fun i => leVal ((bs.drop (8 * i)).take 8))

/-- The head of a queue under R36 to R40; the state differs only where page walks and a TCB copy have gone ahead. The ordering
holds come before the checks of R39, which does not place them (log entry 119). -/
def State.look (s : State) (q : Nat) : Look × State :=
  match s.packetAt q with
  | none => (.none, s)
  | some (p, bad, badBody) =>
    let k := s.queue q
    if s.orderHeld q p then (.held p, s)
    else match p.fault k bad with
    | some c => (.halt c p, s)
    | none =>
      if p.ty > 2 ∧ !(s.space k.asid).live then (.halt 4 p, s)
      else if p.ty = 0x10 then
        (if s.windowFree = 0 then (.full p, s) else s.lookLaunch k.asid p badBody)
      else if p.ty = 0x11 then
        (if s.windowFree < p.at' 16 4 then (.full p, s) else s.lookGraph k.asid p)
      else if p.ty = 0x20 then (if s.windowFree = 0 then .full p else .go p, s)
      else if p.ty = 0x40 then
        let base := p.at' 8 8
        let n := p.at' 16 4
        (if base + 4096 * n > 2 ^ 48 then .halt 3 p
          else if s.leavesWait k.asid base n then .page p base false
          else if s.attrOk k.asid base n then .go p else .halt 3 p, s)
      else (.go p, s)

/-- Whether a queue would be served now (R36). -/
def Look.served : Look → Bool
  | .halt .. => true
  | .launch .. => true
  | .go _ => true
  | _ => false

/-- The place of a queue's class and priority among those that are served in turn (R36). -/
def Queue.level (k : Queue) : Nat := 8 * b2n k.bulk + k.prio

/-- Order of service (R36): class, priority, then round-robin after the equal served last. -/
def State.serveKey (s : State) (q : Nat) : Nat :=
  let k := s.queue q
  (b2n k.bulk * 8 + (7 - k.prio)) * 16384 + (q + 16384 - atD s.rrQueue k.level 0 % 16384 - 1) % 16384

/-- The queue served next. -/
def State.serveNext (s : State) : Option Nat :=
  let ready := (s.queues.map (·.1)).filter fun q => (s.look q).1.served
  match minNat? (ready.map s.serveKey) with
  | none => none
  | some m => ready.find? fun q => s.serveKey q == m

/-! ### STATE of QSTAT, acceptance and halting -/

/-- RUNNING or WAITING, as the head of the queue now stands (R32). -/
def State.settleQueue (s : State) (q : Nat) : State :=
  let k := s.queue q
  if !k.parses then s
  else
    let waits := (s.earlier q).any (·.wait.stops) || (match s.packetAt q with | some (p, _) => s.orderHeld q p | none => false)
    s.setQueue q { k with state := if waits then .waiting else .running }

/-- HEAD_WB (R30): the head written as 8 bytes (log entry 75) through the bound function (R21); with its link down nothing is
written then or later (log entry 118), nor at an address that is neither local HBM nor host memory, of which R30 says nothing
(DESIGN CHOICE, log entry 75). -/
def State.headBack (s : State) (q : Nat) : State :=
  let k := s.queue q
  let pa := k.wb / 8 * 8
  if k.wb = 0 ∨ !(isLocal pa || (isHost pa && s.linkUp k.fn)) then s else s.homeWriteVal pa 8 k.head.toNat

/-- The head passes the packet (R36); what it still waits for is entered. -/
def State.accept (s : State) (q : Nat) (p : Packet) (wait : Option PktWait) : State :=
  let k := s.queue q
  let s := { s with
    rrQueue := modAt s.rrQueue k.level fun _ => q
    pktNext := s.pktNext + 1
    pkts := match wait with
      | some w => s.pkts ++ [Pkt.mk s.pktNext q k.epoch p.hdr k.head k.asid w]
      | none => s.pkts }
  ((s.setQueue q { k with head := k.head + BitVec.ofNat 32 p.len }).headBack q).settleQueue q

/-- A failed packet (R39): the queue halts, its error record is posted and VEC raised. -/
def State.halt (s : State) (q code : Nat) (p : Packet) : State :=
  let k := s.queue q
  let s := { s.setQueue q { k with state := .halted, err := BitVec.ofNat 8 code } with rrQueue := modAt s.rrQueue k.level fun _ => q }
  s.postEvent (some q) 0 code p.hdr.toNat k.head.toNat true

/-- The tasks a pending packet waits for. -/
def PktWait.seqs : PktWait → List Nat
  | .tasks l => l
  | _ => []

/-- PKT_DONE when the packet asks for it (R37, R43), behind the write-backs of its tasks (R62). -/
def State.reportDone (s : State) (q : Nat) (hdr : DWord) (seqs : List Nat) : State :=
  if bitOf hdr.toNat 17 then s.postAfter seqs (some q) 0 0x10 hdr.toNat 0 (bitOf hdr.toNat 18) else s

/-- A pending packet is complete. -/
def State.pktDone (s : State) (p : Pkt) : State :=
  (State.reportDone { s with pkts := s.pkts.filter fun x => x.ord != p.ord } p.q p.hdr p.wait.seqs).settleQueue p.q

/-- Packets whose tasks are all complete are complete themselves, their records following the tasks' (R38, R44). -/
def State.drainPkts (s : State) : State :=
  s.pkts.foldl (fun s p => match p.wait with
    | .tasks seqs => if s.allDone seqs then s.pktDone p else s
    | _ => s) s

/-- One packet event: the packet of the queue that R36 serves now, of the type the event names. -/
def State.packet (s : State) (q : Nat) (types : Packet → Bool) (go : State → Nat → Packet → State) : State :=
  let s := s.ringScan q
  match s.look q with
  | (.page _ va post, t) => if post then t.postReplay 4 0xFFFF (s.queue q).asid va else t
  | (.none, _) => s
  | (.held _, _) => s.settleQueue q
  | (.full _, _) => s
  | (l, t) =>
    if s.serveNext ≠ some q then s
    else match l with
      | .halt c p => if types p then t.halt q c p else s
      | .launch p as ts =>
        if !types p then s
        else
          let k := s.queue q
          let (seqs, t) := t.acceptTasks k.asid as ts (some q) k.head
          (t.accept q p (some (.tasks seqs))).drainPkts
      | .go p => if types p then go t q p else s
      | _ => s

/-! ### Packets (R38, R40) -/

/-- A packet that is complete once it is accepted. -/
def State.acceptDone (s : State) (q : Nat) (p : Packet) : State := (s.accept q p none).reportDone q p.hdr []

/-- NOP; a packet of no known type halts under this event too (R39). -/
def execPacketNop (q : Nat) (s : State) : Out :=
  .next (s.packet q (fun p => p.ty == 0x01 || !packetTypes.contains p.ty) State.acceptDone)
/-- SKIP. -/
def execPacketSkip (q : Nat) (s : State) : Out := .next (s.packet q (fun p => p.ty == 0x02) State.acceptDone)
/-- FENCE. -/
def execFence (q : Nat) (s : State) : Out :=
  .next (s.packet q (fun p => p.ty == 0x03) fun s q p => s.accept q p (some .fence))
/-- LAUNCH_TASK (R62). -/
def execLaunchTask (q : Nat) (s : State) : Out := .next (s.packet q (fun p => p.ty == 0x10) fun s _ _ => s)
/-- GRAPH_SUBMIT (R65). -/
def execGraphSubmit (q : Nat) (s : State) : Out := .next (s.packet q (fun p => p.ty == 0x11) fun s _ _ => s)

/-- TASK_CTRL (R81): the action on a FAULTED task, else CTRL_IGNORED; check 6 of R39 is not made of its address (log entry 119). -/
def State.taskCtrl (s : State) (q : Nat) (p : Packet) (act : State → Task → State) : State :=
  let k := s.queue q
  match s.ctrlTarget k.asid (p.at' 8 8) with
  | some x => ((act (s.accept q p none) x).drainPkts).reportDone q p.hdr [x.seq]
  | none => ((s.accept q p none).postEvent (some q) 1 0x12 (p.at' 8 8) 0 true).reportDone q p.hdr []

/-- RELEASE is applied once the task is DONE (R81, R249): the packet waits for it. -/
def State.taskRelease (s : State) (q : Nat) (p : Packet) : State :=
  match s.ctrlTarget (s.queue q).asid (p.at' 8 8) with
  | some x => (State.ctrlRelease (s.accept q p (some (.tasks [x.seq]))) x).drainPkts
  | none => s.taskCtrl q p State.ctrlRelease

/-- A TASK_CTRL of an action; a malformed action halts under RESUME's event. -/
def ctrlType (a : Nat) (p : Packet) : Bool := p.ty == 0x12 && (p.at' 16 1 == a || (a == 1 && !(decide (1 ≤ p.at' 16 1 ∧ p.at' 16 1 ≤ 3))))

/-- TASK_CTRL RESUME. -/
def execTaskCtrlResume (q : Nat) (s : State) : Out :=
  .next (s.packet q (ctrlType 1) fun s q p => s.taskCtrl q p State.ctrlResume)
/-- TASK_CTRL RELEASE. -/
def execTaskCtrlRelease (q : Nat) (s : State) : Out :=
  .next (s.packet q (ctrlType 2) State.taskRelease)
/-- TASK_CTRL CANCEL_CHAIN. -/
def execTaskCtrlCancelChain (q : Nat) (s : State) : Out :=
  .next (s.packet q (ctrlType 3) fun s q p => s.taskCtrl q p State.ctrlCancel)

/-- COPY: a task of two regions. -/
def execCopy (q : Nat) (s : State) : Out :=
  .next (s.packet q (fun p => p.ty == 0x20) fun s q p =>
    let k := s.queue q
    let j : CopyJob := ⟨p.at' 8 8, p.at' 16 8, p.at' 24 8, BitVec.ofNat 64 (p.at' 32 8), BitVec.ofNat 16 (p.at' 40 2)⟩
    let (n, s) := s.acceptCopy k.asid k.prio k.bulk q k.head j
    s.accept q p (some (.tasks [n])))

/-- TL_SIGNAL accepted. -/
def execTlSignal (q : Nat) (s : State) : Out :=
  .next (s.packet q (fun p => p.ty == 0x21) fun s q p =>
    s.accept q p (some (.signal (BitVec.ofNat 16 (p.at' 16 2)) (BitVec.ofNat 64 (p.at' 8 8)))))

/-- TL_WAIT accepted. -/
def execTlWait (q : Nat) (s : State) : Out :=
  .next (s.packet q (fun p => p.ty == 0x22) fun s q p =>
    s.accept q p (some (.wait (BitVec.ofNat 16 (p.at' 16 2)) (BitVec.ofNat 64 (p.at' 8 8)))))

/-- STEP_DECLARE (R90): a rejected one posts STEP_REJECTED. -/
def execStepDeclare (q : Nat) (s : State) : Out :=
  .next (s.packet q (fun p => p.ty == 0x30) fun s q p =>
    let s := s.accept q p none
    let id := p.at' 32 4
    let ref := p.at' 24 2
    let (st, s) := s.declareStep false (BitVec.ofNat 32 id) (BitVec.ofNat 16 ref) (BitVec.ofNat 64 (p.at' 16 8))
      (BitVec.ofNat 64 (p.at' 8 8)) (BitVec.ofNat 32 (p.at' 28 4)) (some q) (some (s.queue q).asid)
    let s := if st = 4 then s.postEvent (some q) 2 0x13 (id + ref * 2 ^ 32) 0 true else s
    s.reportDone q p.hdr [])

/-- MEM_ATTR accepted: step 1 of the class change (R144). -/
def execMemAttr (q : Nat) (s : State) : Out :=
  .next (s.packet q (fun p => p.ty == 0x40) fun s q p =>
    let n := s.pktNext
    let asid := (s.queue q).asid
    (s.accept q p (some (.memattr n))).attrStart ⟨n, asid, p.at' 8 8, p.at' 16 4, p.at' 20 1, false⟩)

/-! ### Completions -/

/-- The oldest pending packet of a queue that satisfies a test, of whichever epoch it is (R35). -/
def State.pending (s : State) (q : Nat) (test : Pkt → Bool) : Option Pkt := s.pkts.find? fun p => p.q == q && test p

/-- Earlier packets of the same queue and epoch are all complete. -/
def State.oldest (s : State) (p : Pkt) : Bool :=
  s.pkts.all fun x => !(x.q == p.q && x.epoch == p.epoch && decide (x.ord < p.ord))

/-- FENCE_COMPLETE (R38): the writes of what earlier packets did, completed or cancelled, in the space the queue had then, stand at
home and on every die. -/
def execFenceComplete (q : Nat) (s : State) : Out :=
  .next (match s.pending q fun p => p.wait == .fence && s.oldest p with
    | some p =>
      if s.spaceHeld p.asid then s else (s.releaseSpace p.asid).pktDone p
    | none => s)

/-- TL_WAIT_COMPLETE (R40): the value is reached, or the counter is in the error state. -/
def execTlWaitComplete (q : Nat) (s : State) : Out :=
  let met (p : Pkt) : Bool := match p.wait with
    | .wait ref v => (s.timeline ref.toNat).failed || decide (v.toNat ≤ (s.timeline ref.toNat).value.toNat)
    | _ => false
  .next (match s.pending q met with
    | some p => (match p.wait with
      | .wait ref _ =>
        if (s.timeline ref.toNat).failed then
          (s.postEvent (some q) 0 0x14 p.hdr.toNat (s.queue q).head.toNat true).pktDone p
        else s.pktDone p
      | _ => s)
    | none => s)

/-- TL_SIGNAL_FIRE (R40, R406): earlier packets are complete and no number holds the signal back; the counters only
hardware writes are left unchanged (R405). -/
def execTlSignalFire (q : Nat) (s : State) : Out :=
  let ready (p : Pkt) : Bool := match p.wait with
    | .signal ref v => s.oldest p && !s.tlBlocked ref.toNat v && !s.sigs.any fun x => x.1 == ref.toNat && x.2.2 == [q]
    | _ => false
  .next (match s.pending q ready with
    | some p => (match p.wait with
      | .signal ref v => (if hwCounter ref.toNat then s else (s.tlApply ref.toNat v).tlDrain).pktDone p
      | _ => s)
    | none => s)

/-- Whether a pending packet is a MEM_ATTR whose class change is over (R144). -/
def State.attrOver (s : State) : PktWait → Bool
  | .memattr k => s.memattr.all fun m => m.k != k
  | _ => false

/-- MEM_ATTR_COMPLETE (R144): the second bump is over. -/
def execMemAttrComplete (q : Nat) (s : State) : Out :=
  .next (match s.pending q fun p => s.attrOver p.wait with
    | some p => s.pktDone p
    | none => s)

/-! ### Doorbells and queue control (R32 to R35, R45) -/

/-- The virtual function a doorbell page belongs to: the lowest-numbered whose range holds it. -/
def State.pageOwner (s : State) (page : Nat) : Option Nat :=
  (List.range 31).map (· + 1) |>.find? fun n =>
    let x := (s.reg (0x1600 + 16 * n)).toNat
    decide (fld x 0 8 ≤ page ∧ page < fld x 0 8 + fld x 8 8)

/-- The queue a slot of a function's BAR0 reaches, when it is bound to that function (R21, R45). -/
def State.doorQueue (s : State) (d : DoorFn) (q : Nat) : Option Nat :=
  match d with
  | .pf0 => if q < 16384 && s.linkUp false then some q else none
  | .pf1 => if q < 16384 && s.linkUp true then some q else none
  | .vf n =>
    let x := (s.reg (0x1600 + 16 * n)).toNat
    let page := fld x 0 8 + q / 64
    if s.linkUp false && decide (1 ≤ n ∧ n ≤ 31) && decide (q / 64 < fld x 8 8) && s.pageOwner page == some n then
      some (page * 64 + q % 64) else none

/-- Whether a queue is bound to the function of a doorbell: a virtual one must match VF, a physical one FN. -/
def Queue.boundTo (k : Queue) : DoorFn → Bool
  | .pf0 => !k.fn
  | .pf1 => k.fn
  | .vf n => !k.fn && k.vf == n

/-- QTAIL (R33). -/
def State.doorbell (s : State) (q : Nat) (v : Word) : State :=
  let k := s.queue q
  if !(k.state == .running || k.state == .waiting) then s
  else if (v - k.head).toNat ≤ k.units then (s.setQueue q { k with tail := v, bell := s.stallNo }).settleQueue q
  else (s.setQueue q { k with dberr := true }).postEvent (some q) 0 0x15 v.toNat k.head.toNat true

/-- QTAIL. -/
def execQtail (d : DoorFn) (q : Nat) (v : Word) (s : State) : Out :=
  .next (match s.doorQueue d q with
    | some n => if (s.queue n).boundTo d then s.doorbell n v else s
    | none => s)

/-- Where the descriptor of a queue stands (R30). -/
def State.descAt (s : State) (q : Nat) : Nat := s.regFld 0x100 12 40 * 4096 + 64 * q

/-- The descriptor of a queue (R30), and whether R34 refuses it. -/
def State.descriptor (s : State) (q : Nat) : Bool × Queue :=
  let a := s.descAt q
  let w (i : Nat) : Nat := leVal (s.homeBytes (a + 8 * i) 8)
  let k := s.queue q
  let d : Queue := { k with
    ring := fld (w 0) 12 40 * 4096
    evr := fld (w 1) 35 10
    vec := fld (w 1) 24 11
    vf := fld (w 1) 19 5
    fn := bitOf (w 1) 18
    asid := fld (w 1) 8 10
    prio := fld (w 1) 5 3
    bulk := bitOf (w 1) 4
    size := fld (w 1) 0 4
    wb := w 2 }
  let bad := fld (w 0) 52 12 != 0 || fld (w 0) 0 12 != 0 || fld (w 1) 45 19 != 0 || ([3, 4, 5, 6, 7].any fun i => w i != 0)
    || decide (d.size > 12) || (d.fn && d.vf != 0) || (d.fn && decide (d.vec ≥ 64))
  (bad, d)

/-- A queue starts with the descriptor read (R34). While the descriptor's line waits at its home the queue is enabled and stays
DISABLED (R16, R29). A BAD_QD record goes by the EVR and VEC of the refused descriptor itself, and has no packet whose header and
head it could carry; R34 says neither (DESIGN CHOICE, log entry 119). -/
def State.queueStart (s : State) (q : Nat) : State :=
  if s.lineWaits (s.descAt q) then s.modQueue q fun k => { k with enable := true } else
  let s := (s.demandHome [s.descAt q]).touchBy none [s.descAt q]
  let (bad, d) := s.descriptor q
  let d := { d with enable := true, head := 0, tail := 0, err := 0, bell := 0 }
  if bad then (s.setQueue q { d with state := .halted, err := 6 }).postEvent (some q) 0 6 0 0 true
  else s.setQueue q { d with state := .running }

/-- Queues that are enabled and DISABLED, their descriptors having waited, start (R16, R29, R34). -/
def State.queueResume (s : State) : State :=
  s.queues.foldl (fun s x => if x.2.enable && x.2.state == .disabled then s.queueStart x.1 else s) s

/-- A write through a physical function reaches every queue's QCTL; through a virtual function, its own queues'. -/
def State.ctlQueue (s : State) (d : DoorFn) (q : Nat) : Option Nat := s.doorQueue d q

/-- ENABLE set (R34). A HALTED queue accepts nothing until it is reset (R35), so it stays HALTED (log entry 120). -/
def State.queueEnable (s : State) (q : Nat) : State :=
  if (s.queue q).enable then s
  else if (s.queue q).state = .halted then s.modQueue q fun k => { k with enable := true }
  else s.queueStart q

/-- ENABLE cleared (R34): parsing stops; head, tail and pending packets stay. -/
def State.queueDisable (s : State) (q : Nat) : State :=
  if (s.queue q).enable then s.modQueue q fun k => { k with
    enable := false, state := if k.state = .halted then .halted else .disabled }
  else s

/-- QCTL_ENABLE (R34): from 0 to 1. -/
def execQctlEnable (d : DoorFn) (q : Nat) (s : State) : Out :=
  .next (match s.ctlQueue d q with
    | some n => s.queueEnable n
    | none => s)

/-- QCTL_DISABLE (R34). -/
def execQctlDisable (d : DoorFn) (q : Nat) (s : State) : Out :=
  .next (match s.ctlQueue d q with
    | some n => s.queueDisable n
    | none => s)

/-- A queue reset (R34, R35). -/
def State.queueReset (s : State) (q : Nat) (enable : Bool) : State :=
  let s := s.modQueue q fun k => { k with
    head := 0, tail := 0, err := 0, dberr := false, state := .disabled, enable := enable, epoch := k.epoch + 1 }
  let s := { s with pkts := s.pkts.filter fun p => !(p.q == q && p.wait.isWait) }
  if enable then s.queueStart q else s

/-- QCTL_RESET (R34). -/
def execQctlReset (d : DoorFn) (q : Nat) (enable : Bool) (s : State) : Out :=
  .next (match s.ctlQueue d q with
    | some n => s.queueReset n enable
    | none => s)

/-- FUNCTION_LEVEL_RESET (R34): every queue bound to the function. -/
def execFunctionLevelReset (d : DoorFn) (s : State) : Out :=
  .next ((s.queues.filter fun x => x.2.boundTo d).foldl (fun s x => s.queueReset x.1 x.2.enable) s)

/-- A register of a doorbell slot written, `v` under the bit mask `wm` (R32 to R34). -/
def State.slotWrite (s : State) (d : DoorFn) (q reg v wm : Nat) : State :=
  let k := s.queue q
  match reg with
  | 0 => if k.boundTo d then s.doorbell q (BitVec.ofNat 32 ((k.tail.toNat - (k.tail.toNat &&& wm)) ||| (v &&& wm))) else s
  | 8 => if bitOf (v &&& wm) 2 then s.setQueue q { k with dberr := false } else s
  | 12 =>
    let en := if bitOf wm 0 then bitOf v 0 else k.enable
    if bitOf (v &&& wm) 1 then s.queueReset q en else if en then s.queueEnable q else s.queueDisable q
  | _ => s

/-- A write of n bytes from an offset of a function's BAR0 (R20, R32, R45), the registers it reaches in ascending order. -/
def State.bar0Store (s : State) (d : DoorFn) (off n v : Nat) : State :=
  let words := (List.range ((off % 4 + n + 3) / 4)).map fun k => off / 4 * 4 + 4 * k
  words.foldl (fun s w => match s.doorQueue d (w / 64) with
    | none => s
    | some q =>
      let lo := max off w
      let hi := min (off + n) (w + 4)
      if hi ≤ lo then s
      else
        let b := 8 * (hi - lo)
        s.slotWrite d q (w % 64) (fld v (8 * (lo - off)) b * 2 ^ (8 * (lo - w))) ((2 ^ b - 1) * 2 ^ (8 * (lo - w)))) s

/-- VF_ASSIGN_WRITE (R45). -/
def execVfAssignWrite (n : Nat) (ev : Bool) (v : DWord) (s : State) : Out :=
  .next (if 1 ≤ n ∧ n ≤ 31 then s.regStore (0x1600 + 16 * n + 8 * b2n ev) 8 v.toNat else s)

end Sys2Proof.Machine
end

