-- ==== Sys2Proof/Machine/Global.lean ====
section
/-!
DEFINITION. Machine/Global.lean: global barriers (R198, R200), timeline writes (R407), address-space commands and their
ends (R105 to R121), cache maintenance and the scrubber (R127, R136, R145).
-/
namespace Sys2Proof.Machine

/-! ### Global barriers (R198, R200) -/

/-- GBAR_DIE_FORWARD: a die sends its sum of team arrivals to D0, when it has reached EXPECT or the combining window ends. -/
def State.gbarForward (s : State) (die b : Nat) : State :=
  let g := s.gbar b
  let n := atD g.sums die 0
  if die ≥ 4 ∨ b ≥ 256 ∨ n = 0 then s
  else s.setGbar b { g with sums := modAt g.sums die fun _ => 0, flight := modAt g.flight die (· + n) }

/-- GBAR_DIE_FORWARD. -/
def execGbarDieForward (die b : Nat) (s : State) : Out := .next (s.gbarForward die b)

/-- D0 adds a die's sum; PHASE advances once for each EXPECT arrivals. -/
def State.gbarArrive (s : State) (die b : Nat) : State :=
  let g := s.gbar b
  let n := atD g.flight die 0
  if die ≥ 4 ∨ b ≥ 256 ∨ n = 0 then s
  else
    let c := g.count.toNat + n
    let e := g.expect.toNat
    let g := { g with flight := modAt g.flight die fun _ => 0 }
    s.setGbar b (if e = 0 then { g with count := BitVec.ofNat 16 c }
      else { g with phase := g.phase + BitVec.ofNat 16 (c / e), count := BitVec.ofNat 16 (c % e) })

/-- GBAR_D0_ARRIVAL. -/
def execGbarD0Arrival (die b : Nat) (s : State) : Out := .next (s.gbarArrive die b)

/-- GBAR_RELEASE: the die receives one release, and its waiting fibres go (R198, R199). -/
def State.gbarRelease (s : State) (die b : Nat) : State :=
  let g := s.gbar b
  let p := atD g.dphase die 0
  if die ≥ 4 ∨ b ≥ 256 ∨ p = g.phase then s
  else (s.setGbar b { g with dphase := modAt g.dphase die (· + 1) }).gbarWake

/-- GBAR_RELEASE. -/
def execGbarRelease (die b : Nat) (s : State) : Out := .next (s.gbarRelease die b)

/-- GB_CTL_WRITE (R200): `size` bytes from byte `off` of GB_CTL b. -/
def execGbCtlWrite (b off size : Nat) (v : DWord) (s : State) : Out :=
  .next (if b < 256 ∧ off + size ≤ 8 then s.regStore (0xC00 + 8 * b + off) size v.toNat else s)

/-! ### Timeline counters (R407) -/

/-- TL_VALUE_WRITE. -/
def execTlValueWrite (die k : Nat) (v : DWord) (s : State) : Out :=
  .next (if die < 4 ∧ k < 4096 then s.regStore (tlOff die k) 8 v.toNat else s)

/-- TL_ERRV_WRITE. -/
def execTlErrvWrite (die k : Nat) (v : DWord) (s : State) : Out :=
  .next (if die < 4 ∧ k < 4096 then s.regStore (tlOff die k + 16) 8 v.toNat else s)

/-! ### Address spaces (R107, R108) -/

/-- A write of ASCMD. -/
def State.ascmdWrite (s : State) (op : Nat) (asid : BitVec 10) : State := s.regStore 0x908 4 (asid.toNat + op * 2 ^ 10)

/-- ASCMD_QUERY. -/
def execAscmdQuery (asid : BitVec 10) (s : State) : Out := .next (s.ascmdWrite 0 asid)
/-- ASCMD_ACTIVATE. -/
def execAscmdActivate (asid : BitVec 10) (s : State) : Out := .next (s.ascmdWrite 1 asid)
/-- ASCMD_BUMP. -/
def execAscmdBump (asid : BitVec 10) (s : State) : Out := .next (s.ascmdWrite 2 asid)
/-- ASCMD_RETIRE. -/
def execAscmdRetire (asid : BitVec 10) (s : State) : Out := .next (s.ascmdWrite 3 asid)

/-- BUMP_COMPLETE (R108): the k-th bump under way ends; write-backs that waited for its pages are tried again. -/
def execBumpComplete (k : Nat) (s : State) : Out := .next (s.bumpFinish k).drainNotices
/-- RETIRE_COMPLETE (R107). -/
def execRetireComplete (s : State) : Out := .next s.retireComplete
/-- RPL_DONE (R117). -/
def execRplDone (v : DWord) (s : State) : Out := .next (s.regStore 0x928 8 v.toNat)

/-- Whether something of an agent waits for, or runs on, a page of a space. -/
def State.wantsPage (s : State) (agent asid vpn : Nat) : Bool :=
  if agent ≥ 161 then
    s.xfers.any (fun x => x.asid == asid) || s.tasks.any (fun t => t.asid == asid)
      || (s.clusters.any fun k => k.teams.any fun t => t.space == asid && !t.matq.isEmpty)
  else
    let k := s.cl agent
    (k.pend.any fun p => p.isLoad && s.pendSpace agent p == asid && (match p.access with
      | some (va, _, _) => va / 4096 == vpn
      | none => false))
    || k.teams.any fun t => t.space == asid && t.fibres.any fun f => f.live && f.pc.toNat / 4096 == vpn

/-- PAGE_WALK_COMPLETE (R113): the walk of a page that an agent needs fills its TLB and sets ACCESSED. -/
def execPageWalkComplete (agent asid vpn : Nat) (s : State) : Out :=
  .next (if agent < 165 ∧ s.wantsPage agent asid vpn = true then (s.xlate agent asid (4096 * vpn) 0).2 else s)

/-- MIG_GO (R120). -/
def execMigGo (v : Word) (s : State) : Out := .next (s.regStore 0x950 4 v.toNat)
/-- MIGRATION_COMPLETE (R121). -/
def execMigrationComplete (s : State) : Out := .next s.migFinish

/-! ### Caches (R127, R136) and the scrubber (R145) -/

/-- L1_EVICTION (R127): the line's dirty bytes go home, the rest is dropped; numbers from 161 name the RDCs of dies 0 to 3, whose
partials are merged first (R126, R142). -/
def execL1Eviction (cl line : Nat) (s : State) : Out :=
  .next (if cl ≤ 160 then s.evictLine cl line else if cl < 165 then s.evictRdc (cl - 161) line else s)

/-- REPL_UPDATE_APPLY (R136): the die applies the next number. -/
def execReplUpdateApply (die : Nat) (s : State) : Out :=
  .next (let n := atD s.repl.applied die 0
    if die < 4 ∧ n + 1 < s.repl.next then s.replApply die (n + 1) else s)

/-! ### Errors in memories (R145, R147) -/

/-- A soft error logged (R147): corrected, or beyond correction; no poison origin is known (log entry 113). -/
def State.softLog (s : State) (bad : Bool) (die unit index addr : Nat) : State :=
  if bad then (s.errLog 1 die unit index 1 addr 0xFFFF).mcRaise 1 else s.errCorrected die unit index addr 0

/-- Word n of the tiles poisoned by an error of its memory. -/
def Team.poisonWord (t : Team) (n : Nat) : Team :=
  { t with
    tiles := Tab.set 0 (Tab.set 0 t.tiles (2 * n) 0x7FC0FFFF) (2 * n + 1) 0x7FC0FFFF
    accPois := Tab.set none t.accPois n (some 0xFFFF) }

/-- An error of a word of L1 `c` in sector n (R147). -/
def State.softL1 (s : State) (c n : Nat) (bad : Bool) : State :=
  let dirty := (s.cl c).dirty.any fun x => x.1 / 64 == n
  let copy := s.dir.any fun e => e.owner == some c && e.line == n / 4 && e.masks.any fun m => m.1 == c && m.2.any fun o => o / 64 == n % 4
  -- modified bytes of a privatised copy, and a word the table keeps in the L1 (log entry 122)
  let held := (s.dir.any fun e => e.owner == some c && e.line == n / 4 && e.dirty.any fun o => o / 64 == n % 4)
    || s.svt.any fun e => e.scope == .cluster c && e.word / 8 == n
  let log (s : State) (bad : Bool) : State := s.softLog bad (c / 40) 0 (c % 40) (64 * n)
  if c ≥ 160 ∨ !(dirty || copy || held || ((s.cl c).sector? n).isSome) then s
  else if !bad then log s false
  else if dirty then log (s.modCl c fun k => { k with dpois := insSorted n k.dpois }) true
  else if held then log (s.setPois n true) true
  else if copy then log { s with dir := s.dir.map fun e => if e.owner = some c ∧ e.line = n / 4 then { e with owner := none } else e } false
  else log ((s.dropPref c (· == n)).modCl c fun k => { k with clean := k.clean.filter fun x => x.no != n }) false

/-- An error of a word of the RDC of a die in sector n: a copy is fetched again, a partial is modified data (R127, R147). -/
def State.softRdc (s : State) (d n : Nat) (bad : Bool) : State :=
  let part (p : Partial) : Bool := p.die == d && p.pa / 64 == n
  let log (s : State) (bad : Bool) : State := s.softLog bad d 1 (homeSlice (64 * n)) (64 * n)
  if d ≥ 4 ∨ !(s.partials.any part || (atD s.rdc d []).any fun x => x.no == n) then s
  else if !bad then log s false
  else if s.partials.any part then log (State.setPois { s with partials := s.partials.filter fun p => !part p } n true) true
  else log { s with rdc := modAt s.rdc d fun l => l.filter fun x => x.no != n } false

/-- An error of a memory with a code of its own (R147); n is a sector, or an 8-byte word of a team's scratchpad or tiles. -/
def State.softError (s : State) (n : Nat) (bad : Bool) : SoftPlace → State
  | .l1 c => s.softL1 c n bad
  | .rdc d => s.softRdc d n bad
  | .l2 =>
    let log (s : State) (bad : Bool) : State := s.softLog bad (homeDie (64 * n)) 1 (homeSlice (64 * n)) (64 * n)
    (match s.l2At n, bad with
      | 0, _ => s
      | _, false => log s false
      | 1, true => log (s.l2Drop (· == n)) false
      | _, true => log (s.setPois n true) true)
  | .scratch c slot => (match s.team? c slot with
    | some t => if c < 160 ∧ n < t.scr * 128 then
        (if bad then s.modTeam c slot fun t => { t with scrPois := insSorted n t.scrPois } else s).softLog bad (c / 40) 0 (c % 40) 0
      else s
    | none => s)
  | .acc c slot => (match s.team? c slot with
    | some t => if c < 160 ∧ n < t.acc * 16384 then
        (if bad then s.modTeam c slot fun t => t.poisonWord n else s).softLog bad (c / 40) 0 (c % 40) 0
      else s
    | none => s)

/-- The scrubber finds a sector beyond correction: HBM holds the poison codeword from then on, under the L2's copy if there is
one (R145, R146). -/
def State.scrubBad (s : State) (n : Nat) : State :=
  let s := { s with latent := s.latent.filter fun x => x.1 != n }
  (if s.l2At n = 0 then s.setPois n true else { s with latent := s.latent ++ [(n, 2)] }).errMemory (64 * n) 0xFFFF

/-- The scrubber reads what HBM holds of a sector, whatever the L2 has (R145). -/
def State.scrubRead (s : State) (n : Nat) : State :=
  match s.latent.lookup n with
  | some 0 => State.errCorrected { s with latent := s.latent.filter fun x => x.1 != n } (homeDie (64 * n)) 2 (hbmChannel (64 * n)) (64 * n) 0
  | some 1 => s.scrubBad n
  | _ => s

/-- PATROL_SCRUB (R145): one 64-byte sector of local HBM is read, and what is wrong in it is found; or something goes wrong
that a later read will find, or that a memory's own code finds (R147; log entry 121). -/
def execPatrolScrub (sector : Nat) (found : SectorState) (s : State) : Out :=
  .next (let pa := 64 * sector
    if !isLocal pa then s
    else match found with
      | .clean => s.scrubRead sector
      | .corrected => s.errCorrected (homeDie pa) 2 (hbmChannel pa) pa 0
      | .uncorrectable => if s.poisoned pa then s else s.scrubBad sector
      | .decay bad => if s.poisoned pa then s
        else { s with latent := s.latent.filter (fun x => x.1 != sector)
            ++ [(sector, max (b2n bad) ((s.latent.lookup sector).getD 0))] }
      | .soft place bad => s.softError sector bad place)

end Sys2Proof.Machine
end

