-- ==== Sys2Proof/Machine/Governor.lean ====
section
/-!
DEFINITION. Machine/Governor.lean: cluster settings (R83 to R85, R453), sensing (R88, R89), the projection and the risk state of
steps (R91 to R97), power pressure (R98), throttling and the matrix budget (R99 to R101).
-/
namespace Sys2Proof.Machine

/-! ### Settings (R83, R84, R92, R94) -/

/-- Whether a cluster has a resident team. -/
def Cluster.hasTeam (k : Cluster) : Bool := k.teams.any fun t => !t.ended
/-- Whether a cluster is attributed to a step (R92, R97). -/
def Cluster.forStep (k : Cluster) (id : Word) : Bool := k.teams.any fun t => !t.ended && !t.halted && t.step != 0 && t.step == id
/-- Whether a follower works for its leader: the leader's matrix queues hold an operation (R453). -/
def State.follows (s : State) (cl : Nat) : Bool := cl % 2 == 1 && (s.cl (cl - 1)).teams.any fun t => !t.matq.isEmpty
/-- Whether a cluster is attributed to a step, by a team of its own or with its leader (R92, R453). -/
def State.attributedTo (s : State) (id : Word) (cl : Nat) : Bool :=
  (s.cl cl).forStep id || (s.follows cl && (s.cl (cl - 1)).forStep id)
/-- Number of clusters attributed to a step. -/
def State.attributed (s : State) (id : Word) : Nat := ((List.range 160).filter fun cl => s.attributedTo id cl).length

/-- The setting of a cluster: VCODE and FCODE (R83). -/
def State.setting (s : State) (cl : Nat) : Nat × Nat := (s.regFld (clOff cl) 16 7, s.regFld (clOff cl) 0 7)
/-- The setting a cluster has, or is changing to. -/
def State.aimed (s : State) (cl : Nat) : Nat × Nat := (s.cl cl).vfNext.getD (s.setting cl)
/-- A clock with the lowest voltage fused for it (R83). -/
def atClock (cl f : Nat) : Nat × Nat := ((Config.minVcode cl f).toNat, f)

/-- The highest FCODE the governor may set, and the one for busy unattributed clusters (R104). -/
def State.fmax (s : State) : Nat := min (s.regFld 0x808 23 7) 90
def State.deff (s : State) : Nat := min (s.regFld 0x808 16 7) s.fmax
/-- PLIM in W (R89). -/
def State.plim (s : State) : Nat := s.regFld 0x808 40 12

/-- f_hi of a step as an FCODE (R93): the highest that PLIM and FMAXC leave every attributed cluster at once, the others as
they are, by the governor's own estimate of power; 0 when not even that fits (log entry 109). -/
def State.fhi (s : State) (p : Step) : Nat :=
  ((List.range (s.fmax + 1)).reverse.find? fun f => decide (Config.powerAt
    ((List.range 160).map fun cl => if s.attributedTo p.id cl then atClock cl f else s.setting cl) ≤ s.plim)).getD 0

/-- How far the governor gives way to PLIM (R94; log entry 109): choices for attributed clusters, busy unattributed ones at DEFF;
choices for these too; no choices, and DEFF; and then FCODE 0 for every cluster that no step at risk holds. -/
inductive GovLevel where
  | attributed
  | lowered
  | plain
  | low
deriving DecidableEq, Repr

/-- The setting of a cluster by its own teams (R92, R94, R104). `hi`: f_hi by step. -/
def State.ownSetting (s : State) (choice : Nat → Option (Nat × Nat)) (lv : GovLevel) (hi : List (Nat × Nat)) (cl : Nat) : Nat × Nat :=
  let k := s.cl cl
  let mine := s.steps.filter fun p => k.forStep p.id
  let risky := mine.filter (·.risk)
  let top (ps : List Step) : Nat := ps.foldl (fun m p => max m ((hi.lookup p.slot).getD 0)) 0
  let ok (x : Nat × Nat) : Bool := decide (x.2 ≤ s.fmax ∧ (Config.minVcode cl x.2).toNat ≤ x.1 ∧ x.1 ≤ 70)
    && (if mine.isEmpty then lv == .lowered && decide (x.2 ≤ s.deff)
      else if risky.length = mine.length then x.2 == top risky else decide (top risky ≤ x.2))
  let own := atClock cl (if lv = .low then top risky else if mine.isEmpty then s.deff else if risky.isEmpty then top mine else top risky)
  if s.regFld 0x808 0 1 = 0 then (if s.online cl then atClock cl s.deff else s.setting cl)
  else if !k.hasTeam then atClock cl 0
  else match (if lv = .attributed ∨ lv = .lowered then choice cl else none) with
    | some x => if ok x then x else own
    | none => own

/-- The setting of a cluster: a follower that works for its leader's step takes the leader's, or the higher of the two
clocks when it holds a team of its own (R453). -/
def State.settingFor (s : State) (choice : Nat → Option (Nat × Nat)) (lv : GovLevel) (hi : List (Nat × Nat)) (cl : Nat) : Nat × Nat :=
  let own := s.ownSetting choice lv hi cl
  if s.regFld 0x808 0 1 = 0 || !s.follows cl || !(s.steps.any fun p => (s.cl (cl - 1)).forStep p.id) then own
  else
    let lead := s.ownSetting choice lv hi (cl - 1)
    if (s.cl cl).hasTeam && decide (lead.2 ≤ own.2) then own else (max lead.1 (Config.minVcode cl lead.2).toNat, lead.2)

/-- The settings decided at a boundary, by cluster, where R83, R92 and R94 allow them: the first level that stays within PLIM
(R94; log entry 109). -/
def State.settingsNow (s : State) (g : GovInput) (hi : List (Nat × Nat)) : List (Nat × Nat) :=
  let all (lv : GovLevel) := (List.range 160).map (s.settingFor (fun cl => g.settings.lookup cl) lv hi)
  let fit (l : List (Nat × Nat)) : Bool := decide (Config.powerAt l ≤ s.plim)
  if s.regFld 0x808 0 1 = 0 ∨ fit (all .attributed) = true then all .attributed
  else if fit (all .lowered) then all .lowered
  else if fit (all .plain) then all .plain
  else all .low

/-- A setting decided: a faster one raises the voltage first (R84). -/
def State.aimAt (s : State) (cl : Nat) (x : Nat × Nat) : State :=
  if x = s.aimed cl then s
  else
    let s := if x.1 > s.regFld (clOff cl) 16 7 then s.setRegFld (clOff cl) 16 7 x.1 else s
    s.modCl cl fun k => { k with vfNext := some x }

/-- The clock history from package time t0 on, newest first, with the clock then in force. -/
def clocksFrom (t0 : Nat) : List (Nat × Nat) → List (Nat × Nat)
  | [] => []
  | x :: r => if x.1 ≤ t0 then [x] else x :: clocksFrom t0 r

/-- CLOCK_SWITCH (R84): the clock changes, and a lower voltage follows. -/
def State.clockSwitch (s : State) (cl : Nat) : State :=
  match (s.cl cl).vfNext with
  | none => s
  | some (v, f) =>
    ((s.setRegFld (clOff cl) 0 7 f).setRegFld (clOff cl) 16 7 v).modCl cl fun k => { k with
      vfNext := none
      clocks := (s.ptime, f) :: clocksFrom (s.ptime - 100000) k.clocks }

/-- CLOCK_SWITCH. -/
def execClockSwitch (cl : Nat) (s : State) : Out := .next (if cl < 160 then s.clockSwitch cl else s)

/-- A ratio in force from the present cycle (R85). -/
def State.setRatio (s : State) (cl slice k : Nat) : State :=
  if s.regFld (clOff cl + 8) (4 * slice) 4 = k then s
  else (s.setRegFld (clOff cl + 8) (4 * slice) 4 k).modCl cl fun c => { c with
    ratioAt := modAt c.ratioAt slice fun _ => c.cycle
    cohorts := c.cohorts.map fun (h : Cohort) => if h.slice = slice then { h with
      rest := (max c.cycle h.rest.1, h.rest.2 - s.pipeSince cl slice h.rest.1) } else h }

/-- SLICE_RATIO_CHANGE (R85): a ratio decided takes effect. -/
def execSliceRatioChange (cl slice ratio : Nat) (s : State) : Out :=
  .next (if cl < 160 ∧ slice < 6 ∧ atD (s.cl cl).ratioTo slice none = some ratio then
      (s.setRatio cl slice ratio).modCl cl fun k => { k with ratioTo := modAt k.ratioTo slice fun _ => none }
    else s)

/-! ### Sensing and budgets (R88, R99, R101) -/

/-- V × I in 1/256 W: VCODE gives V (R83), I is in 1/256 A; rounded down (log entry 16). -/
def powerOf (vcode cur : Nat) : Nat := min (cur * (550 + 5 * vcode) / 1000) 0xFFFF

/-- CURRENT_SAMPLE (R88) of local cluster k of a die, once each period of 1 us: CUR is what is sensed, PWR follows from it at the
present voltage. -/
def execCurrentSample (die k : Nat) (cur : Half) (s : State) : Out :=
  let cl := 40 * die + k
  .next (if k < 40 ∧ cl < 160 ∧ ((s.cl cl).sampled + 1) * 1000 ≤ s.ptime then
      let off := clOff cl + 0x10
      let pwr := powerOf (s.setting cl).1 cur.toNat
      (((s.setRegFld off 0 16 (s.regFld off 0 16 + 1)).setRegFld off 16 16 cur.toNat).setRegFld off 32 16 pwr).modCl cl
        fun k => { k with sampled := k.sampled + 1, power := (k.power.1 + pwr, k.power.2 + 1) }
    else s)

/-- BUDGET_REFILL (R101), once each period of 1 us: LEVEL rises by RATE up to CAP. -/
def execBudgetRefill (leader : Nat) (s : State) : Out :=
  .next (if leader < 160 ∧ leader % 2 = 0 ∧ ((s.cl leader).refill + 1) * 1000 ≤ s.ptime then
      let off := clOff leader + 0x28
      let up : Int := s.mbLevel leader + s.regFld off 16 16
      let cap : Int := s.regFld off 0 16
      (s.setRegFld off 40 24 (wrap 24 (if up < cap then up else cap))).modCl leader fun k => { k with refill := k.refill + 1 }
    else s)

/-- CL_THROTTLE_WRITE (R99). -/
def execClThrottleWrite (cl : Nat) (v : Word) (s : State) : Out :=
  .next (if cl < 160 then s.regStore (clOff cl + 0x20) 4 v.toNat else s)

/-! ### Projection (R93) -/

/-- n divided by d, rounded up. -/
def ceilDiv (n d : Nat) : Nat := (n + d - 1) / d

/-- The clock of a cluster in MHz summed over the ns from ta to t (R93), from its history, newest first. -/
def clockArea (ta : Nat) : Nat → List (Nat × Nat) → Nat
  | _, [] => 0
  | t, x :: r => (t - max ta x.1) * (300 + 10 * x.2) + clockArea ta (min t x.1) r

/-- PROJ of a step at boundary t; none reads as all ones. The mean clock is taken over the attributed clusters and the window
at once, so that nothing is rounded before the end. -/
def State.project (s : State) (t : Nat) (p : Step) : DWord :=
  let at' := (List.range 160).filter fun cl => s.attributedTo p.id cl
  let n := at'.length
  let c := (s.timeline p.ref.toNat).value.toNat
  let ta := max (t - 100000) p.declared
  let ca := match p.samples.find? fun x => decide (x.1 ≤ ta) with
    | some x => x.2.toNat
    | none => c
  let area := (at'.map fun cl => clockArea ta t (s.cl cl).clocks).sum
  let fhi := 300 + 10 * s.fhi p
  let out (x : Nat) : DWord := BitVec.ofNat 64 (min x (2 ^ 64 - 2))
  if n = 0 then BitVec.allOnes 64
  else if c > ca then out (t + ceilDiv ((p.n.toNat - c) * area) ((c - ca) * (n * fhi)))
  else if p.e ≠ 0 then out (t + ceilDiv (max (p.e.toNat * 1024 - p.used) 1 * 1000) (n * fhi))
  else BitVec.allOnes 64

/-! ### Risk (R95, R96) -/

/-- A skipped handler launch is counted. -/
def State.handlerDrop (s : State) : State := s.setRegFld 0x810 32 16 (min (s.regFld 0x810 32 16 + 1) 0xFFFF)

/-- Whether a TCB stands in the graph window. -/
def State.inWindow (s : State) (asid a : Nat) : Bool := s.tasks.any fun t => t.asid == asid && t.tcba == a && t.copy.isNone

/-- A launch that waits for the window or for a page: its request is posted (R114). -/
def State.handlerWaits (s : State) (h : RiskLaunch) (kind : Nat) (va : Nat) (post : Bool) : State :=
  let s := if post then s.postReplay kind 0xFFFF h.asid va else s
  { s with handlers := s.handlers ++ [h] }

/-- A risk handler's launch, once the window has room and the pages it needs are there: the record, then the task; nothing is written
for one that is skipped (R96). -/
def State.handlerLaunch (s : State) (h : RiskLaunch) : State :=
  if s.inWindow h.asid h.tcb || !(s.space h.asid).live then s.handlerDrop
  else if s.windowFree = 0 then { s with handlers := s.handlers ++ [h] }
  else match s.feTcb h.asid h.tcb with
    | (.wait va p, s) => s.handlerWaits h 4 va p
    | (.bad, s) => s.handlerDrop
    | (.ok t, s) =>
      if !launchable t then s.handlerDrop
      else match s.engineXlate frontEnd h.asid t.frame 32 5 with
        | (.wait p, va, s) => s.handlerWaits h 5 va p
        | (.ok .., _, s) => ((s.fePut h.asid t.frame h.record).2.acceptTasks h.asid [h.tcb] [t] h.queue 0).2
        | (_, _, s) => s.handlerDrop

/-- Handlers that waited. -/
def State.drainHandlers (s : State) : State := s.handlers.foldl State.handlerLaunch { s with handlers := [] }

/-- The record that R96 writes to FRAME: the DEADLINE_RISK record of the step, with the PHASE its ring was at. -/
def State.riskRecord (s : State) (p : Step) (phase : Bool) : List Byte :=
  recBytes [0x20 + 2 * 2 ^ 8 + p.queue.getD 0 * 2 ^ 16 + b2n phase * 2 ^ 63, p.info, p.proj.toNat, s.ptime]

/-- PHASE of the next record of a queue's ring (R41). -/
def State.ringPhase (s : State) (q : Option Nat) : Bool :=
  match q with
  | none => false
  | some q =>
    let e := (s.queue q).evr
    let size := leVal (s.homeBytes (s.regFld 0x108 12 40 * 4096 + e * 16 + 8) 8) % 16
    ((s.reg (0x100000 + e * 16 + 4)).toNat / 2 ^ (size + 7)) % 2 == 0

/-- The risk handler of DG_RISKH (R96). -/
def State.riskHandler (s : State) (p : Step) (phase : Bool) : State :=
  let a := s.regFld 0x818 0 48
  if a = 0 then s else s.handlerLaunch ⟨s.regFld 0x818 48 10, a, p.queue, s.riskRecord p phase⟩

/-- One step at boundary t (R93, R95). -/
def State.boundaryStep (s : State) (t : Nat) (p : Step) : State :=
  let proj := s.project t p
  let none' := proj == BitVec.allOnes 64
  let now := (s.timeline p.ref.toNat).value
  let en := s.regFld 0x808 0 1 == 1
  let before := decide (t < p.t.toNat)
  let enter := en && before && !p.risk && !none' && decide (p.t.toNat < proj.toNat)
  let leave := before && p.risk && (none' || decide (proj.toNat + s.regFld 0x808 8 8 * 1000 ≤ p.t.toNat))
  let q : Step := { p with
    proj := proj
    risk := (p.risk || enter) && !leave
    samples := (t, now) :: p.samples.filter fun x => decide (x.1 + 200000 ≥ t) || x.1 == p.declared }
  let s := { s with steps := s.steps.map fun x => if x.slot = p.slot then q else x }
  if !enter then s
  else
    let phase := s.ringPhase p.queue
    ((s.postEvent p.queue 2 0x20 p.info proj.toNat false).mcRaise 5).riskHandler q phase

/-! ### The boundary (R85, R89, R94, R98, R101) -/

/-- The power of the interval in W (R89): each cluster's samples averaged, with the other figures; rounded down (log entry
16). A cluster without a sample in the interval counts with its last. -/
def State.meanPower (s : State) (uncore : Nat) : Nat :=
  (((List.range 160).map fun cl =>
    let p := (s.cl cl).power
    if p.2 = 0 then s.regFld (clOff cl + 0x10) 32 16 else p.1 / p.2).sum + uncore) / 256

/-- GOV, PRESS, OVER and MC_ISTAT bit 3 (R98). -/
def State.pressure (s : State) (power : Nat) : State :=
  let plim := s.plim
  let up := decide (power * 100 > plim * 97)
  let down := decide (power * 100 < plim * 90)
  let s := s.setRegFld 0x810 48 16 (min power 0xFFFF)
  let s := s.setRegFld 0x810 9 1 (b2n up)
  let s := if !up && !down then s else (List.range 160).foldl (fun s cl =>
    if !s.online cl then s
    else
      let v := s.regFld (clOff cl + 0x18) 8 6
      s.setRegFld (clOff cl + 0x18) 8 6 (if up then max (v - 1) 1 else min (v + 1) 32)) s
  let slow := (List.range 160).all fun cl => s.regFld (clOff cl) 0 7 == 0
  let n := if decide (power > plim) && slow then s.limitRun + 1 else 0
  let s := { s with limitRun := n }
  let s := if n = 5 then (s.setRegFld 0x810 10 1 1).mcRaise 3 else s
  if power ≤ plim then s.setRegFld 0x810 10 1 0 else s

/-- Slices that issued nothing in the interval go to 2/8, and the counts begin anew (R85). -/
def State.idleSlices (s : State) : State :=
  (List.range 160).foldl (fun s cl =>
    let s := (List.range 6).foldl (fun s j => if atD (s.cl cl).used j 0 = 0 then s.setRatio cl j 2 else s) s
    s.modCl cl fun k => { k with used := List.replicate 6 0 }) s

/-- The ratios chosen for attributed clusters are on their way (R85, R94). -/
def State.ratiosNow (s : State) (l : List (Nat × Nat × Nat)) : State :=
  l.foldl (fun s x =>
    if x.1 < 160 ∧ x.2.1 < 6 ∧ 2 ≤ x.2.2 ∧ x.2.2 ≤ 8 ∧ (s.steps.any fun p => s.attributedTo p.id x.1) = true then
      s.modCl x.1 fun k => { k with ratioTo := modAt k.ratioTo x.2.1 fun _ => some x.2.2 }
    else s) s

/-- INTERVAL_BOUNDARY (R93): the next multiple of 20,000 ns, which package time does not pass before it. What DG_CTL holds
then is in force (R89). While no management core runs, the governor goes on (R97). -/
def execIntervalBoundary (g : GovInput) (s : State) : Out :=
  .next (let t := s.lastInt + 20000
    if s.ptime < t then s
    else
      let s := State.pressure { s with lastInt := t } (s.meanPower g.uncore)
      let s := { s with clusters := s.clusters.map fun (k : Cluster) => { k with power := (0, 0) } }
      let s := (s.steps.map (·.slot)).foldl (fun s n => match s.steps.find? fun p => p.slot == n with
        | some p => s.boundaryStep t p
        | none => s) s
      let s := ((List.range 160).zip (s.settingsNow g (s.steps.map fun p => (p.slot, s.fhi p)))).foldl
        (fun s x => s.aimAt x.1 x.2) s
      let s := s.ratiosNow g.ratios
      let s := g.rates.foldl (fun s x =>
        if x.1 < 160 ∧ x.1 % 2 = 0 then s.setRegFld (clOff x.1 + 0x28) 16 16 x.2 else s) s
      s.idleSlices)

/-! ### Deadlines (R91) -/

/-- STEP_DEADLINE (R91): T is over with the counter below n; a write at T itself still meets the step. -/
def execStepDeadline (slot : Nat) (s : State) : Out :=
  .next (s.lateSteps fun p => p.slot == slot)

/-! ### Package time (R3, R50, R87, R88, R91, R101) -/

/-- The next package time at which an event is due: a boundary, the end of a deadline's nanosecond, a sample, a refill, the end of a
heartbeat. -/
def State.due (s : State) : Nat :=
  let d := s.steps.foldl (fun m p => min m (p.t.toNat + 1)) (s.lastInt + 20000)
  let d := if s.core.running then min d (s.core.beat + s.regFld 0x230 0 16 * 1000) else d
  (List.range 160).foldl (fun m cl =>
    let k := s.cl cl
    min (min m ((k.sampled + 1) * 1000)) (if cl % 2 = 0 then (k.refill + 1) * 1000 else m)) d

/-- Package time after a step: what passes is free, but it stands still while an event is due (log entry 2). -/
def State.timeNext (s : State) : Nat := max s.ptime (min (s.ptime + Config.elapsed s.free) s.due)

end Sys2Proof.Machine
end

