-- ==== Sys2Proof/Machine/Device.lean ====
section
/-!
DEFINITION. Machine/Device.lean: sparing (R14 to R17), links (R10, R21 to R24), fabric reduction windows (R25 to R29), writes
from outside (R160), boot, attestation and the management core's events (R48 to R56, R459), and register writes (R5).
-/
namespace Sys2Proof.Machine

/-! ### Sparing (R14 to R18) -/

/-- Spares of a die. -/
def State.spare (s : State) (die : Nat) : Spares := atD s.spares die Spares.reset
def State.modSpare (s : State) (die : Nat) (g : Spares → Spares) : State := { s with spares := modAt s.spares die g }

/-- A sparing event: its record (R14, R53, R448) and ERR_CORRECTED (R47). -/
def State.sparing (s : State) (die unit index detail : Nat) : State := (s.errLog 2 die unit index 1 0 detail).mcRaise 6

/-- A pair leaves service: its place on the spare pair, or the pair offline (R15). -/
def Spares.retirePair (sp : Spares) (p : Nat) : Spares :=
  match sp.pair with
  | none => { sp with pair := some p }
  | some _ => { sp with offline := insSorted p sp.offline }

/-- A team halted to return to the same cluster number (R15). -/
def State.haltPinned (s : State) (cl slot : Nat) : State :=
  (s.haltTeam cl slot).modTeam cl slot fun t => if t.halted then { t with pinned := true } else t

/-- CLUSTER_RETIRE (R15): the pair's teams are pre-empted first; once they and their tiles are saved the pair is remapped, and
they return to the same cluster numbers (State.restoreAt), or it goes offline, and they return wherever there is room. -/
def State.clusterRetire (s : State) (die loc : Nat) : State :=
  let p := loc / 2
  let c0 := die * 40 + 2 * p
  let ts (c : Nat) : List Nat := ((s.cl c).teams.filter fun t => !t.ended).map (·.slot)
  if die ≥ 4 ∨ loc ≥ 40 ∨ !s.core.running ∨ (s.spare die).offline.contains p then s
  else if !(ts c0).isEmpty || !(ts (c0 + 1)).isEmpty then
    (ts (c0 + 1)).foldl (fun s n => s.haltPinned (c0 + 1) n) ((ts c0).foldl (fun s n => s.haltPinned c0 n) s)
  else if !(s.cl c0).teams.isEmpty || !(s.cl (c0 + 1)).teams.isEmpty then s
  else
    let s := (s.saved.filter fun v => v.leader == c0).foldl State.saveTiles s
    let gone := (s.spare die).pair.isSome
    State.sparing { s.modSpare die (fun sp => sp.retirePair p) with
      saved := s.saved.map fun v => if gone && (v.pin == some c0 || v.pin == some (c0 + 1)) then { v with pin := none } else v }
      die 0 loc 0

/-- CLUSTER_RETIRE. -/
def execClusterRetire (die loc : Nat) (s : State) : Out := .next (s.clusterRetire die loc)

/-- L2_SLICE_RETIRE (R16): the writeback of the slice begins. -/
def execL2SliceRetire (die slice : Nat) (s : State) : Out :=
  .next (if die < 4 ∧ slice < 24 ∧ s.core.running ∧ !(s.spare die).draining.contains slice then
      s.modSpare die fun sp => { sp with draining := insSorted slice sp.draining }
    else s)

/-- The physical slice a retired logical slice goes to: the spare once, then the next logical slice's (R16). -/
def Spares.nextSlice (sp : Spares) (slice : Nat) : Nat :=
  if sp.used then atD sp.slices ((slice + 1) % 24) 0 else 24

/-- Whether a sector of the L2s belongs to a logical slice of a die (R13). -/
def ofSlice (die slice n : Nat) : Bool := homeDie (64 * n) == die && homeSlice (64 * n) == slice

/-- L2_SLICE_REMAP (R16): with no line pinned in the slice, its lines are written back and leave it; what waited goes on. -/
def execL2SliceRemap (die slice : Nat) (s : State) : Out :=
  .next (if (s.spare die).draining.contains slice && !(s.pins.any fun p => ofSlice die slice (4 * p.line)) then
      (((s.l2Drop (ofSlice die slice)).modSpare die fun sp => { sp with
        slices := modAt sp.slices slice fun _ => sp.nextSlice slice
        used := true
        draining := sp.draining.filter (· != slice) }).sparing die 1 slice 0).unstall
    else s)

/-- HBM_CHANNEL_SPARE (R17): the copy starts, when the stack's spare is free. -/
def execHbmChannelSpare (die channel : Nat) (s : State) : Out :=
  .next (let sp := s.spare die
    let stack (c : Nat) : Bool := c / 32 == channel / 32
    if die < 4 ∧ channel < 64 ∧ s.core.running ∧ !(sp.spared.any stack) ∧ !(sp.copying.any stack) then
      s.modSpare die fun sp => { sp with copying := insSorted channel sp.copying }
    else s)

/-- HBM_CHANNEL_SPARE_COMPLETE (R17): the mapping switches; the record names the stack (R448). -/
def execHbmChannelSpareComplete (die channel : Nat) (s : State) : Out :=
  .next (if (s.spare die).copying.contains channel then
      (s.modSpare die fun sp => { sp with
        copying := sp.copying.filter (· != channel)
        spared := insSorted channel sp.spared }).sparing die 2 channel (channel / 32)
    else s)

/-! ### Mesh and links (R10, R21, R22, R24) -/

/-- DIE and INDEX of a mesh edge's records: the lower-numbered of its two dies, an x edge 0 and a y edge 1. R53 does not say
which die names an edge (DESIGN CHOICE, log entry 94). -/
def edgeUnit (edge : Nat) : Nat × Nat :=
  match edge with
  | 0 => (0, 0)
  | 1 => (2, 0)
  | 2 => (0, 1)
  | _ => (1, 1)

/-- An edge changes state (R10). -/
def State.edgeTo (s : State) (edge : Nat) (x : LinkState) : State :=
  if edge ≥ 4 ∨ atD s.edges edge .down = x ∨ atD s.edges edge .down = .down then s
  else
    let (die, ix) := edgeUnit edge
    ({ s with edges := modAt s.edges edge fun _ => x }.errLog 3 die 3 ix 1 0 0).mcRaise 6

/-- MESH_EDGE_LANE_LOSS (R10): half width. -/
def execMeshEdgeLaneLoss (edge : Nat) (s : State) : Out := .next (s.edgeTo edge .half)
/-- MESH_EDGE_FAILURE (R10, R47): out of service, with LINK_DOWN. -/
def execMeshEdgeFailure (edge : Nat) (s : State) : Out :=
  .next (if edge < 4 ∧ atD s.edges edge .down ≠ .down then (s.edgeTo edge .down).mcRaise 4 else s)
/-- MESH_FLIT_RETRY (R10): delivered in its order, invisible to programs. -/
def execMeshFlitRetry (_edge : Nat) (s : State) : Out := .next s

/-- PCIE_LINK_DOWN (R21): with D0's link, the management core also posts an event through PF1, by a vector the spec does not
name (log entry 95). -/
def execPcieLinkDown (fn : Bool) (s : State) : Out :=
  .next (if !s.linkUp fn then s
    else
      let s := State.mcRaise { s with pcie := modAt s.pcie (b2n fn) fun _ => false } 4
      if fn || !s.core.running then s else { s with msi := s.msi ++ [(true, Config.linkDownVector)] })
/-- PCIE_LINK_UP (R21): once stage 2 has trained the links (R54). -/
def execPcieLinkUp (fn : Bool) (s : State) : Out :=
  .next (if s.linksTrained then { s with pcie := modAt s.pcie (b2n fn) fun _ => true } else s)

/-- A port changes state, with the record of its failure (R14, R22, R53). -/
def State.portTo (s : State) (port : Nat) (x : LinkState) : State :=
  { s with ports := modAt s.ports port fun _ => x }.errLog 3 (port / 3) 4 (port % 3) 1 0 0

/-- RYNDI_PORT_LANE_LOSS (R14, R22): the port retrains at 4 lanes, which is reported like an edge's loss (log entry 94). -/
def execRyndiPortLaneLoss (port : Nat) (s : State) : Out :=
  .next (if atD s.ports port .down = .full then (s.portTo port .half).mcRaise 6 else s)
/-- RYNDI_PORT_LINK_DOWN (R22). -/
def execRyndiPortLinkDown (port : Nat) (s : State) : Out :=
  .next (if atD s.ports port .down = .down then s
    else (s.portTo port .down).mcRaise 4)
/-- RYNDI_PORT_RETURN_TO_SERVICE (R24): no request of this model is still on its way. Before stage 4 no port is trained (R54). -/
def execRyndiPortReturnToService (port : Nat) (s : State) : Out :=
  .next (if s.portsTrained then { s with ports := modAt s.ports port fun _ => .full } else s)

/-! ### Fabric reduction windows (R25 to R29) -/

/-- FRW_DROP of a window raised. -/
def State.frwDrop (s : State) (w n : Nat) : State := s.countSat (0x1400 + 32 * w + 0x18) n

/-- One element: its update at home, and its contributions (R27, R28). In a poisoned sector the update is discarded, and its
contributions still count, which the spec does not say (log entry 24). -/
def State.fabricElem (s : State) (w op cc base elem : Nat) (v : Word) : State :=
  let pa := base + 4 * elem
  let s := (s.touchBy none [pa]).demandHome [pa]
  let s := if s.poisoned pa then s
    else s.putRaw (cellsAt pa (leBytes 4 (memOp (fabricOp op) (leVal (s.homeBytes pa 4)) v.toNat)))
  let n := Tab.get 0 s.fabric (w * 2 ^ 28 + elem) + cc
  let s := { s with fabric := Tab.set 0 s.fabric (w * 2 ^ 28 + elem) n }
  if n > s.regFld (0x1400 + 32 * w + 16) 24 12 then s.frwDrop w 1 else s

/-- Number of a window's elements that have received NCONTRIB contributions (R28). -/
def State.fabricFull (s : State) (w : Nat) : Nat :=
  (s.fabric.filter fun x => x.1 / 2 ^ 28 == w && decide (x.2 ≥ s.regFld (0x1400 + 32 * w + 16) 24 12)).length

/-- DONE and the window's counter, as the last element becomes complete (R28); what waited for the window goes on (R29). -/
def State.fabricDone (s : State) (w : Nat) : State :=
  ((s.setRegFld (0x1400 + 32 * w + 16) 0 1 1).tlApply (4080 + w) ((s.timeline (4080 + w)).value + 1)).unstall

/-- A reduction transaction at its home: applied element by element, or discarded, counted and reported (R27, R28). NELEM 0 or
above 16 has no outcome in R28 and does nothing; a window that NCONTRIB = 0 disables discards like one that is not OPEN (log
entry 24). -/
def State.fabricArrive (s : State) (tx : RedTx) : State :=
  let w := tx.win.toNat
  let r := 0x1400 + 32 * w
  let elems := s.regFld (r + 8) 0 23 * 64
  let n := tx.data.length
  if n = 0 ∨ n > 16 then s
  else if s.regFld (r + 16) 48 16 ≠ tx.epoch.toNat ∨ s.regFld (r + 16) 7 1 = 0 ∨ s.regFld (r + 16) 24 12 = 0
      ∨ tx.op.toNat > 7 ∨ tx.offset.toNat + n > elems then
    (s.frwDrop w 1).errLog 3 0 5 w 1 0 0
  else
    let base := s.regFld r 8 44 * 256
    let t := ((List.range n).zip tx.data).foldl (fun s x =>
      s.fabricElem w tx.op.toNat tx.ccount.toNat base (tx.offset.toNat + x.1) x.2) s
    if s.fabricFull w < elems ∧ elems ≤ t.fabricFull w then t.fabricDone w else t

/-- Whether the elements of a transaction lie in a slice that is being written back: it waits at its home (R16). -/
def State.fabricWaits (s : State) (tx : RedTx) : Bool :=
  (List.range tx.data.length).any fun i =>
    s.sliceDraining (s.regFld (0x1400 + 32 * tx.win.toNat) 8 44 * 256 + 4 * (tx.offset.toNat + i))

/-- FABRIC_REDUCTION_ARRIVAL (R27, R28). -/
def execFabricReductionArrival (tx : RedTx) (s : State) : Out := .next (if s.fabricWaits tx then s else s.fabricArrive tx)

/-- The reduction transaction in a slot of 80 bytes (R23, R26). -/
def redTxOf (bs : List Byte) : RedTx :=
  let v := leVal (bs.take 16)
  ⟨BitVec.ofNat 4 (fld v 11 4), BitVec.ofNat 16 (fld v 15 16), BitVec.ofNat 4 (fld v 31 4), BitVec.ofNat 12 (fld v 35 12),
    BitVec.ofNat 28 (fld v 53 28),
    (List.range (fld v 47 6)).map fun i => BitVec.ofNat 32 (leVal ((bs.drop (16 + 4 * i)).take 4))⟩

/-- RYNDI_FLIT_RECEIVE (R23): a flit that fails its CRC is retried; the reductions of virtual channel 2 are delivered, once
their home takes all of them. -/
def execRyndiFlitReceive (port vc : Nat) (crcOk : Bool) (slots : List (List Byte)) (s : State) : Out :=
  .next (let txs := ((slots.take 3).filter fun b => b.length == 80).map redTxOf
    if atD s.ports port .down = .down ∨ !crcOk ∨ vc ≠ 2 ∨ txs.any s.fabricWaits = true then s
    else txs.foldl State.fabricArrive s)

/-! ### Writes from outside (R16, R29, R54, R160) -/

/-- PEER_WRITE_ARRIVAL (R160): bytes of lines that wait are kept at their home. -/
def execPeerWriteArrival (pa : Nat) (bytes : List Byte) (s : State) : Out :=
  .next (s.homeWrite ((cellsAt pa bytes).filter fun c => isLocal c.1))

/-- BAR4_WRITE (R20, R54, R160): beyond 384 GiB, and below 64 MiB while an image is being verified, bytes are dropped. -/
def execBar4Write (fn : Bool) (pa : Nat) (bytes : List Byte) (s : State) : Out :=
  .next (if !s.linkUp fn then s
    else
      let hold := s.regFld 0x228 16 16 == 3
      s.barWrite fn ((cellsAt pa bytes).filter fun c => isLocal c.1 && !(hold && decide (c.1 < 0x4000000))))

/-! ### Boot and attestation (R54 to R56) -/

/-- PACKAGE_RESET (R54). -/
def execPackageReset (b : BootInput) (s : State) : Out := .next (s.packageReset b)
/-- BOOTCTL_GO (R54). -/
def execBootctlGo (v : Word) (s : State) : Out := .next (s.regStore 0x500 4 v.toNat)
/-- ATTGO (R56). -/
def execAttgo (v : Word) (s : State) : Out := .next (s.regStore 0x720 4 v.toNat)
/-- ATTESTATION_COMPLETE (R56). -/
def execAttestationComplete (s : State) : Out := .next s.attFinish
/-- CERT_DATA (R56): a read from outside advances OFF. -/
def execCertData (s : State) : Out := .next s.certAdvance

/-! ### The management core (R48 to R52, R459) -/

/-- MC_INTERRUPT_ENTRY (R48): the interrupt that may be taken at this instruction boundary. -/
def execMcInterruptEntry (s : State) : Out :=
  .next (match s.mcTake with
    | some n => s.mcEnter n (s.fibre mcCluster 0 0).pc false
    | none => s)

/-- What a diode writes in TEMP_n (R52): VALID and the temperature, or neither. -/
def tempWord : Option Half → Nat
  | some t => 2 ^ 31 + t.toNat
  | none => 0

/-- Whether every valid diode of a die reads below LO. -/
def State.allCool (s : State) (die : Nat) : Bool :=
  let lo : Half := BitVec.ofNat 16 (s.regFld (dieOff die + 0x340) 16 16)
  (List.range 16).all fun n =>
    let v := s.reg (dieOff die + 0x300 + 4 * n)
    !v.getLsbD 31 || decide ((BitVec.ofNat 16 v.toNat).toInt < lo.toInt)

/-- Whether a temperature is at or above a die's HI. -/
def State.hot (s : State) (die : Nat) (temp : Option Half) : Bool :=
  match temp with
  | some t => decide ((BitVec.ofNat 16 (s.regFld (dieOff die + 0x340) 0 16) : Half).toInt ≤ t.toInt)
  | none => false

/-- TEMP_n of a die as its diode gives it: at HI or above it raises THERMAL_ALERT where the die's is armed, which it is again once
every valid diode of the die lies below LO (R47, R52). -/
def State.setTemp (s : State) (die n : Nat) (temp : Option Half) : State :=
  if die ≥ 4 ∨ n ≥ 16 then s
  else
    let s := s.setReg (dieOff die + 0x300 + 4 * n) (BitVec.ofNat 64 (tempWord temp))
    let s := if s.hot die temp && atD s.alerts die false then
      State.mcRaise { s with alerts := modAt s.alerts die fun _ => false } 2 else s
    if s.allCool die then { s with alerts := modAt s.alerts die fun _ => true } else s

/-- THERMAL_ALERT (R52): a diode gives a temperature. -/
def execThermalAlert (die n : Nat) (temp : Half) (s : State) : Out := .next (s.setTemp die n (some temp))

/-- TEMP_FALL_BELOW_LO (R52): diodes of a die give theirs, or become invalid, one after another. -/
def execTempFallBelowLo (die : Nat) (temps : List (Nat × Option Half)) (s : State) : Out :=
  .next (temps.foldl (fun s x => s.setTemp die x.1 x.2) s)

/-- MC_HBEAT (R50). -/
def execMcHbeat (v : Word) (s : State) : Out := .next (s.regStore 0x220 4 v.toNat)

/-- HEARTBEAT_EXPIRY (R51). -/
def execHeartbeatExpiry (s : State) : Out :=
  .next (if s.core.running && decide (s.core.beat + s.regFld 0x230 0 16 * 1000 ≤ s.ptime) then s.takeover else s)

/-- ERRLOG_W3 (R459). -/
def execErrlogW3 (v : DWord) (s : State) : Out := .next (s.regStore 0x438 8 v.toNat)
/-- DBG_BK_RESUME (R424). -/
def execDbgBkResume (cl : Nat) (v : DWord) (s : State) : Out :=
  .next (if cl < 160 then s.regStore (clOff cl + 0x188) 8 v.toNat else s)

/-! ### Register writes through the BARs (R5, R20, R45) -/

/-- A write of n bytes at an offset of BAR2: the first 16 MiB of each die's block, die after die (R20). -/
def State.bar2Store (s : State) (off n v : Nat) : State :=
  let lo := min n (0x1000000 - off % 0x1000000)
  let s := s.regStore (off / 0x1000000 * 0x4000000 + off % 0x1000000) lo (v % 256 ^ lo)
  if lo = n then s else s.regStore ((off / 0x1000000 + 1) * 0x4000000) (n - lo) (v / 256 ^ lo)

/-- The virtual function an event ring belongs to: the lowest-numbered whose range holds it (R45). -/
def State.ringOwner (s : State) (e : Nat) : Option Nat :=
  (List.range 31).map (· + 1) |>.find? fun n =>
    let x := (s.reg (0x1608 + 16 * n)).toNat
    decide (fld x 0 10 ≤ e ∧ e < fld x 0 10 + fld x 10 11)

/-- The event ring in a slot of a virtual function's BAR2 (R41, R45); none beyond EVCNT or where the ring is another's. -/
def State.vfRing (s : State) (n e : Nat) : Option Nat :=
  let x := (s.reg (0x1608 + 16 * n)).toNat
  let ring := fld x 0 10 + e
  if decide (1 ≤ n ∧ n ≤ 31) && decide (e < fld x 10 11) && s.ringOwner ring == some n then some ring else none

/-- A write of n bytes at an offset of a virtual function's BAR2, by the register words it reaches. -/
def State.vfBar2Store (s : State) (vf off n v : Nat) : State :=
  let words := (List.range ((off % 4 + n + 3) / 4)).map fun k => off / 4 * 4 + 4 * k
  words.foldl (fun s w => match s.vfRing vf (w / 16) with
    | none => s
    | some e =>
      let lo := max off w
      let hi := min (off + n) (w + 4)
      if hi ≤ lo then s
      else s.regStore (0x100000 + 16 * e + w % 16 + (lo - w)) (hi - lo) (fld v (8 * (lo - off)) (8 * (hi - lo)))) s

/-- REGISTER_WRITE (R5, R20, R32, R45): at most 8 bytes from an offset of a function's BAR0 or BAR2, while its link is up. -/
def execRegisterWrite (place : RegPlace) (size : Nat) (v : DWord) (s : State) : Out :=
  let off := place.off
  .next (if size = 0 ∨ size > 8 then s
    else match place.port with
      | .bar0 d => if off + size ≤ 0x100000 then s.bar0Store d off size v.toNat else s
      | .bar2 (.vf n) => if s.linkUp false ∧ off + size ≤ 0x10000 then s.vfBar2Store n off size v.toNat else s
      | .bar2 .pf0 => if s.linkUp false ∧ off + size ≤ 0x4000000 then s.bar2Store off size v.toNat else s
      | .bar2 .pf1 => if s.linkUp true ∧ off + size ≤ 0x4000000 then s.bar2Store off size v.toNat else s)

end Sys2Proof.Machine
end

