-- ==== Sys2Proof/Machine/Int.lean ====
section
/-!
DEFINITION. Machine/Int.lean: group 0, integer instructions (R321 to R324).
-/
namespace Sys2Proof.Machine

/-- w of R321. -/
def Iss.w (i : Iss) : Nat := if i.f.m 0 then 64 else 32

/-- A result of A and B, poisoned as they are. -/
def Iss.bin (i : Iss) (h : Nat) (op : Nat → Nat → Nat) : Res :=
  let a := i.src 1 h
  let b := i.srcB h
  i.resV h (op a.1 b.1) (a.2 <|> b.2) 0

/-- A result of A. -/
def Iss.un (i : Iss) (h : Nat) (op : Nat → Nat) : Res :=
  let a := i.src 1 h
  i.resV h (op a.1) a.2 0

/-- A result of A, B and C. -/
def Iss.tri (i : Iss) (h : Nat) (op : Nat → Nat → Nat → Nat) : Res :=
  let a := i.src 1 h
  let b := i.srcB h
  let c := i.src 3 h
  i.resV h (op a.1 b.1 c.1) (a.2 <|> b.2 <|> c.2) 0

/-- IADD. -/
def execIadd (f : Fields) (s : State) : Out :=
  s.alu 0x001 f fun i h => i.bin h fun a b => satTo (f.m 2) (f.m 1) i.w (asInt (f.m 1) i.w a + asInt (f.m 1) i.w b)

/-- ISUB. -/
def execIsub (f : Fields) (s : State) : Out :=
  s.alu 0x002 f fun i h => i.bin h fun a b => satTo (f.m 2) (f.m 1) i.w (asInt (f.m 1) i.w a - asInt (f.m 1) i.w b)

/-- IMUL. -/
def execImul (f : Fields) (s : State) : Out := s.alu 0x003 f fun i h => i.bin h fun a b => a * b % 2 ^ i.w

/-- IMULH. -/
def execImulh (f : Fields) (s : State) : Out :=
  s.alu 0x004 f fun i h => i.bin h fun a b => wrap 64 (asInt (f.m 1) 32 a * asInt (f.m 1) 32 b) / 2 ^ 32

/-- IMAD. -/
def execImad (f : Fields) (s : State) : Out := s.alu 0x005 f fun i h => i.tri h fun a b c => (a * b + c) % 2 ^ i.w

/-- IMADW. -/
def execImadw (f : Fields) (s : State) : Out :=
  s.alu 0x006 f fun i h => i.tri h fun a b c => wrap 64 (asInt (f.m 1) 32 a * asInt (f.m 1) 32 b + c)

/-- Quotient and remainder of R322. -/
def divRem (unsigned : Bool) (w a b : Nat) : Nat × Nat :=
  let x := asInt unsigned w a
  let y := asInt unsigned w b
  if y = 0 then (2 ^ w - 1, a)
  else (wrap w (x.tdiv y), wrap w (x.tmod y))

/-- IDIV. -/
def execIdiv (f : Fields) (s : State) : Out := s.alu 0x007 f fun i h => i.bin h fun a b => (divRem (f.m 1) i.w a b).1

/-- IREM. -/
def execIrem (f : Fields) (s : State) : Out := s.alu 0x008 f fun i h => i.bin h fun a b => (divRem (f.m 1) i.w a b).2

/-- IMIN. -/
def execImin (f : Fields) (s : State) : Out :=
  s.alu 0x009 f fun i h => i.bin h fun a b => if asInt (f.m 1) i.w b < asInt (f.m 1) i.w a then b else a

/-- IMAX. -/
def execImax (f : Fields) (s : State) : Out :=
  s.alu 0x00A f fun i h => i.bin h fun a b => if asInt (f.m 1) i.w b > asInt (f.m 1) i.w a then b else a

/-- IABS. -/
def execIabs (f : Fields) (s : State) : Out :=
  s.alu 0x00B f fun i h => i.un h fun a => satTo (f.m 2) false i.w (sext i.w a).natAbs

/-- INEG. -/
def execIneg (f : Fields) (s : State) : Out :=
  s.alu 0x00C f fun i h => i.un h fun a => satTo (f.m 2) false i.w (-(sext i.w a))

/-- d and PD of IADDC and ISUBB, poisoned together (R323). -/
def Iss.carry (i : Iss) (h : Nat) (op : Nat → Nat → Bool → Nat × Bool) : Res :=
  let a := i.src 1 h
  let b := i.srcB h
  let c := i.predSrc i.f.sc h
  let p := a.2 <|> b.2 <|> c.2
  let r := op a.1 b.1 c.1
  ⟨h, i.vec 0 h r.1 p ++ [predDst (i.f.md 0 3) r.2 p], 0, none⟩

/-- IADDC (R323). -/
def execIaddc (f : Fields) (s : State) : Out := s.alu 0x00D f fun i h => i.carry h addCarry

/-- ISUBB (R323). -/
def execIsubb (f : Fields) (s : State) : Out := s.alu 0x00E f fun i h => i.carry h subBorrow

/-- ISET (R324). -/
def execIset (f : Fields) (s : State) : Out :=
  s.alu 0x00F f fun i h =>
    let a := i.src 1 h
    let b := i.srcB h
    let c := i.predSrc f.sc h
    i.resP h (icmp (f.md 2 3) (asInt (f.m 1) i.w a.1) (asInt (f.m 1) i.w b.1) && c.1) (a.2 <|> b.2 <|> c.2) 0

/-- LEA. -/
def execLea (f : Fields) (s : State) : Out :=
  s.alu 0x010 f fun i h => i.bin h fun a b => wrap 64 ((b : Int) + asInt (f.m 3) 32 a * 2 ^ f.md 0 3)

/-- IDP4 (R236). -/
def execIdp4 (f : Fields) (s : State) : Out :=
  s.alu 0x011 f fun i h => i.tri h fun a b c =>
    wrap 32 ((c : Int) + ((List.range 4).map fun k => asInt (f.m 0) 8 (fld a (8 * k) 8) * asInt (f.m 1) 8 (fld b (8 * k) 8)).sum)

end Sys2Proof.Machine
end

