-- ==== Sys2Proof/Machine/Logic.lean ====
section
/-!
DEFINITION. Machine/Logic.lean: group 1, logic and bit instructions (R325 to R328).
-/
namespace Sys2Proof.Machine

/-- BOP (R326). -/
def execBop (f : Fields) (s : State) : Out :=
  s.alu 0x040 f fun i h => i.tri h fun a b c =>
    (bopWord (f.md 3 3) (bopWord (f.md 0 3) (BitVec.ofNat 32 a) (BitVec.ofNat 32 b)) (BitVec.ofNat 32 c)).toNat

/-- A shift count: b, or b mod w with WRAP (R325). -/
def Iss.count (i : Iss) (b : Nat) : Nat := if i.f.m 1 then b % i.w else b

/-- SHL. -/
def execShl (f : Fields) (s : State) : Out :=
  s.alu 0x041 f fun i h => i.bin h fun a b => if i.count b ≥ i.w then 0 else a * 2 ^ i.count b % 2 ^ i.w

/-- SHR. -/
def execShr (f : Fields) (s : State) : Out :=
  s.alu 0x042 f fun i h => i.bin h fun a b => if i.count b ≥ i.w then 0 else a / 2 ^ i.count b

/-- SHRA. -/
def execShra (f : Fields) (s : State) : Out :=
  s.alu 0x043 f fun i h => i.bin h fun a b => wrap i.w (sext i.w a / 2 ^ min (i.count b) i.w)

/-- A value of w bits rotated left. -/
def rotl (w x n : Nat) : Nat := (x * 2 ^ (n % w) + x / 2 ^ (w - n % w)) % 2 ^ w

/-- ROT. -/
def execRot (f : Fields) (s : State) : Out :=
  s.alu 0x044 f fun i h => i.bin h fun a b => rotl i.w a (if f.m 1 then i.w - b % i.w else b % i.w)

/-- XTR's field of a, read beyond bit 31 as R327 states. -/
def extract (unsigned : Bool) (a b : Nat) : Nat :=
  let lo := fld b 0 6
  let hi := fld b 6 6
  if hi < lo then 0
  else
    let wide := if unsigned then a else wrap 128 (sext 32 a)
    let x := fld wide lo (hi - lo + 1)
    if unsigned then x % 2 ^ 32 else wrap 32 (sext (hi - lo + 1) x)

/-- XTR. -/
def execXtr (f : Fields) (s : State) : Out := s.alu 0x045 f fun i h => i.bin h (extract (f.m 1))

/-- INS: the field of c replaced by a's low bits (R327). -/
def insertField (a b c : Nat) : Nat :=
  let lo := fld b 0 6
  let hi := fld b 6 6
  if hi < lo ∨ lo ≥ 32 then c else setFld c lo (min (hi - lo + 1) (32 - lo)) a

/-- INS. -/
def execIns (f : Fields) (s : State) : Out := s.alu 0x046 f fun i h => i.tri h insertField

/-- ONES. -/
def execOnes (f : Fields) (s : State) : Out :=
  s.alu 0x047 f fun i h => i.un h fun a => ((List.range i.w).filter (bitOf a)).length

/-- CLZ. -/
def execClz (f : Fields) (s : State) : Out :=
  s.alu 0x048 f fun i h => i.un h fun a => if a = 0 then i.w else i.w - 1 - Nat.log2 a

/-- CTZ. -/
def execCtz (f : Fields) (s : State) : Out :=
  s.alu 0x049 f fun i h => i.un h fun a => ((List.range i.w).find? (bitOf a)).getD i.w

/-- FLIP. -/
def execFlip (f : Fields) (s : State) : Out :=
  s.alu 0x04A f fun i h => i.un h fun a => ((List.range i.w).map fun k => if bitOf a k then 2 ^ (i.w - 1 - k) else 0).sum

/-- BSEL: byte i of the result (R328). -/
def byteSelect (a b c : Nat) : Nat :=
  let y (k : Nat) : Nat := if k < 4 then fld a (8 * k) 8 else fld c (8 * (k - 4)) 8
  ((List.range 4).map fun k => if bitOf b (12 + k) then 0 else y (fld b (3 * k) 3) * 2 ^ (8 * k)).sum

/-- BSEL. -/
def execBsel (f : Fields) (s : State) : Out := s.alu 0x04B f fun i h => i.tri h byteSelect

end Sys2Proof.Machine
end

