-- ==== Sys2Proof/Machine/Dispatch.lean ====
section
/-!
DEFINITION. Machine/Dispatch.lean: the meaning of each instruction, one arm per constructor.
-/
namespace Sys2Proof.Machine

/-- What an instruction or event does. -/
def exec (i : Instr) (s : State) : Host.Outcome State Fault Refusal :=
  match i with
  | .iadd f => Sys2Proof.Machine.execIadd f s
  | .isub f => Sys2Proof.Machine.execIsub f s
  | .imul f => Sys2Proof.Machine.execImul f s
  | .imulh f => Sys2Proof.Machine.execImulh f s
  | .imad f => Sys2Proof.Machine.execImad f s
  | .imadw f => Sys2Proof.Machine.execImadw f s
  | .idiv f => Sys2Proof.Machine.execIdiv f s
  | .irem f => Sys2Proof.Machine.execIrem f s
  | .imin f => Sys2Proof.Machine.execImin f s
  | .imax f => Sys2Proof.Machine.execImax f s
  | .iabs f => Sys2Proof.Machine.execIabs f s
  | .ineg f => Sys2Proof.Machine.execIneg f s
  | .iaddc f => Sys2Proof.Machine.execIaddc f s
  | .isubb f => Sys2Proof.Machine.execIsubb f s
  | .iset f => Sys2Proof.Machine.execIset f s
  | .lea f => Sys2Proof.Machine.execLea f s
  | .idp4 f => Sys2Proof.Machine.execIdp4 f s
  | .bop f => Sys2Proof.Machine.execBop f s
  | .shl f => Sys2Proof.Machine.execShl f s
  | .shr f => Sys2Proof.Machine.execShr f s
  | .shra f => Sys2Proof.Machine.execShra f s
  | .rot f => Sys2Proof.Machine.execRot f s
  | .xtr f => Sys2Proof.Machine.execXtr f s
  | .ins f => Sys2Proof.Machine.execIns f s
  | .ones f => Sys2Proof.Machine.execOnes f s
  | .clz f => Sys2Proof.Machine.execClz f s
  | .ctz f => Sys2Proof.Machine.execCtz f s
  | .flip f => Sys2Proof.Machine.execFlip f s
  | .bsel f => Sys2Proof.Machine.execBsel f s
  | .fadd f => Sys2Proof.Machine.execFadd f s
  | .fmul f => Sys2Proof.Machine.execFmul f s
  | .ffma f => Sys2Proof.Machine.execFfma f s
  | .fmin f => Sys2Proof.Machine.execFmin f s
  | .fmax f => Sys2Proof.Machine.execFmax f s
  | .fset f => Sys2Proof.Machine.execFset f s
  | .fclass f => Sys2Proof.Machine.execFclass f s
  | .frnd f => Sys2Proof.Machine.execFrnd f s
  | .frcp f => Sys2Proof.Machine.execFrcp f s
  | .frsq f => Sys2Proof.Machine.execFrsq f s
  | .fsqrt f => Sys2Proof.Machine.execFsqrt f s
  | .fdiv f => Sys2Proof.Machine.execFdiv f s
  | .fexp2 f => Sys2Proof.Machine.execFexp2 f s
  | .flog2 f => Sys2Proof.Machine.execFlog2 f s
  | .fsin f => Sys2Proof.Machine.execFsin f s
  | .fcos f => Sys2Proof.Machine.execFcos f s
  | .ftanh f => Sys2Proof.Machine.execFtanh f s
  | .dadd f => Sys2Proof.Machine.execDadd f s
  | .dmul f => Sys2Proof.Machine.execDmul f s
  | .dfma f => Sys2Proof.Machine.execDfma f s
  | .dmin f => Sys2Proof.Machine.execDmin f s
  | .dmax f => Sys2Proof.Machine.execDmax f s
  | .dset f => Sys2Proof.Machine.execDset f s
  | .ddiv f => Sys2Proof.Machine.execDdiv f s
  | .dsqrt f => Sys2Proof.Machine.execDsqrt f s
  | .pkadd f => Sys2Proof.Machine.execPkadd f s
  | .pkmul f => Sys2Proof.Machine.execPkmul f s
  | .pkfma f => Sys2Proof.Machine.execPkfma f s
  | .pkmin f => Sys2Proof.Machine.execPkmin f s
  | .pkmax f => Sys2Proof.Machine.execPkmax f s
  | .fdot2 f => Sys2Proof.Machine.execFdot2 f s
  | .cvt f => Sys2Proof.Machine.execCvt f s
  | .mxq f => Sys2Proof.Machine.execMxq f s
  | .mxdq f => Sys2Proof.Machine.execMxdq f s
  | .mov f => Sys2Proof.Machine.execMov f s
  | .movi f => Sys2Proof.Machine.execMovi f s
  | .sel f => Sys2Proof.Machine.execSel f s
  | .s2v f => Sys2Proof.Machine.execS2v f s
  | .pset f => Sys2Proof.Machine.execPset f s
  | .plop f => Sys2Proof.Machine.execPlop f s
  | .p2v f => Sys2Proof.Machine.execP2v f s
  | .v2p f => Sys2Proof.Machine.execV2p f s
  | .vxld f => Sys2Proof.Machine.execVxld f s
  | .vxst f => Sys2Proof.Machine.execVxst f s
  | .bra f => Sys2Proof.Machine.execBra f s
  | .brx f => Sys2Proof.Machine.execBrx f s
  | .call f => Sys2Proof.Machine.execCall f s
  | .callx f => Sys2Proof.Machine.execCallx f s
  | .ret f => Sys2Proof.Machine.execRet f s
  | .lpad f => Sys2Proof.Machine.execLpad f s
  | .jmark f => Sys2Proof.Machine.execJmark f s
  | .jwait f => Sys2Proof.Machine.execJwait f s
  | .fork f => Sys2Proof.Machine.execFork f s
  | .endf f => Sys2Proof.Machine.execEnd f s
  | .yieldc f => Sys2Proof.Machine.execYield f s
  | .sleep f => Sys2Proof.Machine.execSleep f s
  | .csync f => Sys2Proof.Machine.execCsync f s
  | .join f => Sys2Proof.Machine.execJoin f s
  | .leave f => Sys2Proof.Machine.execLeave f s
  | .barArrive f => Sys2Proof.Machine.execBarArrive f s
  | .barWait f => Sys2Proof.Machine.execBarWait f s
  | .barSync f => Sys2Proof.Machine.execBarSync f s
  | .gbarArrive f => Sys2Proof.Machine.execGbarArrive f s
  | .gbarWait f => Sys2Proof.Machine.execGbarWait f s
  | .shfl f => Sys2Proof.Machine.execShfl f s
  | .shflx f => Sys2Proof.Machine.execShflx f s
  | .ballot f => Sys2Proof.Machine.execBallot f s
  | .vote f => Sys2Proof.Machine.execVote f s
  | .redx f => Sys2Proof.Machine.execRedx f s
  | .scanx f => Sys2Proof.Machine.execScanx f s
  | .cdet f => Sys2Proof.Machine.execCdet f s
  | .segred f => Sys2Proof.Machine.execSegred f s
  | .matchx f => Sys2Proof.Machine.execMatchx f s
  | .elect f => Sys2Proof.Machine.execElect f s
  | .ld f => Sys2Proof.Machine.execLd f s
  | .st f => Sys2Proof.Machine.execSt f s
  | .ldl f => Sys2Proof.Machine.execLdl f s
  | .pref f => Sys2Proof.Machine.execPref f s
  | .atom f => Sys2Proof.Machine.execAtom f s
  | .atomc f => Sys2Proof.Machine.execAtomc f s
  | .red f => Sys2Proof.Machine.execRed f s
  | .phaseRel f => Sys2Proof.Machine.execPhaseRel f s
  | .phaseAcq f => Sys2Proof.Machine.execPhaseAcq f s
  | .phaseFull f => Sys2Proof.Machine.execPhaseFull f s
  | .privalias f => Sys2Proof.Machine.execPrivalias f s
  | .hclaim f => Sys2Proof.Machine.execHclaim f s
  | .hfree f => Sys2Proof.Machine.execHfree f s
  | .hclr f => Sys2Proof.Machine.execHclr f s
  | .hins f => Sys2Proof.Machine.execHins f s
  | .hprb f => Sys2Proof.Machine.execHprb f s
  | .hdel f => Sys2Proof.Machine.execHdel f s
  | .hacc f => Sys2Proof.Machine.execHacc f s
  | .hdrn f => Sys2Proof.Machine.execHdrn f s
  | .hstat f => Sys2Proof.Machine.execHstat f s
  | .mma f => Sys2Proof.Machine.execMma f s
  | .accz f => Sys2Proof.Machine.execAccz f s
  | .accld f => Sys2Proof.Machine.execAccld f s
  | .accst f => Sys2Proof.Machine.execAccst f s
  | .tcopy f => Sys2Proof.Machine.execTcopy f s
  | .tfill f => Sys2Proof.Machine.execTfill f s
  | .tlsig f => Sys2Proof.Machine.execTlsig f s
  | .tlwait f => Sys2Proof.Machine.execTlwait f s
  | .tlqry f => Sys2Proof.Machine.execTlqry f s
  | .tspawn f => Sys2Proof.Machine.execTspawn f s
  | .dlstep f => Sys2Proof.Machine.execDlstep f s
  | .dlend f => Sys2Proof.Machine.execDlend f s
  | .dlqry f => Sys2Proof.Machine.execDlqry f s
  | .nop f => Sys2Proof.Machine.execNop f s
  | .srd f => Sys2Proof.Machine.execSrd f s
  | .swr f => Sys2Proof.Machine.execSwr f s
  | .trap f => Sys2Proof.Machine.execTrap f s
  | .tret f => Sys2Proof.Machine.execTret f s
  | .tabort f => Sys2Proof.Machine.execTabort f s
  | .pclr f => Sys2Proof.Machine.execPclr f s
  | .icinv f => Sys2Proof.Machine.execIcinv f s
  | .fencei f => Sys2Proof.Machine.execFencei f s
  | .bkpt f => Sys2Proof.Machine.execBkpt f s
  | .wfi f => Sys2Proof.Machine.execWfi f s
  | .perfrd f => Sys2Proof.Machine.execPerfrd f s
  | .extensionOpcode len slot rest => Sys2Proof.Machine.execExtensionOpcode len slot rest s
  | .packetNop q => Sys2Proof.Machine.execPacketNop q s
  | .packetSkip q => Sys2Proof.Machine.execPacketSkip q s
  | .fence q => Sys2Proof.Machine.execFence q s
  | .launchTask q => Sys2Proof.Machine.execLaunchTask q s
  | .graphSubmit q => Sys2Proof.Machine.execGraphSubmit q s
  | .taskCtrlResume q => Sys2Proof.Machine.execTaskCtrlResume q s
  | .taskCtrlRelease q => Sys2Proof.Machine.execTaskCtrlRelease q s
  | .taskCtrlCancelChain q => Sys2Proof.Machine.execTaskCtrlCancelChain q s
  | .copy q => Sys2Proof.Machine.execCopy q s
  | .tlSignal q => Sys2Proof.Machine.execTlSignal q s
  | .tlWait q => Sys2Proof.Machine.execTlWait q s
  | .stepDeclare q => Sys2Proof.Machine.execStepDeclare q s
  | .memAttr q => Sys2Proof.Machine.execMemAttr q s
  | .fenceComplete q => Sys2Proof.Machine.execFenceComplete q s
  | .tlWaitComplete q => Sys2Proof.Machine.execTlWaitComplete q s
  | .tlSignalFire q => Sys2Proof.Machine.execTlSignalFire q s
  | .memAttrComplete q => Sys2Proof.Machine.execMemAttrComplete q s
  | .qtail d q v => Sys2Proof.Machine.execQtail d q v s
  | .qctlEnable d q => Sys2Proof.Machine.execQctlEnable d q s
  | .qctlDisable d q => Sys2Proof.Machine.execQctlDisable d q s
  | .qctlReset d q enable => Sys2Proof.Machine.execQctlReset d q enable s
  | .functionLevelReset d => Sys2Proof.Machine.execFunctionLevelReset d s
  | .vfAssignWrite n ev v => Sys2Proof.Machine.execVfAssignWrite n ev v s
  | .taskDone seq => Sys2Proof.Machine.execTaskDone seq s
  | .condEvaluate seq => Sys2Proof.Machine.execCondEvaluate seq s
  | .loopIteration seq => Sys2Proof.Machine.execLoopIteration seq s
  | .teamPlacement latency cl => Sys2Proof.Machine.execTeamPlacement latency cl s
  | .teamResourceRelease cl slot => Sys2Proof.Machine.execTeamResourceRelease cl slot s
  | .cohortFormation cl => Sys2Proof.Machine.execCohortFormation cl s
  | .splitThresholdExpiry cl id => Sys2Proof.Machine.execSplitThresholdExpiry cl id s
  | .sleepWake cl id => Sys2Proof.Machine.execSleepWake cl id s
  | .yieldRelease cl id => Sys2Proof.Machine.execYieldRelease cl id s
  | .gbarDieForward die b => Sys2Proof.Machine.execGbarDieForward die b s
  | .gbarD0Arrival die b => Sys2Proof.Machine.execGbarD0Arrival die b s
  | .gbarRelease die b => Sys2Proof.Machine.execGbarRelease die b s
  | .gbCtlWrite b off size v => Sys2Proof.Machine.execGbCtlWrite b off size v s
  | .loadDataArrival cl k => Sys2Proof.Machine.execLoadDataArrival cl k s
  | .variableResultArrival cl k => Sys2Proof.Machine.execVariableResultArrival cl k s
  | .caddyResultArrival cl k => Sys2Proof.Machine.execCaddyResultArrival cl k s
  | .phaseCompletion cl k => Sys2Proof.Machine.execPhaseCompletion cl k s
  | .matrixOpStart leader => Sys2Proof.Machine.execMatrixOpStart leader s
  | .matrixOpRetire leader => Sys2Proof.Machine.execMatrixOpRetire leader s
  | .transferRetire k => Sys2Proof.Machine.execTransferRetire k s
  | .transferAbort k => Sys2Proof.Machine.execTransferAbort k s
  | .tlValueWrite die k v => Sys2Proof.Machine.execTlValueWrite die k v s
  | .tlErrvWrite die k v => Sys2Proof.Machine.execTlErrvWrite die k v s
  | .intervalBoundary g => Sys2Proof.Machine.execIntervalBoundary g s
  | .stepDeadline slot => Sys2Proof.Machine.execStepDeadline slot s
  | .clockSwitch cl => Sys2Proof.Machine.execClockSwitch cl s
  | .sliceRatioChange cl slice ratio => Sys2Proof.Machine.execSliceRatioChange cl slice ratio s
  | .currentSample die cl cur => Sys2Proof.Machine.execCurrentSample die cl cur s
  | .budgetRefill leader => Sys2Proof.Machine.execBudgetRefill leader s
  | .clThrottleWrite cl v => Sys2Proof.Machine.execClThrottleWrite cl v s
  | .ascmdQuery asid => Sys2Proof.Machine.execAscmdQuery asid s
  | .ascmdActivate asid => Sys2Proof.Machine.execAscmdActivate asid s
  | .ascmdBump asid => Sys2Proof.Machine.execAscmdBump asid s
  | .ascmdRetire asid => Sys2Proof.Machine.execAscmdRetire asid s
  | .bumpComplete k => Sys2Proof.Machine.execBumpComplete k s
  | .retireComplete => Sys2Proof.Machine.execRetireComplete s
  | .rplDone v => Sys2Proof.Machine.execRplDone v s
  | .pageWalkComplete agent asid vpn => Sys2Proof.Machine.execPageWalkComplete agent asid vpn s
  | .migGo v => Sys2Proof.Machine.execMigGo v s
  | .migrationComplete => Sys2Proof.Machine.execMigrationComplete s
  | .l1Eviction cl line => Sys2Proof.Machine.execL1Eviction cl line s
  | .replUpdateApply die => Sys2Proof.Machine.execReplUpdateApply die s
  | .patrolScrub sector found => Sys2Proof.Machine.execPatrolScrub sector found s
  | .preemptRequest cl slots => Sys2Proof.Machine.execPreemptRequest cl slots s
  | .contextSave cl slot => Sys2Proof.Machine.execContextSave cl slot s
  | .teamRestore k cl => Sys2Proof.Machine.execTeamRestore k cl s
  | .accTileSave k => Sys2Proof.Machine.execAccTileSave k s
  | .clusterRetire die loc => Sys2Proof.Machine.execClusterRetire die loc s
  | .l2SliceRetire die slice => Sys2Proof.Machine.execL2SliceRetire die slice s
  | .hbmChannelSpare die channel => Sys2Proof.Machine.execHbmChannelSpare die channel s
  | .hbmChannelSpareComplete die channel => Sys2Proof.Machine.execHbmChannelSpareComplete die channel s
  | .meshEdgeLaneLoss edge => Sys2Proof.Machine.execMeshEdgeLaneLoss edge s
  | .meshEdgeFailure edge => Sys2Proof.Machine.execMeshEdgeFailure edge s
  | .meshFlitRetry edge => Sys2Proof.Machine.execMeshFlitRetry edge s
  | .pcieLinkDown fn => Sys2Proof.Machine.execPcieLinkDown fn s
  | .pcieLinkUp fn => Sys2Proof.Machine.execPcieLinkUp fn s
  | .ryndiPortLaneLoss port => Sys2Proof.Machine.execRyndiPortLaneLoss port s
  | .ryndiPortLinkDown port => Sys2Proof.Machine.execRyndiPortLinkDown port s
  | .ryndiFlitReceive port vc crcOk slots => Sys2Proof.Machine.execRyndiFlitReceive port vc crcOk slots s
  | .fabricReductionArrival tx => Sys2Proof.Machine.execFabricReductionArrival tx s
  | .peerWriteArrival pa bytes => Sys2Proof.Machine.execPeerWriteArrival pa bytes s
  | .bar4Write fn pa bytes => Sys2Proof.Machine.execBar4Write fn pa bytes s
  | .packageReset b => Sys2Proof.Machine.execPackageReset b s
  | .bootctlGo v => Sys2Proof.Machine.execBootctlGo v s
  | .attgo v => Sys2Proof.Machine.execAttgo v s
  | .attestationComplete => Sys2Proof.Machine.execAttestationComplete s
  | .certData => Sys2Proof.Machine.execCertData s
  | .mcInterruptEntry => Sys2Proof.Machine.execMcInterruptEntry s
  | .thermalAlert die n temp => Sys2Proof.Machine.execThermalAlert die n temp s
  | .mcHbeat v => Sys2Proof.Machine.execMcHbeat v s
  | .heartbeatExpiry => Sys2Proof.Machine.execHeartbeatExpiry s
  | .errlogW3 v => Sys2Proof.Machine.execErrlogW3 v s
  | .dbgBkResume cl v => Sys2Proof.Machine.execDbgBkResume cl v s
  | .registerWrite place size v => Sys2Proof.Machine.execRegisterWrite place size v s
  | .ryndiPortReturnToService port => Sys2Proof.Machine.execRyndiPortReturnToService port s
  | .tempFallBelowLo die temps => Sys2Proof.Machine.execTempFallBelowLo die temps s
  | .l2SliceRemap die slice => Sys2Proof.Machine.execL2SliceRemap die slice s
  | .copyComplete seq => Sys2Proof.Machine.execCopyComplete seq s

end Sys2Proof.Machine
end

