-- ==== Sys2Proof/Machine/Issue.lean ====
section
/-!
DEFINITION. Machine/Issue.lean: one issue slot of a slice (R178): the cohort chosen, its instruction fetched and decoded
(R287), an interrupt taken at a boundary of the management core (R48, R425), and what passes with every step.
-/
namespace Sys2Proof.Machine

/-! ### Fetch and decode (R279, R280, R287) -/

/-- What the slice finds at a PC. -/
inductive Found where
  | run (i : Instr)
  | trap (t : Trap) (iw : Code)
  | wait (post : Bool)
deriving DecidableEq, Repr

/-- Bytes that a base word's first byte announces; length code 11 counts as 8 (R287). -/
def fetchSize (b : Byte) : Nat :=
  match b.toNat % 4 with
  | 1 => 12
  | 2 => 16
  | _ => 8

/-- The checks on fetched bytes up to the operand and modifier combinations (R280, R287). -/
def decodeFound (x : Ctx) (size : Nat) (bs : List Byte) : Found :=
  let iw : Code := BitVec.ofNat 128 (bytesVal bs)
  let pc := x.pc.toNat
  if pc % 4 ≠ 0 ∨ pc % 32 + size > 32 then .trap (Trap.all x 0x03 0 0) iw
  else match decodeBytes bs with
    | .ok (i, _) => .run i
    | .error e => .trap (Trap.all x 0x01 e.sub 0) iw

/-- A fetch that yields no bytes (R114, R146, R264 rank 1); a sector that this read found uncorrectable is logged with the
trap's origin (R145). -/
def State.fetchFail (s : State) (x : Ctx) : Fetched → Found × State
  | .wait post => (.wait post, s)
  | .access => (.trap (Trap.all x 0x09 1 x.pc.toNat) 0, s)
  | .poison sector found =>
    let (o, s) := s.origin x.c 0x07 x.pc sector x.team.space x.co.team (x.fs.headD 0)
    let s := if found then s.errMemory sector o.toNat else s
    (.trap ⟨0x07, 2, x.fs.map fun f => (f, x.pc.toNat), o⟩ 0, s)
  | _ => (.trap (Trap.all x 0x08 1 x.pc.toNat) 0, s)

/-- The fetch of one instruction, which never leaves its 32-byte block (R287). -/
def State.found (s : State) (x : Ctx) : Found × State :=
  let pc := x.pc.toNat
  let room := 32 - pc % 32
  match s.fetch x.c x.team.space pc (min 8 room) with
  | (.ok head, s) =>
    let size := fetchSize (head.headD 0)
    if min size room ≤ head.length then (decodeFound x size head, s)
    else (match s.fetch x.c x.team.space pc (min size room) with
      | (.ok bs, s) => (decodeFound x size bs, s)
      | (r, s) => s.fetchFail x r)
  | (r, s) => s.fetchFail x r

/-! ### The issue slot (R178) -/

/-- Whether a cohort may be chosen: nothing holds it, or its engine instruction is in the middle of its issue (R402). -/
def State.issuable (s : State) (c : Nat) (k : Cohort) : Bool :=
  if k.part.isSome then (match s.ctxOf c k.id with | some x => !x.team.ended | none => false) else s.offered c k

/-- The cohorts that may be chosen, the one that issued least recently first, the lower slot on a tie. -/
def State.candidates (s : State) (c slice : Nat) : List Nat :=
  (sortBy (fun (a b : Cohort) => decide (a.issued < b.issued ∨ (a.issued = b.issued ∧ a.slot < b.slot)))
    ((s.cl c).cohorts.filter fun k => k.slice == slice && s.issuable c k)).map (·.id)

/-- What the management core does before an instruction: an interrupt is taken, or WFI goes on waiting (R48, R425, R457). -/
def State.mcBoundary (s : State) : Option State :=
  match s.mcTake with
  | some n => some (s.mcEnter n (s.fibre mcCluster 0 0).pc false)
  | none => if s.core.wfi && s.mcPending.isNone then some s else none

/-- A cohort's instruction is fetched and run. -/
def State.issueCohort (s : State) (c id : Nat) (run : Instr → State → Out) : Out :=
  match s.ctxOf c id with
  | none => .next s
  | some x =>
    match State.found { s with cur := some (c, id) } x with
    | (.run i, s) => run i s
    | (.trap t iw, s) => .next (s.takeTrap x iw t)
    | (.wait post, s) => .next (if post then s.postReplay 3 c x.team.space x.pc.toNat else s)

/-- Whether a cohort has made use of its slot: it has issued, trapped, or gone on with an engine instruction. -/
def State.wentOn (t s : State) (c id : Nat) : Bool :=
  ((t.cohort? c id).map fun k => (k.issued, k.part, k.hold)) != ((s.cohort? c id).map fun k => (k.issued, k.part, k.hold))
    || ((t.ctxOf c id).map fun x => (x.fs, x.pc)) != ((s.ctxOf c id).map fun x => (x.fs, x.pc))

/-- The first of the candidates whose next instruction can issue takes the slot (R178). -/
def State.issueFirst (s : State) (c : Nat) (run : Instr → State → Out) : List Nat → Out
  | [] => .next s
  | [id] => s.issueCohort c id run
  | id :: rest =>
    match s.issueCohort c id run with
    | .next t => if t.wentOn s c id then .next t else t.issueFirst c run rest
    | o => o

/-- One issue slot of a slice that R85 and R99 leave open; the slices of a cluster issue in ascending order within a cycle (R362,
R397, R398, R406). -/
def State.issueSlot (s : State) (c slice : Nat) (run : Instr → State → Out) : Out :=
  if c > mcCluster ∨ !s.sliceOpen c slice ∨ (s.cl c).passedBy slice then .next s
  else match (if c = mcCluster then s.mcBoundary else none) with
    | some t => .next t
    | none =>
      State.issueFirst (if c = mcCluster then { s with core := { s.core with wfi := false } } else s) c run (s.candidates c slice)

/-! ### What passes with a step -/

/-- The turn a step takes (log entry 1), and the state with it taken. -/
def State.takeTurn (s : State) : Turn × State :=
  match s.agenda with
  | t :: r => (t, { s with agenda := r })
  | [] => (Config.freeTurn s.free, s)

/-- Every cluster's cycle count moves on by what passes in its own clock (log entry 2). -/
def tickCycles (n : Nat → Nat) : Nat → List Cluster → List Cluster
  | _, [] => []
  | c, k :: ks => { k with cycle := k.cycle + n c } :: tickCycles n (c + 1) ks

/-- Package time and the clusters' clocks move on, and the cycles of clusters at work for a step count (R93). -/
def State.pass (s : State) : State :=
  { s with
    ptime := s.timeNext
    clusters := tickCycles s.cyclesNow 0 s.clusters
    free := s.free + 1
    steps := s.steps.map fun p => { p with
      used := p.used + (((List.range 160).filter fun cl => s.attributedTo p.id cl).map s.cyclesNow).sum } }

/-- Team registers written in an earlier cycle are in force (R177, R227). -/
def State.settleRegs (s : State) : State :=
  { s with clusters := s.clusters.map fun (k : Cluster) =>
      if k.teams.any fun t => !t.sysw.isEmpty then { k with teams := k.teams.map fun t => t.sysSettle (some k.cycle) } else k }

/-- The cycles in which a cluster's coalescer held a request for want of a miss-status entry (R131, R148). -/
def State.countHeld (s : State) : State :=
  (List.range 160).foldl (fun t c => if (s.misses c).length ≤ 512 then t else t.countCl c 0x118 (s.cyclesNow c)) s

/-- What has waited for a line at its home goes on, and errors found are reported (R16, R29, R145). -/
def State.resume (s : State) : State := (s.logErrs fun _ => false).ascmdResume.migResume.queueResume

/-- What passes with a step: time; the elements that engines stream and move (R243, R411); and what only waited for time, for
a page or for a line (R16, R29, R44, R54, R62, R78, R80, R96). -/
def State.tick (s : State) : State :=
  s.countHeld.pass.settleRegs.stream.moveSome.settleFaults.bootTick.unstall.resume.drainNotices.drainPkts.drainHandlers

/-- Whether an instruction is an event of the package rather than an opcode of the instruction stream. -/
def isEvent (i : Instr) : Bool :=
  match i with
  | .extensionOpcode .. => false
  | _ => i.parts.isNone

end Sys2Proof.Machine
end

