-- ==== Sys2Proof/Machine/Load.lean ====
section
/-!
DEFINITION. Machine/Load.lean: a program of one instruction placed by hand (log entry 13): a live address space whose first
gibibyte is mapped to the first gibibyte of D0, one team of one fibre on cluster 0, and the next turn given to its slice.
-/
namespace Sys2Proof.Machine

/-- Where the placed instruction stands, as a VA and as a PA. -/
def loadPc : Nat := 0x1000

/-- The page tables of the placed space (R111): one level-0 entry, and one 1 GiB leaf of CLASS PHASE with V, RD, WR, EX and
ACCESSED. -/
def loadTables (m : Memory) : Memory :=
  (m.putBytes 0x100000 (leBytes 8 0x101001)).putBytes 0x101000 (leBytes 8 0x18F)

/-- The placed team: one live fibre at the instruction, every register zero and full. -/
def loadTeam : Team :=
  { mcTeam (BitVec.ofNat 48 loadPc) with
    mc := false
    asid := 1
    code := BitVec.ofNat 48 loadPc
    fibres := [{ Fibre.blank 255 (seedOf 0 0) with live := true, pc := BitVec.ofNat 48 loadPc, sets := 1 }] }

/-- The instruction's bytes in memory, its space, its team and its cohort; cluster 0 issues next. -/
def State.placeCode (s : State) (bytes : List Byte) : State :=
  let space : Space := ⟨true, 0, 0x100000, false, 0, 0, false⟩
  State.modCl
    { s with
      mem := (loadTables s.mem).putBytes loadPc bytes
      pois := []
      tlb := []
      partials := []
      spaces := Tab.set Space.reset s.spaces 1 space
      agenda := .issue 0 0 :: s.agenda }
    0 fun k => { k with
      teams := [loadTeam]
      cohorts := [Cohort.make k.nextId 0 0 0 none [0] [0]]
      nextId := k.nextId + 1
      pend := []
      phases := []
      icache := []
      busy := List.replicate 6 none
      latches := List.replicate 6 []
      skip := (0, 0)
      skipTo := none }

end Sys2Proof.Machine
end

