-- ==== Sys2Proof/Machine/Step.lean ====
section
/-!
DEFINITION. Machine/Step.lean: one step of the package (log entry 1): time passes, then one slice issues or one event
comes about; and the placing of one instruction.
-/
namespace Sys2Proof.Machine

/-- One step: the next turn of the agenda, else the turn that `Config.freeTurn` gives. -/
def step (s : State) : Host.Outcome State Fault Refusal :=
  match s.takeTurn with
  | (.issue c slice, s) => s.tick.issueSlot c slice exec
  | (.event i, s) => if isEvent i then exec i s.tick else .next s.tick

/-- The state with one instruction stored where the next step fetches (log entry 13): `w` holds its bits, those at and above
`nbits` being zero. -/
def State.withFetchWord (s : State) (nbits w : Nat) : State := s.placeCode (leBytes 16 (w % 2 ^ nbits))

end Sys2Proof.Machine
end

