-- ==== Sys2Proof/WellFormed.lean ====
section
/-!
DEFINITION. WellFormed.lean: the instructions the decoder can give (R283 to R289), and the events whose arguments name
things the package has.
-/
namespace Sys2Proof

/-- A doorbell's function: PF0, PF1, or one of the 31 virtual functions (R20, R45). -/
def DoorFn.wf : DoorFn → Bool
  | .vf n => decide (1 ≤ n ∧ n ≤ 31)
  | _ => true

/-- A queue number (R30). -/
def queueOk (q : Nat) : Bool := decide (q < 16384)
/-- A cluster number, the management core's slice included (R46). -/
def coreOk (c : Nat) : Bool := decide (c ≤ 160)
/-- A cluster number. -/
def clusterOk (c : Nat) : Bool := decide (c < 160)
/-- A die (R11). -/
def dieOk (d : Nat) : Bool := decide (d < 4)

/-- Whether an event names things the package has; an opcode names no such thing. -/
def eventWf : Instr → Bool
  | .packetNop q | .packetSkip q | .fence q | .launchTask q | .graphSubmit q | .taskCtrlResume q | .taskCtrlRelease q
  | .taskCtrlCancelChain q | .copy q | .tlSignal q | .tlWait q | .stepDeclare q | .memAttr q | .fenceComplete q
  | .tlWaitComplete q | .tlSignalFire q | .memAttrComplete q => queueOk q
  | .qtail d q _ | .qctlEnable d q | .qctlDisable d q | .qctlReset d q _ => d.wf && queueOk q
  | .functionLevelReset d => d.wf
  | .vfAssignWrite n _ _ => decide (1 ≤ n ∧ n ≤ 31)
  | .teamPlacement _ c | .teamResourceRelease c _ | .preemptRequest c _ | .contextSave c _ | .teamRestore _ c
  | .clockSwitch c | .clThrottleWrite c _ | .dbgBkResume c _ => clusterOk c
  | .l1Eviction c _ => decide (c < 165)
  | .cohortFormation c | .splitThresholdExpiry c _ | .sleepWake c _ | .yieldRelease c _ | .loadDataArrival c _
  | .variableResultArrival c _ | .caddyResultArrival c _ | .phaseCompletion c _ => coreOk c
  | .gbarDieForward d b | .gbarD0Arrival d b | .gbarRelease d b => dieOk d && decide (b < 256)
  | .gbCtlWrite b off size _ => decide (b < 256 ∧ off + size ≤ 8 ∧ 0 < size)
  | .matrixOpStart c | .matrixOpRetire c | .budgetRefill c => clusterOk c && c % 2 == 0
  | .tlValueWrite d k _ | .tlErrvWrite d k _ => dieOk d && decide (k < 4096)
  | .stepDeadline n => decide (n < 256)
  | .sliceRatioChange c j r => clusterOk c && decide (j < 6 ∧ 2 ≤ r ∧ r ≤ 8)
  | .pageWalkComplete a asid vpn => decide (a < 165 ∧ asid < 1024 ∧ vpn < 2 ^ 36)
  | .replUpdateApply d => dieOk d
  | .clusterRetire d n => dieOk d && decide (n < 40)
  | .l2SliceRetire d n | .l2SliceRemap d n => dieOk d && decide (n < 24)
  | .hbmChannelSpare d n | .hbmChannelSpareComplete d n => dieOk d && decide (n < 64)
  | .meshEdgeLaneLoss e | .meshEdgeFailure e | .meshFlitRetry e => decide (e < 4)
  | .ryndiPortLaneLoss p | .ryndiPortLinkDown p | .ryndiPortReturnToService p => decide (p < 12)
  | .ryndiFlitReceive p vc _ slots => decide (p < 12 ∧ vc < 4 ∧ slots.length ≤ 3)
  | .fabricReductionArrival tx => decide (1 ≤ tx.data.length ∧ tx.data.length ≤ 16)
  | .thermalAlert d n _ => dieOk d && decide (n < 16)
  | .tempFallBelowLo d ts => dieOk d && ts.all fun t => decide (t.1 < 16)
  | .registerWrite place size _ =>
    [1, 2, 4, 8].contains size && (match place.port with
      | .bar0 d => d.wf && decide (place.off + size ≤ 0x100000)
      | .bar2 (.vf n) => decide (1 ≤ n ∧ n ≤ 31 ∧ place.off + size ≤ 0x10000)
      | .bar2 _ => decide (place.off + size ≤ 0x4000000))
  | .currentSample d k _ => dieOk d && decide (k < 40)
  | .patrolScrub sector _ => decide (sector < 0x6000000000 / 64)
  | _ => true

/-- Whether an instruction can come of the decoder (opcodes), or names things the package has (events). -/
def Instr.wf (i : Instr) : Bool :=
  match i with
  | .extensionOpcode len _ rest => decide (rest.toNat < 2 ^ (8 * len.bytes - 12))
  | _ =>
    match i.parts with
    | some (opc, f) => (f.illegal opc).isNone
    | none => eventWf i

end Sys2Proof
end

