-- ==== Sys2Proof/Safety.lean ====
section
/-!
DEFINITION. Safety.lean: the terms in which statements speak of a run: a step that answers a state, the invariant of the
package, an instruction that issues, what an issue may change, and the memory a store may reach.
-/
namespace Sys2Proof.Machine

/-! ### Safe runs -/

/-- A step that neither faults nor refuses. -/
def State.Goes (s : State) : Prop := ∃ t, step s = .next t

/-- The invariant of the package: memory and register file in their canonical forms. -/
def State.Inv (s : State) : Prop := s.mem.wf = true ∧ regsWf s.regs = true

/-! ### An instruction that issues -/

/-- What an instruction adds to the common rules of an issue: FORK, TCOPY, TFILL, TRET and those that use the fibre's generator alone
add anything (R404). -/
def extraOf : Instr → Extra
  | .fork _ => forkExtra
  | .tcopy f => xferExtra true f
  | .tfill f => xferExtra false f
  | .tret _ => tretExtra
  | .cvt _ => convExtra
  | .mxq _ => convExtra
  | .srd f => if f.sa.toNat = 5 then genExtra else {}
  | .swr f => if f.sa.toNat = 5 then genExtra else {}
  | _ => {}

/-- The cohort in turn attempts `ins`: `t` is the state with the results due at its distance written (R292), `i` the issue. -/
def State.Attempts (s : State) (ins : Instr) (t : State) (i : Iss) : Prop :=
  ∃ opc f x, ins.parts = some (opc, f) ∧ s.ready = some (t, x) ∧ i = t.iss x opc f (extraOf ins)

/-- The cohort in turn issues `ins`: no trap, wait or hold of the common rules stands against it (R263 to R266, R287). -/
def State.Issues (s : State) (ins : Instr) (t : State) (i : Iss) : Prop :=
  s.Attempts ins t i ∧ i.verdict t (extraOf ins) = .run

/-- What an attempted issue speaks of is what the state holds. -/
structure Iss.Of (i : Iss) (t : State) : Prop where
  team : t.team? i.cl i.slot = some i.team
  cohort : t.cohort? i.cl i.x.co.id = some i.x.co

/-- Every guarded fibre's fixed-latency result, and on to PC + len. -/
def State.gives (t : State) (i : Iss) (r : Nat → Res) : State := t.finish i (i.on.map r)

/-- Instructions whose whole effect is a fixed-latency result of each guarded fibre (R318, R365). -/
def isAlu : Instr → Bool
  | .iadd _ | .isub _ | .imul _ | .imulh _ | .imad _ | .imadw _ | .idiv _ | .irem _ | .imin _ | .imax _ | .iabs _
  | .ineg _ | .iaddc _ | .isubb _ | .iset _ | .lea _ | .idp4 _ | .bop _ | .shl _ | .shr _ | .shra _ | .rot _ | .xtr _
  | .ins _ | .ones _ | .clz _ | .ctz _ | .flip _ | .bsel _ | .fadd _ | .fmul _ | .ffma _ | .fmin _ | .fmax _
  | .fset _ | .fclass _ | .frnd _ | .frcp _ | .frsq _ | .fexp2 _ | .flog2 _ | .fsin _ | .fcos _ | .ftanh _ | .dadd _
  | .dmul _ | .dfma _ | .dmin _ | .dmax _ | .dset _ | .pkadd _ | .pkmul _ | .pkfma _ | .pkmin _ | .pkmax _ | .fdot2 _
  | .cvt _ | .mxq _ | .mxdq _ | .mov _ | .movi _ | .sel _ | .pset _ | .plop _ | .p2v _ | .v2p _ | .vxst _ | .shfl _
  | .shflx _ | .ballot _ | .vote _ | .redx _ | .scanx _ | .cdet _ | .segred _ | .matchx _ | .elect _ => true
  | _ => false

/-- A source operand of w bits as a fibre reads it: A (1), C (3). -/
def Iss.bv (i : Iss) (op w h : Nat) : BitVec w := BitVec.ofNat w (i.src op h).1
/-- Source B, immediates included. -/
def Iss.bvB (i : Iss) (w h : Nat) : BitVec w := BitVec.ofNat w (i.srcB h).1
/-- The poison of A and B, and of A, B and C: the lowest operand's origin (R215). -/
def Iss.pois2 (i : Iss) (h : Nat) : Option Half := (i.src 1 h).2 <|> (i.srcB h).2
def Iss.pois3 (i : Iss) (h : Nat) : Option Half := (i.src 1 h).2 <|> (i.srcB h).2 <|> (i.src 3 h).2
/-- The operand width that MOD bit 0 selects (R321, R325). -/
def opWidth (f : Fields) : Nat := if f.m 0 then 64 else 32

/-- What an instruction writes in a fibre: vector registers by number, predicates from 256, index registers from 264. -/
def Iss.destKeys (i : Iss) (h : Nat) : List Nat :=
  i.regsAt 0 h ++ ((i.predUses h).2.map fun p => 256 + p.2) ++ (if i.sh.dst = .xr then [264 + i.f.dst.toNat % 4] else [])

/-! ### Frames -/

/-- Everything but the clusters and the device registers is the same. -/
def State.SameOutside (s t : State) : Prop := t = { s with clusters := t.clusters, regs := t.regs }

/-- Device registers are the same but for the former's counter CF_FOREIGN of a cluster (R194). -/
def State.SameRegs (s t : State) (c : Nat) : Prop :=
  ∀ off, off ≠ clOff c + 0x150 → t.reg off = s.reg off

/-- Every other cluster, every other team of the cluster, and every other cohort of it is the same. -/
def State.SameOthers (s t : State) (i : Iss) : Prop :=
  (∀ c, c ≠ i.cl → t.cl c = s.cl c)
    ∧ (∀ slot, slot ≠ i.slot → t.team? i.cl slot = s.team? i.cl slot)
    ∧ (∀ id, id ≠ i.x.co.id → t.cohort? i.cl id = s.cohort? i.cl id)

/-- The issuing cluster keeps all but its teams, its cohorts, its numbering, and of its slices the count of issues, the operand
latch, the time of the next issue and the turn within the cycle, and the counter CF_XBAR (R194). -/
def State.SameCluster (s t : State) (c : Nat) : Prop :=
  t.cl c = { s.cl c with
    teams := (t.cl c).teams
    cohorts := (t.cl c).cohorts
    nextId := (t.cl c).nextId
    used := (t.cl c).used
    latches := (t.cl c).latches
    busy := (t.cl c).busy
    turn := (t.cl c).turn
    xbar := (t.cl c).xbar }

/-- The issuing team keeps all but its fibres, the uniform tags of its registers (R211), FPSTAT and what of it this cycle has set. -/
def State.SameTeam (s t : State) (i : Iss) : Prop :=
  ∀ u, s.team? i.cl i.slot = some u →
    ∃ v, t.team? i.cl i.slot = some v ∧ v = { u with fibres := v.fibres, uni := v.uni, fpstat := v.fpstat, fpset := v.fpset }

/-- A fibre keeps all but its address, its generator and its registers; of those it keeps every one but the destinations,
and a fibre that is not guarded keeps all of them. -/
def State.SameFibre (s t : State) (i : Iss) (h : Nat) : Prop :=
  let a := s.fibre i.cl i.slot h
  let b := t.fibre i.cl i.slot h
  b = { a with pc := b.pc, gen := b.gen, v := b.v, p := b.p, x := b.x }
    ∧ (h ∉ i.x.fs → b = a)
    ∧ (h ∉ i.on → b = { a with pc := b.pc })
    ∧ (∀ n, n ∉ i.destKeys h → b.reg n = a.reg n)
    ∧ (∀ n, n < 8 → 256 + n ∉ i.destKeys h → b.pred n = a.pred n)
    ∧ (∀ n, n < 4 → 264 + n ∉ i.destKeys h → atD b.x n 0 = atD a.x n 0)

/-- The issuing cohort keeps all but its issue number, distance, pipeline cycles and pending results; the new ones among these
are of guarded fibres' destinations. -/
def State.SameCohort (s t : State) (i : Iss) : Prop :=
  ∀ k, s.cohort? i.cl i.x.co.id = some k →
    ∃ m, t.cohort? i.cl i.x.co.id = some m
      ∧ m = { k with issued := m.issued, late := m.late, dist := m.dist, rest := m.rest, blocked := m.blocked }
      ∧ ∀ l ∈ m.late, l ∈ k.late ∨ (l.fibre ∈ i.on ∧ l.dst.key ∈ i.destKeys l.fibre)

/-- The frame of an instruction with fixed-latency results: what no rule names is the same, memory with all the rest. -/
def State.AluFrame (s t : State) (i : Iss) : Prop :=
  s.SameOutside t ∧ s.SameRegs t i.cl ∧ s.SameOthers t i ∧ s.SameCluster t i.cl ∧ s.SameTeam t i
    ∧ s.SameCohort t i ∧ ∀ h, s.SameFibre t i h

/-! ### What an access may reach -/

/-- Where an address of a space translates for an access of a kind: the physical address and its CLASS. -/
def State.paOf (s : State) (c asid va kind : Nat) : Option (Nat × Nat) :=
  match (s.xlate c asid va kind).1 with
  | .ok pa cls => some (pa, cls)
  | _ => none

/-- The leaf of an address is in the cluster's TLB with ACCESSED and DIRTY set: translating the address then writes nothing (R113). -/
def State.Warm (s : State) (c asid va : Nat) : Prop :=
  (∀ e, s.tlbFind c asid va = some e →
      bitOf e.acc (e.leafOf va).2 = true ∧ bitOf e.dirty (e.leafOf va).2 = true)
    ∧ (s.tlbFind c asid va).isSome = true

/-- Accesses of an issue that reach nothing but their own bytes: every lane's target is the scratchpad or warm memory outside
the register space; no partial, hotness sample or outstanding load of the fibres stands in between. -/
def State.Quiet (s : State) (i : Iss) (kind : Nat) (ls : List Lane) : Prop :=
  s.partials = [] ∧ s.regFld 0x980 0 5 = 0 ∧ (∀ h ∈ i.on, s.loading i h = false)
    ∧ ∀ l ∈ ls, match l.tgt with
      | .scr _ => True
      | .mem va => s.Warm i.cl i.team.space va ∧ ∃ pa cls, s.paOf i.cl i.team.space va kind = some (pa, cls)
          ∧ isRegs pa = false ∧ (cls = 2 → s.repl.pend = [])
      | .bad _ => False

/-- A byte of memory is as it was: as every die has it, and as every cluster reads it through its L1. -/
def State.SameByte (s t : State) (a : Nat) : Prop :=
  (∀ d, t.viewByte d a = s.viewByte d a) ∧ ∀ c, (t.l1Byte c a).1 = (s.l1Byte c a).1

/-- Whether a lane's bytes of memory cover a physical address. -/
def State.Covers (s : State) (i : Iss) (kind : Nat) (l : Lane) (a : Nat) : Prop :=
  ∃ va pa cls, l.tgt = .mem va ∧ s.paOf i.cl i.team.space va kind = some (pa, cls) ∧ pa ≤ a ∧ a < pa + l.n

end Sys2Proof.Machine
end

