-- ==== Sys2Proof/Certificates/Slice0/Obligations.lean ====
section
/-!
DEFINITION. Certificates/Slice0/Obligations.lean: the statements for the provers, in the order of the spec's chapters.
-/
open Sys2Proof
open Sys2Proof.Machine

/-! ### Encodings -/

/-- R279 to R287: every well-formed instruction of the stream is read back whole from its bytes, whatever follows them. -/
def Obligations.DecodeEncode : Prop := ∀ (i : Instr) (rest : List Byte), i.wf = true → isEvent i = false →
  ∃ bs, encodeBytes i = some bs ∧ decodeBytes (bs ++ rest) = .ok (i, rest)

/-- R279 to R287: what the decoder reads is well formed, and its encoding is the very bytes read. -/
def Obligations.EncodeDecode : Prop := ∀ (bs rest : List Byte) (i : Instr), decodeBytes bs = .ok (i, rest) →
  i.wf = true ∧ isEvent i = false ∧ ∃ b, encodeBytes i = some b ∧ bs = b ++ rest

/-- R279, R287, R288, R289: LEN 11, a reserved opcode and a wrong length are refused, each by its SUB; an assigned opcode
is checked by its entry; group F is accepted unchecked; no opcode has two rows. -/
def Obligations.DecodeRefuses : Prop :=
  (∀ w, w % 4 = 3 → decodeCode w = .error .lengthCode)
    ∧ (∀ w, w % 4 < 3 → w / 4 % 1024 < 0x3C0 → (∀ r ∈ opRows, r.opc ≠ w / 4 % 1024) → decodeCode w = .error .reserved)
    ∧ (∀ w, ∀ r ∈ opRows, w / 4 % 1024 = r.opc → w % 4 < 3 →
        ∃ len : Len, len.bytes = 8 + w % 4 * 4 ∧
          decodeCode w =
            if (r.shape (fieldsOf w len)).lens / 2 ^ (w % 4) % 2 = 0 then .error (.illegal 3)
            else if w / 2 ^ 25 % 2 = 1 then .error (.illegal 1)
            else if !zerosOk (r.shape (fieldsOf w len)) (fieldsOf w len) then .error (.illegal 1)
            else if !combosOk (r.shape (fieldsOf w len)) (fieldsOf w len) then .error (.illegal 3)
            else .ok (r.con (fieldsOf w len)))
    ∧ (∀ w, w % 4 < 3 → 0x3C0 ≤ w / 4 % 1024 →
        ∃ len rest, decodeCode w = .ok (.extensionOpcode len (BitVec.ofNat 6 (w / 4)) rest))
    ∧ ∀ r ∈ opRows, ∀ q ∈ opRows, r.opc = q.opc → r = q

/-- R279, R281: words written out from the entries of the opcode tables are the instructions they stand for. -/
def Obligations.SpecWords : Prop :=
  let z : Fields := ⟨.s, 7, false, 0, 0, 0, 0, 0, 0, 0, 0, 0, 0⟩
  decodeTableWord 64 0x0000000000007E00 = some (.nop z)
    ∧ decodeTableWord 64 0x043C0C0018037034 = some (.iaddc { z with stall := 3, dst := 6, sb := 3, sc := 15, mod := 1 })
    ∧ decodeTableWord 96 0x000000200000002000007601 = some (.bra { z with len := .m, sa := 8, imm := 0x20 })
    ∧ decodeTableWord 96 0x000000403000002010007801
      = some (.ld { z with len := .m, dst := 4, sa := 8, mod := 12, imm := 0x40 })
    ∧ decodeTableWord 64 0x2400242018007900 = some (.atom { z with dst := 6, sa := 8, sb := 9, mod := 9 })
    ∧ decodeTableWord 128 0x00000005000000000030141058001B02
      = some (.mma { z with len := .l, gp := 1, dst := 22, sa := 4, sb := 5, sc := 12, ext := 5 })
    ∧ decodeTableWord 64 0x0000000000004E0C = some (.trap { z with gp := 4 })

/-! ### The step, reset and the invariant -/

/-- R178, R287, log entry 1: a step whose turn is an open slot of a slice runs the instruction that the bytes at the first
candidate's PC decode to, on the state after the time that passes and the fetch; when it cannot issue and there are others, the
slot is the next one's; a slice below one that has issued in the same cycle waits (R397). The management core's slice takes no
interrupt and does not wait in this case (R48, R457). Log entry 1, R87, R104: a step whose turn is an event runs it on the state
after the time that passes; the agenda gives the turn while it holds one. With nothing at work and nothing that waits, what passes
is time alone, and package time does not pass the next event that is due (R88, R91, R93, R101); a cluster with fibres in a pool or
a blocked cohort lets no cycle of the former or of a split threshold pass (R181, R184). The model's choices in it: log entries 2,
77 and 86. -/
def Obligations.StepRunsDecoded : Prop :=
  (∀ (s u t w : State) (c slice id n : Nat) (others : List Nat) (x : Ctx) (head bs rest : List Byte) (i : Instr),
      s.takeTurn = (.issue c slice, u) → c ≤ mcCluster → u.tick.sliceOpen c slice = true →
      (u.tick.cl c).passedBy slice = false → (c = mcCluster → u.tick.mcBoundary = none) → u.tick.candidates c slice = id :: others →
      let v := if c = mcCluster then { u.tick with core := { u.tick.core with wfi := false } } else u.tick
      let r := { v with cur := some (c, id) }
      v.ctxOf c id = some x → x.pc.toNat % 4 = 0 →
      r.fetch x.c x.team.space x.pc.toNat (min 8 (32 - x.pc.toNat % 32)) = (.ok head, t) →
      n = (match (head.headD 0).toNat % 4 with | 1 => 12 | 2 => 16 | _ => 8) → x.pc.toNat % 32 + n ≤ 32 →
      (n = 8 ∧ bs = head ∧ w = t ∨ 8 < n ∧ t.fetch x.c x.team.space x.pc.toNat n = (.ok bs, w)) →
      decodeBytes bs = .ok (i, rest) →
        (others = [] → step s = exec i w)
        ∧ (∀ y : State, exec i w = .next y → y.wentOn v c id = true → step s = .next y)
        ∧ ∀ y : State, exec i w = .next y → y.wentOn v c id = false → others ≠ [] → step s = y.issueFirst c exec others)
  ∧ (∀ (s u : State) (i : Instr),
    (s.takeTurn = (.event i, u) → isEvent i = true → step s = exec i u.tick)
      ∧ (∀ a r, s.agenda = a :: r → s.takeTurn = (a, { s with agenda := r }))
      ∧ (s.steps = [] → s.notices = [] → s.pkts = [] → s.handlers = [] → s.stalled = [] → s.tasks = [] → s.xfers = [] →
          s.boot.stage = 0 → s.errs = [] → s.asBusy = false → (∀ m, s.mig = some m → m.begun = true) →
          (∀ q ∈ s.queues, q.2.enable = true → q.2.state ≠ .disabled) →
          (∀ k ∈ s.clusters, k.pend.length ≤ 512 ∧ ∀ tm ∈ k.teams, tm.sysw = [] ∧ tm.matq = []) →
          s.tick.ptime = max s.ptime (min (s.ptime + Config.elapsed s.free) s.due) ∧ s.tick.free = s.free + 1
            ∧ (∀ c, c < s.clusters.length →
                s.tick.cl c = { s.cl c with cycle := (s.cl c).cycle + s.cyclesNow c })
            ∧ (∀ c, (s.cl c).counts = false → s.cyclesNow c = Config.cycles c s.free)
            ∧ (∀ c, (s.cl c).counts = true → s.cyclesNow c ≤ 1
                ∧ (s.formDue c = true ∨ s.splitDue c = true → s.cyclesNow c = 0))
            ∧ s.tick = { s with ptime := s.tick.ptime, free := s.tick.free, clusters := s.tick.clusters }))

/-- R5, R30, R38, R49, R56, R65, R87, R103, R104, R107, R173, R407: what reset leaves. The model's choices in it: log entries
3 and 4. -/
def Obligations.ResetState : Prop :=
  State.reset.ptime = 0
    ∧ (∀ off, (State.reset.reg off).toNat = match regDef off with | some d => d.reset % 2 ^ 64 | none => 0)
    ∧ State.reset.clusters.length = 161
    ∧ (∀ c, c ≤ 160 → (State.reset.cl c).teams = [] ∧ (State.reset.cl c).cohorts = [] ∧ (State.reset.cl c).cycle = 0)
    ∧ (∀ q, (State.reset.queue q).state = .disabled)
    ∧ (∀ a, (State.reset.space a).live = false)
    ∧ (∀ k, (State.reset.timeline k).value = 0 ∧ (State.reset.timeline k).errv = BitVec.allOnes 64)
    ∧ (∀ c, c < 160 → (State.reset.reg (clOff c + 0x08)).toNat = 0x888888
        ∧ (State.reset.reg (clOff c + 0x18)).toNat = 32 * 2 ^ 16 + 32 * 2 ^ 8 + 32
        ∧ (State.reset.reg (clOff c + 0x00)).toNat = 40 * 2 ^ 16 + 64)
    ∧ (State.reset.reg 0x808).toNat = 900 * 2 ^ 40 + 90 * 2 ^ 23 + 64 * 2 ^ 16 + 40 * 2 ^ 8 + 1
    ∧ (State.reset.reg 0x230).toNat = 10000 ∧ State.reset.seqNext = 1 ∧ State.reset.core.running = false
    ∧ State.reset.tasks = [] ∧ State.reset.pois = []

/-- The canonical form of memory and registers holds at reset. -/
def Obligations.ResetInv : Prop := State.reset.Inv

/-- Every step keeps the canonical form of memory and registers, from any state that has it. -/
def Obligations.StepKeepsInv : Prop := ∀ s t : State, s.Inv → step s = .next t → t.Inv

/-- No step and no instruction faults or refuses; an instruction that comes to its turn with no cohort to issue it changes
nothing (log entry 6). -/
def Obligations.EveryStepAnswers : Prop := ∀ s : State, s.Goes
  ∧ ∀ i, (∃ t, exec i s = .next t) ∧ (isEvent i = false → s.ready = none → exec i s = .next s)

/-! ### Issue, results and traps -/

/-- R207 to R209, R213, R216, R263 to R266, R285 to R288, R365, R388: when an instruction issues: it is legal for the slice;
no guard is poisoned, but for NOP's, which has no effect; the guarded fibres' operands lie in their windows; the registers it
reads (in every fibre when it is cross-lane) and those it writes are full, off the path of a FIXED cohort too; nothing it consumes
is poisoned; debug hazard mode is off; under STRICTX a cross-lane instruction's cohort is aligned; no phase of any fibre of the
cohort is still open before a memory instruction; and no generator it needs is still to be stepped by an earlier store. The
model's choices in it: log entries 27, 28, 115 and 133. -/
def Obligations.IssueRuns : Prop := ∀ (s t : State) (x : Ctx) (ins : Instr) (opc : Nat) (f : Fields),
  ins.parts = some (opc, f) → s.ready = some (t, x) →
  let i := t.iss x opc f (extraOf ins)
  ins.wf = true → (i.sh.noCore = true → x.isMc = false) → (i.sh.onlyCore = true → x.isMc = true) →
  ((∃ g, ins = .tcopy g ∨ ins = .tfill g) → (extraOf ins).bad t x = none) →
  ((∃ g, ins = .tret g) → x.isMc = true ∨ ∀ h ∈ x.fs, (x.fib h).tm = true) →
  (opc ≠ 0x380 → ∀ h ∈ x.fs, ((x.fib h).pred f.gp.toNat).pois = none) →
  (∀ h ∈ i.on, ∀ u ∈ i.uses h, u.range (x.fib h) x.team.regs = none) →
  (∀ h ∈ x.fs, h ∈ i.on ∨ (0x1C0 ≤ opc ∧ opc < 0x200) → ∀ u ∈ i.uses h, u.rd = true →
    ∀ r ∈ u.regs (x.fib h), ((x.fib h).reg r).full = true) →
  (∀ h ∈ i.offPath, ∀ u ∈ i.uses h, u.rd = true → ∀ r ∈ u.regs (x.fib h), ((x.fib h).reg r).full = true) →
  (∀ h ∈ i.on, ∀ u ∈ i.uses h, u.wr = true → ∀ r ∈ u.regs (x.fib h), ((x.fib h).reg r).full = true) →
  (opc = 0x380 ∨ x.isMc = true ∨ x.team.inter = true ∨ (t.reg (clOff x.c + 0x180)).getLsbD 0 = false) →
  (∀ h ∈ i.on, ∀ op ∈ i.sh.cons, (i.src op h).2 = none
    ∧ (op = 1 → i.sh.sa = .ps → ((x.fib h).pred (f.sa.toNat % 8)).pois = none)) →
  (i.sh.xlane = true → x.team.strictx = true → x.co.aligned = true ∨ x.team.fixed = true) →
  (0x200 ≤ opc → opc < 0x340 → ∀ h, h ∈ x.fs ∨ h ∈ x.co.fibres → (x.fib h).live = true → (x.fib h).phase = false) →
  (extraOf ins).held t i = false →
  s.Issues ins t i

/-- R208, R209, R263, R388: what becomes of an attempt that does not issue: it is held, or waits for registers, or traps; with
no cohort issuing nothing happens; group F traps EXTENSION in every fibre (R289). The model's choices in it: log entries 1
and 27. -/
def Obligations.IssueOtherwise : Prop := ∀ (s t : State) (i : Iss) (ins : Instr),
  (s.Attempts ins t i → i.verdict t (extraOf ins) = .held → exec ins s = .next t)
    ∧ (s.Attempts ins t i → i.verdict t (extraOf ins) = .blocked → exec ins s = .next (t.modCohort i.cl i.x.co.id fun k =>
        { k with blocked := some ((k.blocked.map (·.1)).getD (t.cl i.cl).cycle,
            (k.blocked.map (·.2.1)).getD i.team.split.toNat, i.waits) }))
    ∧ (∀ q, s.Attempts ins t i → i.verdict t (extraOf ins) = .trap q →
        exec ins s = .next (t.takeTrap i.x (i.f.code i.opc) q))
    ∧ (isEvent ins = false → s.ready = none → exec ins s = .next s)
    ∧ (∀ len slot rest x, s.ready = some (t, x) → exec (.extensionOpcode len slot rest) s = .next (t.takeTrap x
        (BitVec.ofNat 128 (len.bit + (0x3C0 + slot.toNat) * 2 ^ 2 + rest.toNat * 2 ^ 12))
        ⟨0x02, 0, x.fs.map fun h => (h, 0), 0xFFFF⟩))

/-- R264: the first check that fails decides, and every fibre that fails it traps: ILLEGAL, RANGE in guarded fibres, POISON
SUB 1 for a poisoned guard, EMPTY (a register off the path of a FIXED cohort among them), HAZARD; then the waits; then POISON SUB
0, ALIGNX, the open phase and the generator an earlier store is still to step. The model's choices in it: log entries 26, 27, 28,
29, 35, 115 and 133. -/
def Obligations.TrapRanks : Prop := ∀ (t : State) (i : Iss) (e : Extra),
  let each (g : Nat → Option Nat) : List (Nat × Nat) := i.x.fs.filterMap fun h => (g h).map fun v => (h, v)
  let rng (h : Nat) : Option Nat := if i.guard h then
    (i.uses h).findSome? fun u => (u.range (i.fib h) i.team.regs).map fun r => u.op * 256 + r % 256 else none
  let gua (h : Nat) : Option Half := if i.opc = 0x380 then none else ((i.fib h).pred i.f.gp.toNat).pois
  let emp (h : Nat) : Option Nat := (if i.guard h || i.cross then
    (i.uses h).findSome? fun u => if u.rd && u.fe then (u.empty (i.fib h)).map (u.info (i.fib h)) else none else none)
      <|> i.offPath.findSome? fun o => (i.uses o).findSome? fun u =>
        if u.rd && u.fe then (u.empty (i.fib o)).map fun _ => u.info (i.fib h) (u.first (i.fib h)) else none
  let haz (h : Nat) : Option Nat := if i.guard h && i.haz t && i.opc != 0x380 then i.hazard h else none
  (∀ n, i.illegal t e = some n → i.verdict t e = .trap ⟨0x01, n, i.x.fs.map fun h => (h, 0), 0xFFFF⟩)
    ∧ (i.illegal t e = none → (∃ h ∈ i.x.fs, rng h ≠ none) → i.verdict t e = .trap ⟨0x05, 0, each rng, 0xFFFF⟩)
    ∧ (i.illegal t e = none → (∀ h ∈ i.x.fs, rng h = none) →
        ((∃ h ∈ i.x.fs, gua h ≠ none) → ∃ o, (i.x.fs.filterMap gua).head? = some o
          ∧ i.verdict t e = .trap ⟨0x07, 1, each (fun h => (gua h).map fun _ => i.f.gp.toNat), o⟩)
        ∧ ((∀ h ∈ i.x.fs, gua h = none) →
          ((∃ h ∈ i.x.fs, emp h ≠ none) → i.verdict t e = .trap ⟨0x06, 0, each emp, 0xFFFF⟩)
          ∧ ((∀ h ∈ i.x.fs, emp h = none) →
            ((∃ h ∈ i.x.fs, haz h ≠ none) → i.verdict t e = .trap ⟨0x0B, 0, each haz, 0xFFFF⟩)
            ∧ ((∀ h ∈ i.x.fs, haz h = none) →
              (i.waits ≠ [] → i.verdict t e = .blocked)
              ∧ (i.waits = [] →
                ((∃ h ∈ i.x.fs, i.consumed h ≠ none) → ∃ o, i.verdict t e = .trap ⟨0x07, 0,
                    each (fun h => (i.consumed h).map (·.info)), o⟩)
                ∧ ((∀ h ∈ i.x.fs, i.consumed h = none) →
                  i.verdict t e = (if i.sh.xlane && i.team.strictx && !(i.x.co.aligned || i.team.fixed)
                      then .trap ⟨0x10, 0, i.x.fs.map fun h => (h, 0), 0xFFFF⟩
                    else if decide (0x200 ≤ i.opc ∧ i.opc < 0x340)
                        && (i.x.fs ++ i.x.co.fibres).any (fun h => (i.fib h).live && (i.fib h).phase) then .held
                    else if e.held t i then .held
                    else .run)))))))

/-- R180, R184, R263, R267, R268: taking a trap. Every trapping fibre goes to TRAPV in trap mode with its record; the others
stand at the trapping instruction; results that were due are written; the cohort dissolves unless it is FIXED. The model's
choices in it: log entries 101 and 102. -/
def Obligations.TrapEntry : Prop := ∀ (t u : State) (x : Ctx) (iw : Code) (q : Trap),
  u.team? x.c x.co.team = some x.team → u.cohort? x.c x.co.id = some x.co → x.isMc = false →
  x.fs.Nodup → (∀ h ∈ x.fs, h < x.team.fibres.length) → (q.hits.map (·.1)).Nodup →
  (∀ p ∈ q.hits, p.1 ∈ x.fs ∧ (x.fib p.1).tm = false) → x.team.trapv ≠ 0 →
  t.padCheck x.c x.team.space x.team.trapv.toNat 4 x.team.etag.toNat = (.pass, u) →
  let w := t.takeTrap x iw q
  let before (h : Nat) : Fibre := (u.land x.c x.co.id none).fibre x.c x.co.team h
  let pooled (h : Nat) : Fibre := { before h with wait := .none, rel := .plain, entered := (u.cl x.c).cycle }
  (∀ h ∈ x.fs, h ∉ q.hits.map (·.1) → w.fibre x.c x.co.team h = { pooled h with pc := (x.fib h).pc })
    ∧ (∀ h, h ∉ x.fs → w.fibre x.c x.co.team h = before h)
    ∧ (∀ h info, (h, info) ∈ q.hits → ∃ r : TrapRec,
        w.fibre x.c x.co.team h = { pooled h with pc := x.team.trapv, tm := true, trec := some r }
          ∧ r.pc = x.pc ∧ r.cause.toNat = q.cause % 256 ∧ r.sub.toNat = q.sub % 256 ∧ r.origin = q.origin
          ∧ r.npos.toNat = x.n % 128 ∧ r.pos.toNat = x.pos h % 64 ∧ r.iw = iw ∧ r.info.toNat = info % 2 ^ 64
          ∧ r.fpmode = x.team.fpmode ∧ r.w = x.team.w64 ∧ r.pol = x.team.fixed
          ∧ r.aligned = (x.co.aligned || x.team.fixed) ∧ r.time.toNat = u.ptime % 2 ^ 64
          ∧ r.mask.toNat = (q.hits.map fun p => 2 ^ x.pos p.1).sum % 2 ^ 64)
    ∧ (x.co.fixed = none → w.cohort? x.c x.co.id = none) ∧ w.mem = u.mem ∧ w.tasks = u.tasks

/-- R80, R268, R354: a trap in trap mode, with no handler, or whose handler lacks its pad faults the task, a missing pad
as CFI; a handler page that waits leaves everything as it is. The team that faults ends; of the faults of one nanosecond of
package time the lowest team index's is recorded, and the task becomes FAULTED once that nanosecond is over, which ends
every resident team of the task and discards the saved ones. A task that is neither READY nor RUNNING is past faulting. That a
task is FAULTED when package time moves on is the model's choice: log entry 62. -/
def Obligations.TrapFaults : Prop := ∀ (t u : State) (x : Ctx) (iw : Code) (q : Trap), x.isMc = false →
  (x.team.trapv = 0 ∨ (∃ p ∈ q.hits, (x.fib p.1).tm = true) →
      t.takeTrap x iw q = t.faultTask x.team.seq q.cause x.team.index)
    ∧ (x.team.trapv ≠ 0 → (∀ p ∈ q.hits, (x.fib p.1).tm = false) →
        (t.padCheck x.c x.team.space x.team.trapv.toNat 4 x.team.etag.toNat = (.fail, u) →
          t.takeTrap x iw q = u.faultTask x.team.seq 0x04 x.team.index)
        ∧ (t.padCheck x.c x.team.space x.team.trapv.toNat 4 x.team.etag.toNat = (.wait, u) → t.takeTrap x iw q = u))
    ∧ (∀ (seq cause index : Nat) (k : Task), t.task? seq = some k →
        (k.state ≠ .running → k.state ≠ .ready → t.faultTask seq cause index = t ∧ t.faultNow seq cause index = t)
        ∧ (k.state = .running ∨ k.state = .ready →
            (let v := t.faultTask seq cause index
              let first : Nat × Nat × Nat := match k.fault with
                | none => (cause, index, t.ptime)
                | some (c, m, a) => if a = t.ptime ∧ index < m then (cause, index, a) else (c, m, a)
              v.task? seq = some { k with fault := some first }
                ∧ v.saved = t.saved ∧ v.mem = t.mem
                ∧ ∀ c slot y tm, (c, slot) ∈ t.teamsOf seq → t.team? c slot = some y → v.team? c slot = some tm →
                    if y.index = index then tm.ended = true ∧ ∀ fb ∈ tm.fibres, fb.live = false else tm = y)
            ∧ ∃ v : State,
              t.faultNow seq cause index = v.reportTask seq (some (0x11, false))
                ∧ v.task? seq = some { k with
                    state := .faulted
                    fault := none
                    fcause := BitVec.ofNat 8 cause
                    fteam := BitVec.ofNat 16 index }
                ∧ (∀ m ∈ v.saved, m.team.seq ≠ seq) ∧ v.mem = t.mem
                ∧ ∀ c slot tm, (c, slot) ∈ t.teamsOf seq → v.team? c slot = some tm →
                    tm.ended = true ∧ ∀ fb ∈ tm.fibres, fb.live = false))
    ∧ ((t.tasks.map (·.seq)).Nodup → ∀ k ∈ t.tasks, t.settleFaults.task? k.seq = some (match k.fault with
        | none => k
        | some (c, m, a) =>
          if a < t.ptime ∧ (k.state = .running ∨ k.state = .ready) then { k with
            state := .faulted
            fault := none
            fcause := BitVec.ofNat 8 c
            fteam := BitVec.ofNat 16 m }
          else k))

/-- R46 to R48, R51: the management core enters vector 0 on a trap and vector n on an interrupt, with MC_EPC the interrupted
address and MC_STAT.IE clear; a trap while IE is clear, and a vector without its pad, take over; a vector whose page waits is
entered once it no longer does; the D0 core hands over to the D1 core, which then only halts. The model's choices in it: log entries
102 and 129. -/
def Obligations.CoreTrapsAndInterrupts : Prop := ∀ (t : State), regsWf t.regs = true →
  (∀ n pc trap a u, (trap = true → t.ie = true) → t.mcVector n = (.pass, a, u) → regsWf u.regs = true →
      let w := t.mcEnter n pc trap
      let v := (u.cl mcCluster).cohorts.foldl (fun s k => s.land mcCluster k.id none) u
      w.reg 0x218 = pc.setWidth 64 ∧ w.ie = false ∧ w.core.wfi = false ∧ w.mem = u.mem
        ∧ (∀ k ∈ (w.cl mcCluster).cohorts, k.hold = .none ∧ k.dist = 0) ∧ (∀ l ∈ (w.cl mcCluster).latches, l = [])
        ∧ ∀ tm, u.team? mcCluster 0 = some tm → 0 < tm.fibres.length →
            w.fibre mcCluster 0 0 = { v.fibre mcCluster 0 0 with pc := a, wait := .none })
    ∧ (∀ n pc, t.ie = false → t.mcEnter n pc true = t.takeover)
    ∧ (∀ n pc trap a u, (trap = true → t.ie = true) → t.mcVector n = (.fail, a, u) → t.mcEnter n pc trap = u.takeover)
    ∧ (∀ n pc trap a u, (trap = true → t.ie = true) → t.mcVector n = (.wait, a, u) → t.mcEnter n pc trap = u)
    ∧ (∀ (x : Ctx) iw q, x.isMc = true → ∃ r : TrapRec, r.pc = x.pc ∧ r.cause.toNat = q.cause % 256
        ∧ r.sub.toNat = q.sub % 256 ∧ r.npos = 1 ∧ r.iw = iw ∧ r.time.toNat = t.ptime % 2 ^ 64
        ∧ t.takeTrap x iw q = (t.homePut (cellsAt (t.sramPa ((t.reg 0x210).toNat + 64)) (recBytes r.words))).mcEnter 0 x.pc true)
    ∧ (t.core.d1 = true → t.takeover = t.stopCore ∧ t.takeover.core.running = false)
    ∧ (t.core.d1 = false → t.takeover.core.running = true ∧ t.takeover.core.d1 = true ∧ t.takeover.ie = false)
    ∧ (∀ s sl n, s.takeTurn = (.issue mcCluster sl, t) → t.tick.sliceOpen mcCluster sl = true →
        (t.tick.cl mcCluster).passedBy sl = false → t.tick.mcTake = some n →
        step s = .next (t.tick.mcEnter n (t.tick.fibre mcCluster 0 0).pc false))
    ∧ (∀ n, t.mcTake = some n ↔ t.core.running = true ∧ t.ie = true ∧ (∀ k ∈ (t.cl mcCluster).cohorts, k.part = none)
        ∧ 1 ≤ n ∧ n ≤ 6 ∧ (t.reg 0x200).getLsbD n = true ∧ (t.reg 0x208).getLsbD n = true
        ∧ ∀ m, 1 ≤ m → m < n → (t.reg 0x200).getLsbD m = false ∨ (t.reg 0x208).getLsbD m = false)

/-- R269, R422: TRET. A guarded fibre leaves trap mode for its record's PC, or the instruction after it; its record then
reads 0; the others go to PC + 8. On the core: PC takes MC_EPC, or the instruction after it, and MC_STAT.IE is set. With no guarded
fibre, on. A FIXED cohort's pending results stay pending (R294, R430). -/
def Obligations.ReturnFromTrap : Prop := ∀ (s t : State) (i : Iss) (f : Fields), s.Issues (.tret f) t i →
  (i.on = [] → exec (.tret f) s = .next (t.finish i []))
    ∧ (i.on ≠ [] → i.x.isMc = true → regsWf t.regs = true → 0 < i.team.fibres.length →
        ∃ w : State, exec (.tret f) s = .next w ∧ w.ie = true ∧ w.mem = t.mem
          ∧ (w.fibre i.cl i.slot 0).pc.toNat = ((t.reg 0x218).toNat + (if f.m 0 then
              (match (t.homeByte (t.sramPa ((t.reg 0x210).toNat + 80))).toNat % 4 with | 1 => 12 | 2 => 16 | _ => 8)
              else 0)) % 2 ^ 48)
    ∧ (i.on ≠ [] → i.x.isMc = false → i.x.fs.Nodup → (∀ h ∈ i.x.fs, h < i.team.fibres.length) →
        ∃ w : State, exec (.tret f) s = .next w
          ∧ let a := t.account i
            let ended := if i.x.co.fixed.isSome then a else a.land i.cl i.x.co.id none
            let pooled (h : Nat) : Fibre := { ended.fibre i.cl i.slot h with
              wait := .none
              rel := .plain
              entered := (a.cl i.cl).cycle }
            (∀ h ∈ i.on, ∀ r, (i.fib h).trec = some r → w.fibre i.cl i.slot h = { pooled h with
                tm := false
                trec := none
                pc := if !f.m 0 then r.pc else r.pc + (match r.iw.toNat % 4 with | 1 => 12 | 2 => 16 | _ => 8) })
            ∧ (∀ h ∈ i.x.fs, h ∉ i.on → w.fibre i.cl i.slot h = { pooled h with pc := i.x.pc + 8 })
            ∧ w.mem = t.mem)

/-- R203, R204: vz and p7 read as they are wired and discard what is written to them. R291 to R294: a pending result is
written when the cohort's distance reaches it, the nearer ones first, and not before; when the cohort dissolves all are. -/
def Obligations.RegistersAndPendingResults : Prop :=
  (∀ (f : Fibre) (r : VReg) (p : Pred),
    f.reg 255 = ⟨0, true, false⟩ ∧ f.setReg 255 r = f ∧ f.pred 7 = ⟨true, none⟩ ∧ f.setPred 7 p = f
      ∧ (∀ (n : Nat), n < 255 → n < f.v.length → (f.setReg n r).reg n = r)
      ∧ (∀ (n : Nat), n < 7 → n < f.p.length → (f.setPred n p).pred n = p))
  ∧ (∀ (s : State) (c id : Nat) (co : Cohort) (tm : Team) (upto : Option Nat),
    s.cohort? c id = some co → s.team? c co.team = some tm →
    let due (l : Late) : Prop := ∀ d, upto = some d → l.land ≤ d
    let w := s.land c id upto
    (∃ k, w.cohort? c id = some k ∧ ∀ l, l ∈ k.late ↔ l ∈ co.late ∧ ¬ due l)
      ∧ (∀ h n, n < 255 → (∀ l ∈ co.late, l.fibre = h → l.dst.key = n → ¬ due l) →
          (w.fibre c co.team h).reg n = (s.fibre c co.team h).reg n)
      ∧ (∀ h n, n < 7 → (∀ l ∈ co.late, l.fibre = h → l.dst.key = 256 + n → ¬ due l) →
          (w.fibre c co.team h).pred n = (s.fibre c co.team h).pred n)
      ∧ (∀ l r n, l ∈ co.late → l.dst = .v n r → due l → n < 255 → l.fibre < tm.fibres.length →
          n < (s.fibre c co.team l.fibre).v.length →
          (∀ m ∈ co.late, m.fibre = l.fibre → m.dst.key = n → due m → m = l ∨ m.land < l.land) →
          (w.fibre c co.team l.fibre).reg n = r)
      ∧ (∀ l p n, l ∈ co.late → l.dst = .p n p → due l → n < 7 → l.fibre < tm.fibres.length →
          n < (s.fibre c co.team l.fibre).p.length →
          (∀ m ∈ co.late, m.fibre = l.fibre → m.dst.key = 256 + n → due m → m = l ∨ m.land < l.land) →
          (w.fibre c co.team l.fibre).pred n = p))

/-- R226, R233, R290 to R296: what a fixed-latency result does. In interlocked mode the destinations are written at once;
in native mode they stay pending until the cohort has come their latency further, STALL included, while every fibre of the
issue goes to PC + len; flags enter FPSTAT and stepped generators their fibres. -/
def Obligations.FixedLatencyResults : Prop := ∀ (t : State) (i : Iss) (r : Nat → Res), i.Of t →
  i.x.fs.Nodup → (∀ h ∈ i.x.fs, h < i.team.fibres.length) → (∀ h, (r h).h = h) →
  let w := t.gives i r
  let stepped (h : Nat) : Fibre := { t.fibre i.cl i.slot h with
    pc := i.next
    gen := ((r h).gen).getD (t.fibre i.cl i.slot h).gen }
  (∀ h ∈ i.on, w.fibre i.cl i.slot h
      = if i.team.inter then (r h).dsts.foldl Fibre.apply (stepped h) else stepped h)
    ∧ (∀ h ∈ i.x.fs, h ∉ i.on → w.fibre i.cl i.slot h = { t.fibre i.cl i.slot h with pc := i.next })
    ∧ (∀ h, h ∉ i.x.fs → w.fibre i.cl i.slot h = t.fibre i.cl i.slot h)
    ∧ (∃ k, w.cohort? i.cl i.x.co.id = some k
        ∧ k.dist = i.x.co.dist + 1 + (if i.team.inter then 0 else i.f.stall.toNat)
        ∧ k.late = i.x.co.late ++ (if i.team.inter then []
            else i.on.flatMap fun h => (r h).dsts.map fun d => ⟨i.x.co.dist + i.sh.lat, h, d⟩))
    ∧ ∃ u, w.team? i.cl i.slot = some u
        ∧ u.fpstat = i.on.foldl (fun v h => v ||| (r h).flags.setWidth 32) i.team.fpstat

/-- R318, R365: the frame of every instruction whose whole effect is a fixed-latency result: but for the destinations, PC,
FPSTAT, the generator and the cohort's own counts, no register, no byte of memory and nothing else of the package changes. -/
def Obligations.ArithmeticFrame : Prop := ∀ (s t : State) (i : Iss) (ins : Instr), isAlu ins = true →
  s.Issues ins t i → ∃ w : State, exec ins s = .next w ∧ w.mem = t.mem ∧ t.AluFrame w i

/-- R207, R293: an instruction with a variable-latency destination leaves its destination registers empty, and nothing
else of the fibre changes but PC; a result still to land there is discarded. -/
def Obligations.VariableLatencyResults : Prop :=
  ∀ (t : State) (i : Iss) (rs : List (Nat × Nat × Option Half × Flags)), i.Of t →
  i.x.fs.Nodup → (∀ h ∈ i.x.fs, h < i.team.fibres.length) → rs.map (·.1) = i.on →
  let w := t.finishVar i rs
  (∀ h ∈ i.on, ∀ u, i.use? 0 h = some u →
      (∀ n, n < 255 → n < (t.fibre i.cl i.slot h).v.length →
        (w.fibre i.cl i.slot h).reg n = if n ∈ u.regs (i.fib h)
          then { (t.fibre i.cl i.slot h).reg n with full := false } else (t.fibre i.cl i.slot h).reg n)
      ∧ w.fibre i.cl i.slot h = { t.fibre i.cl i.slot h with
          pc := i.next
          v := (w.fibre i.cl i.slot h).v })
    ∧ (∀ h ∈ i.x.fs, h ∉ i.on → w.fibre i.cl i.slot h = { t.fibre i.cl i.slot h with pc := i.next })
    ∧ (w.cl i.cl).pend.length = (t.cl i.cl).pend.length + (i.on.filter fun h => (i.use? 0 h).isSome).length
    ∧ (∀ k, k < (t.cl i.cl).pend.length → (w.cl i.cl).pend[k]? = (t.cl i.cl).pend[k]?)
    ∧ (∀ e ∈ rs, ∀ u, i.use? 0 e.1 = some u → ∃ p ∈ (w.cl i.cl).pend, p.kind = .arith ∧ p.slot = i.slot
        ∧ p.fibre = e.1 ∧ p.regs = u.regs (i.fib e.1)
        ∧ p.pay = .bits (regsOf e.2.1 p.regs.length e.2.2.1) e.2.2.2)
    ∧ (∃ k, w.cohort? i.cl i.x.co.id = some k ∧ ∀ l ∈ k.late, ∀ n r, l.dst = .v n r → ∀ h ∈ i.on, l.fibre = h →
        ∀ u, i.use? 0 h = some u → n ∉ u.regs (i.fib h))
    ∧ w.mem = t.mem

/-! ### Group 0, integer -/

/-- R321, R236: group 0's sums wrap modulo 2^w, or clamp to the range of the type with SAT; its products are exact, then
cut. R322: quotient and remainder in its four cases; neither traps. R323: IADDC and ISUBB over 33 bits, the sum and its
carry poisoned together. R321, R324: IMIN, IMAX, IABS, INEG, and ISET's comparison ANDed with ps. -/
def Obligations.IntegerInstructions : Prop :=
  (∀ (s t : State) (i : Iss) (f : Fields),
    let w := opWidth f
    let num (b : BitVec w) : Int := if f.m 1 then b.toNat else b.toInt
    let out (h : Nat) (wrapped : BitVec w) (exact : Int) : Res :=
      i.resV h (if !f.m 2 then wrapped.toNat
        else if f.m 1 then (max 0 (min exact (2 ^ w - 1))).toNat
        else (BitVec.ofInt w (max (-2 ^ (w - 1)) (min exact (2 ^ (w - 1) - 1)))).toNat) (i.pois2 h) 0
    let ext (u : Bool) (b : BitVec 32) : BitVec 64 := if u then b.setWidth 64 else b.signExtend 64
    let byte (u : Bool) (b : BitVec 32) (k : Nat) : BitVec 32 :=
      if u then (b.extractLsb' (8 * k) 8).setWidth 32 else (b.extractLsb' (8 * k) 8).signExtend 32
    (s.Issues (.iadd f) t i → exec (.iadd f) s
        = .next (t.gives i fun h => out h (i.bv 1 w h + i.bvB w h) (num (i.bv 1 w h) + num (i.bvB w h))))
      ∧ (s.Issues (.isub f) t i → exec (.isub f) s
        = .next (t.gives i fun h => out h (i.bv 1 w h - i.bvB w h) (num (i.bv 1 w h) - num (i.bvB w h))))
      ∧ (s.Issues (.imul f) t i → exec (.imul f) s
        = .next (t.gives i fun h => i.resV h (i.bv 1 w h * i.bvB w h).toNat (i.pois2 h) 0))
      ∧ (s.Issues (.imulh f) t i → exec (.imulh f) s
        = .next (t.gives i fun h =>
            i.resV h ((ext (f.m 1) (i.bv 1 32 h) * ext (f.m 1) (i.bvB 32 h)).extractLsb' 32 32).toNat (i.pois2 h) 0))
      ∧ (s.Issues (.imad f) t i → exec (.imad f) s
        = .next (t.gives i fun h => i.resV h (i.bv 1 w h * i.bvB w h + i.bv 3 w h).toNat (i.pois3 h) 0))
      ∧ (s.Issues (.imadw f) t i → exec (.imadw f) s
        = .next (t.gives i fun h =>
            i.resV h (ext (f.m 1) (i.bv 1 32 h) * ext (f.m 1) (i.bvB 32 h) + i.bv 3 64 h).toNat (i.pois3 h) 0))
      ∧ (s.Issues (.lea f) t i → exec (.lea f) s
        = .next (t.gives i fun h =>
            i.resV h (i.bvB 64 h + ext (f.m 3) (i.bv 1 32 h) <<< f.md 0 3).toNat (i.pois2 h) 0))
      ∧ (s.Issues (.idp4 f) t i → exec (.idp4 f) s
        = .next (t.gives i fun h =>
            let p (k : Nat) : BitVec 32 := byte (f.m 0) (i.bv 1 32 h) k * byte (f.m 1) (i.bvB 32 h) k
            i.resV h (i.bv 3 32 h + p 0 + p 1 + p 2 + p 3).toNat (i.pois3 h) 0)))
  ∧ (∀ (s t : State) (i : Iss) (f : Fields),
    let w := opWidth f
    let q (a b : BitVec w) : BitVec w := if b = 0 then BitVec.allOnes w else if f.m 1 then a / b else a.sdiv b
    let m (a b : BitVec w) : BitVec w := if b = 0 then a else if f.m 1 then a % b else a.srem b
    (s.Issues (.idiv f) t i → exec (.idiv f) s
        = .next (t.gives i fun h => i.resV h (q (i.bv 1 w h) (i.bvB w h)).toNat (i.pois2 h) 0))
      ∧ (s.Issues (.irem f) t i → exec (.irem f) s
        = .next (t.gives i fun h => i.resV h (m (i.bv 1 w h) (i.bvB w h)).toNat (i.pois2 h) 0)))
  ∧ (∀ (s t : State) (i : Iss) (f : Fields),
    let out (h : Nat) (r : BitVec 33) : Res :=
      let p := i.pois2 h <|> (i.predSrc f.sc h).2
      ⟨h, i.vec 0 h (r.setWidth 32).toNat p ++ [predDst (f.md 0 3) r.msb p], 0, none⟩
    let cin (h : Nat) : BitVec 33 := (BitVec.ofBool (i.predSrc f.sc h).1).setWidth 33
    let a (h : Nat) : BitVec 33 := (i.bv 1 32 h).setWidth 33
    let b (h : Nat) : BitVec 33 := (i.bvB 32 h).setWidth 33
    (s.Issues (.iaddc f) t i → exec (.iaddc f) s = .next (t.gives i fun h => out h (a h + b h + cin h)))
      ∧ (s.Issues (.isubb f) t i → exec (.isubb f) s = .next (t.gives i fun h => out h (a h - b h - cin h))))
  ∧ (∀ (s t : State) (i : Iss) (f : Fields),
    let w := opWidth f
    let lt (a b : BitVec w) : Bool := if f.m 1 then a.ult b else a.slt b
    let sat (a : BitVec w) (v : BitVec w) : BitVec w := if f.m 2 && a == BitVec.intMin w then BitVec.intMax w else v
    let cmp (a b : BitVec w) : Bool := match f.md 2 3 with
      | 0 => a == b
      | 1 => a != b
      | 2 => lt a b
      | 3 => !lt b a
      | 4 => lt b a
      | _ => !lt a b
    (s.Issues (.imin f) t i → exec (.imin f) s = .next (t.gives i fun h =>
        i.resV h (if lt (i.bvB w h) (i.bv 1 w h) then i.bvB w h else i.bv 1 w h).toNat (i.pois2 h) 0))
      ∧ (s.Issues (.imax f) t i → exec (.imax f) s = .next (t.gives i fun h =>
        i.resV h (if lt (i.bv 1 w h) (i.bvB w h) then i.bvB w h else i.bv 1 w h).toNat (i.pois2 h) 0))
      ∧ (s.Issues (.iabs f) t i → exec (.iabs f) s = .next (t.gives i fun h =>
        i.resV h (sat (i.bv 1 w h) (i.bv 1 w h).abs).toNat (i.src 1 h).2 0))
      ∧ (s.Issues (.ineg f) t i → exec (.ineg f) s = .next (t.gives i fun h =>
        i.resV h (sat (i.bv 1 w h) (-i.bv 1 w h)).toNat (i.src 1 h).2 0))
      ∧ (s.Issues (.iset f) t i → exec (.iset f) s = .next (t.gives i fun h =>
        i.resP h (cmp (i.bv 1 w h) (i.bvB w h) && (i.predSrc f.sc h).1) (i.pois2 h <|> (i.predSrc f.sc h).2) 0)))

/-! ### Group 1, logic and bit -/

/-- R325, R326, R328: BOP applies OP2 to the result of OP1 and C, bit by bit; BSEL's result byte k is the byte that three
bits of B select of the eight of A and C, or 0. R325: SHL, SHR, SHRA by an unsigned count, whole or modulo w, and ROT to
the left or right. R325, R327: XTR takes a field of A, read beyond bit 31 as zeros or as copies of the sign; INS puts A's
low bits into C; ONES, CLZ and CTZ count, FLIP reverses. -/
def Obligations.LogicInstructions : Prop :=
  (∀ (s t : State) (i : Iss) (f : Fields),
    let op (code : Nat) (x y : Bool) : Bool := match code with
      | 0 => x && y
      | 1 => x || y
      | 2 => xor x y
      | 3 => x && !y
      | 4 => x || !y
      | 5 => !(x && y)
      | 6 => !(x || y)
      | _ => !(xor x y)
    let y (h k : Nat) : BitVec 8 :=
      if k < 4 then (i.bv 1 32 h).extractLsb' (8 * k) 8 else (i.bv 3 32 h).extractLsb' (8 * (k - 4)) 8
    (s.Issues (.bop f) t i → ∃ r : Nat → BitVec 32,
      (∀ h j, j < 32 → (r h).getLsbD j
        = op (f.md 3 3) (op (f.md 0 3) ((i.bv 1 32 h).getLsbD j) ((i.bvB 32 h).getLsbD j)) ((i.bv 3 32 h).getLsbD j))
      ∧ exec (.bop f) s = .next (t.gives i fun h => i.resV h (r h).toNat (i.pois3 h) 0))
      ∧ (s.Issues (.bsel f) t i → ∃ r : Nat → BitVec 32,
      (∀ h k, k < 4 → (r h).extractLsb' (8 * k) 8
        = if (i.bvB 32 h).getLsbD (12 + k) then 0 else y h ((i.bvB 32 h).extractLsb' (3 * k) 3).toNat)
      ∧ exec (.bsel f) s = .next (t.gives i fun h => i.resV h (r h).toNat (i.pois3 h) 0)))
  ∧ (∀ (s t : State) (i : Iss) (f : Fields),
    let w := opWidth f
    let n (h : Nat) : Nat := if f.m 1 then (i.bvB 32 h).toNat % w else (i.bvB 32 h).toNat
    let out (v : Nat → BitVec w) : State := t.gives i fun h => i.resV h (v h).toNat (i.pois2 h) 0
    (s.Issues (.shl f) t i → exec (.shl f) s = .next (out fun h => i.bv 1 w h <<< n h))
      ∧ (s.Issues (.shr f) t i → exec (.shr f) s = .next (out fun h => i.bv 1 w h >>> n h))
      ∧ (s.Issues (.shra f) t i → exec (.shra f) s = .next (out fun h => (i.bv 1 w h).sshiftRight (n h)))
      ∧ (s.Issues (.rot f) t i → exec (.rot f) s = .next (out fun h =>
          if f.m 1 then (i.bv 1 w h).rotateRight ((i.bvB 32 h).toNat % w) else (i.bv 1 w h).rotateLeft ((i.bvB 32 h).toNat % w))))
  ∧ (∀ (s t : State) (i : Iss) (f : Fields),
    let lo (h : Nat) : Nat := ((i.bvB 32 h).extractLsb' 0 6).toNat
    let hi (h : Nat) : Nat := ((i.bvB 32 h).extractLsb' 6 6).toNat
    let a (h j : Nat) : Bool := (i.bv 1 32 h).getLsbD j
    let field (h j : Nat) : Bool := if lo h + j < 32 then a h (lo h + j) else !f.m 1 && a h 31
    let w := opWidth f
    let v (h j : Nat) : Bool := (i.bv 1 w h).getLsbD j
    let out (r : Nat → Nat) : State := t.gives i fun h => i.resV h (r h) (i.src 1 h).2 0
    (s.Issues (.xtr f) t i → ∃ r : Nat → BitVec 32,
        (∀ h j, j < 32 → (r h).getLsbD j
          = if hi h < lo h then false
            else if j ≤ hi h - lo h then field h j
            else !f.m 1 && field h (hi h - lo h))
        ∧ exec (.xtr f) s = .next (t.gives i fun h => i.resV h (r h).toNat (i.pois2 h) 0))
      ∧ (s.Issues (.ins f) t i → ∃ r : Nat → BitVec 32,
        (∀ h j, j < 32 → (r h).getLsbD j = if lo h ≤ j ∧ j ≤ hi h then a h (j - lo h) else (i.bv 3 32 h).getLsbD j)
        ∧ exec (.ins f) s = .next (t.gives i fun h => i.resV h (r h).toNat (i.pois3 h) 0))
      ∧ (s.Issues (.ones f) t i → exec (.ones f) s = .next (out fun h => (List.range w).countP (v h)))
      ∧ (s.Issues (.clz f) t i → ∃ n : Nat → Nat,
        (∀ h, n h ≤ w ∧ (∀ j, w - n h ≤ j → j < w → v h j = false) ∧ (n h < w → v h (w - 1 - n h) = true))
        ∧ exec (.clz f) s = .next (out n))
      ∧ (s.Issues (.ctz f) t i → ∃ n : Nat → Nat,
        (∀ h, n h ≤ w ∧ (∀ j, j < n h → v h j = false) ∧ (n h < w → v h (n h) = true))
        ∧ exec (.ctz f) s = .next (out n))
      ∧ (s.Issues (.flip f) t i → ∃ r : Nat → BitVec w,
        (∀ h j, j < w → (r h).getLsbD j = v h (w - 1 - j)) ∧ exec (.flip f) s = .next (out fun h => (r h).toNat)))


/-! ### Groups 2 and 3, floating point -/

/-- R330 to R334: FADD, FMUL, FFMA round the exact result of the sources, negated on request after DAZ, and clamp it with SAT;
FMIN, FMAX, FSET, FCLASS and FRND follow their rules; every flag an operation raises is named with its result. The model's
choices in it: log entry 105. -/
def Obligations.Fp32Arithmetic : Prop := ∀ (s t : State) (i : Iss) (f : Fields),
  let fm := i.team.fpmode
  let m : RMode := match f.md 0 3 with
    | 0 => fmRm fm
    | 4 => .rne
    | 5 => .rtz
    | 6 => .rdn
    | 7 => .rup
    | c => rmOf c
  let a (h : Nat) := fp32.input fm (i.src 1 h).1
  let b (h : Nat) := fp32.input fm (i.srcB h).1
  let c (h : Nat) := fp32.input fm (i.src 3 h).1
  let neg (n : Bool) (x : FV) : FV := if n then x.neg else x
  let out (h : Nat) (p : Option Half) (fl : Flags) (q : Nat × Flags) : Res :=
    i.resV h (if f.m 5 then fp32.clamp01 q.1 else q.1) p (fl ||| q.2)
  (s.Issues (.fadd f) t i → exec (.fadd f) s = .next (t.gives i fun h =>
      out h (i.pois2 h) ((a h).2 ||| (b h).2) (fp32.add fm m (neg (f.m 3) (a h).1) (neg (f.m 4) (b h).1))))
    ∧ (s.Issues (.fmul f) t i → exec (.fmul f) s = .next (t.gives i fun h =>
      out h (i.pois2 h) ((a h).2 ||| (b h).2) (fp32.mul fm m (neg (f.m 3) (a h).1) (b h).1)))
    ∧ (s.Issues (.ffma f) t i → exec (.ffma f) s = .next (t.gives i fun h =>
      out h (i.pois3 h) ((a h).2 ||| (b h).2 ||| (c h).2)
        (fp32.fma fm m (neg (f.m 3) (a h).1) (b h).1 (neg (f.m 4) (c h).1))))
    ∧ (s.Issues (.fmin f) t i → exec (.fmin f) s = .next (t.gives i fun h =>
      let q := fp32.minmax fm (fmLmm fm) false (a h).1 (b h).1
      i.resV h q.1 (i.pois2 h) ((a h).2 ||| (b h).2 ||| q.2)))
    ∧ (s.Issues (.fmax f) t i → exec (.fmax f) s = .next (t.gives i fun h =>
      let q := fp32.minmax fm (fmLmm fm) true (a h).1 (b h).1
      i.resV h q.1 (i.pois2 h) ((a h).2 ||| (b h).2 ||| q.2)))
    ∧ (s.Issues (.fset f) t i → exec (.fset f) s = .next (t.gives i fun h =>
      let q := fcmp (f.md 0 4) (a h).1 (b h).1
      i.resP h (q.1 && (i.predSrc f.sc h).1) (i.pois2 h <|> (i.predSrc f.sc h).2) ((a h).2 ||| (b h).2 ||| q.2)))
    ∧ (s.Issues (.fclass f) t i → exec (.fclass f) s = .next (t.gives i fun h =>
      i.resV h (2 ^ fp32.classBit (i.src 1 h).1) (i.src 1 h).2 0))
    ∧ (s.Issues (.frnd f) t i → exec (.frnd f) s = .next (t.gives i fun h =>
      let q := fp32.frnd fm m (a h).1
      i.resV h q.1 (i.src 1 h).2 q.2))

/-- R207, R330, R336: FDIV, FSQRT, DDIV and DSQRT hand each guarded fibre's value, its poison and its flags (none where it
is poisoned) to the variable-latency results that `finishVar` leaves outstanding: the fibres go on, their destinations
empty, and the result is on its way to each. R234, R335: for a special source the
approximate functions give the table's value and flags; for any other they give bits within the bound of APX, which log
entry 7 leaves free inside it, FTZ32 then applied. -/
def Obligations.SlowAndApproximateFunctions : Prop :=
  (∀ (s t : State) (i : Iss) (f : Fields),
    let fm := i.team.fpmode
    let m := arithMode fm (f.md 0 3)
    let neg (n : Bool) (x : FV) : FV := if n then x.neg else x
    let div (k : Fmt) (h : Nat) : Nat × Option Half × Flags :=
      let a := k.input fm (i.src 1 h).1
      let b := k.input fm (i.srcB h).1
      let q := k.div fm m (neg (f.m 3) a.1) b.1
      (if k = fp32 ∧ f.m 5 then k.clamp01 q.1 else q.1, i.pois2 h, a.2 ||| b.2 ||| q.2)
    let root (k : Fmt) (h : Nat) : Nat × Option Half × Flags :=
      let a := k.input fm (i.src 1 h).1
      let q := k.sqrt fm m a.1
      (if k = fp32 ∧ f.m 5 then k.clamp01 q.1 else q.1, (i.src 1 h).2, a.2 ||| q.2)
    let later (r : Nat → Nat × Option Half × Flags) : State :=
      t.finishVar i (i.on.map fun h => (h, (r h).1, (r h).2.1, if (r h).2.1.isSome then 0 else (r h).2.2))
    let issued (ins : Instr) (r : Nat → Nat × Option Half × Flags) : Prop := s.Issues ins t i →
      i.x.fs.Nodup → (∀ h ∈ i.x.fs, h < i.team.fibres.length) →
      ∃ w : State, exec ins s = .next w ∧ w.mem = t.mem ∧ (∀ h ∈ i.x.fs, (w.fibre i.cl i.slot h).pc = i.next)
        ∧ ∀ h ∈ i.on,
          (∀ n ∈ i.regsAt 0 h, n < 255 → n < (t.fibre i.cl i.slot h).v.length → ((w.fibre i.cl i.slot h).reg n).full = false)
          ∧ ∃ p ∈ (w.cl i.cl).pend, p.kind = .arith ∧ p.slot = i.slot ∧ p.fibre = h ∧ p.regs = i.regsAt 0 h
            ∧ p.pay = .bits (regsOf (r h).1 p.regs.length (r h).2.1) (if (r h).2.1.isSome then 0 else (r h).2.2)
    (s.Issues (.fdiv f) t i → exec (.fdiv f) s = .next (later (div fp32)))
      ∧ (s.Issues (.fsqrt f) t i → exec (.fsqrt f) s = .next (later (root fp32)))
      ∧ (s.Issues (.ddiv f) t i → exec (.ddiv f) s = .next (later (div fp64)))
      ∧ (s.Issues (.dsqrt f) t i → exec (.dsqrt f) s = .next (later (root fp64)))
      ∧ issued (.fdiv f) (div fp32) ∧ issued (.fsqrt f) (root fp32) ∧ issued (.ddiv f) (div fp64)
      ∧ issued (.dsqrt f) (root fp64))
  ∧ (∀ (s t : State) (i : Iss) (f : Fields),
    let fm := i.team.fpmode
    let one (g : Approx) (h : Nat) : Res :=
      let a := fp32.input fm (i.src 1 h).1
      let q : Nat × Flags := match g.special fm a.1, a.1 with
        | some q, _ => q
        | none, .fin n m e =>
          let v := g.value (fmApx fm) (i.src 1 h).1 n m e
          if fmFtz32 fm && fp32.isSub v then (fp32.sign (bitOf v 31), fUF ||| fNX ||| fDN)
          else (v, if g = .exp2 ∧ v = fp32.infBits then fOF ||| fNX else 0)
        | none, _ => (0, 0)
      i.resV h q.1 (i.src 1 h).2 (a.2 ||| q.2)
    (s.Issues (.frcp f) t i → exec (.frcp f) s = .next (t.gives i (one .rcp)))
      ∧ (s.Issues (.frsq f) t i → exec (.frsq f) s = .next (t.gives i (one .rsq)))
      ∧ (s.Issues (.fexp2 f) t i → exec (.fexp2 f) s = .next (t.gives i (one .exp2)))
      ∧ (s.Issues (.flog2 f) t i → exec (.flog2 f) s = .next (t.gives i (one .log2)))
      ∧ (s.Issues (.fsin f) t i → exec (.fsin f) s = .next (t.gives i (one .sin)))
      ∧ (s.Issues (.fcos f) t i → exec (.fcos f) s = .next (t.gives i (one .cos)))
      ∧ (s.Issues (.ftanh f) t i → exec (.ftanh f) s = .next (t.gives i (one .tanh))))

/-- R336 to R338: the FP64 instructions follow those of FP32 without SAT, DAZ or FTZ; the packed ones compute elements 0 and 1
independently and OR their flags; FDOT2 rounds the exact sum of two products and C once. The model's choices in it: log
entries 33 and 34. -/
def Obligations.Fp64AndPacked : Prop := ∀ (s t : State) (i : Iss) (f : Fields),
  let fm := i.team.fpmode
  let m := arithMode fm (f.md 0 3)
  let neg (n : Bool) (x : FV) : FV := if n then x.neg else x
  let a (h : Nat) : FV := fp64.decode (i.src 1 h).1
  let b (h : Nat) : FV := fp64.decode (i.srcB h).1
  let c (h : Nat) : FV := fp64.decode (i.src 3 h).1
  let k : Fmt := if f.m 0 then bf16 else fp16
  let m16 := arithMode fm (f.md 1 3)
  let el (v j : Nat) : FV × Flags := k.input fm (v / 2 ^ (16 * j) % 2 ^ 16)
  let clamp (q : Nat × Flags) : Nat × Flags := (if f.m 5 then k.clamp01 q.1 else q.1, q.2)
  let pk (h : Nat) (q : Nat → Nat × Flags) : Res := i.resV h ((q 0).1 + (q 1).1 * 2 ^ 16) (i.pois3 h) ((q 0).2 ||| (q 1).2)
  let two (h : Nat) (op : FV → FV → Nat × Flags) (j : Nat) : Nat × Flags :=
    let x := el (i.src 1 h).1 j
    let y := el (i.srcB h).1 j
    let q := op x.1 y.1
    (q.1, x.2 ||| y.2 ||| q.2)
  (s.Issues (.dadd f) t i → exec (.dadd f) s = .next (t.gives i fun h =>
      let q := fp64.add fm m (neg (f.m 3) (a h)) (neg (f.m 4) (b h))
      i.resV h q.1 (i.pois2 h) q.2))
    ∧ (s.Issues (.dmul f) t i → exec (.dmul f) s = .next (t.gives i fun h =>
      let q := fp64.mul fm m (neg (f.m 3) (a h)) (b h)
      i.resV h q.1 (i.pois2 h) q.2))
    ∧ (s.Issues (.dfma f) t i → exec (.dfma f) s = .next (t.gives i fun h =>
      let q := fp64.fma fm m (neg (f.m 3) (a h)) (b h) (neg (f.m 4) (c h))
      i.resV h q.1 (i.pois3 h) q.2))
    ∧ (s.Issues (.dmin f) t i → exec (.dmin f) s = .next (t.gives i fun h =>
      let q := fp64.minmax fm (fmLmm fm) false (a h) (b h)
      i.resV h q.1 (i.pois2 h) q.2))
    ∧ (s.Issues (.dmax f) t i → exec (.dmax f) s = .next (t.gives i fun h =>
      let q := fp64.minmax fm (fmLmm fm) true (a h) (b h)
      i.resV h q.1 (i.pois2 h) q.2))
    ∧ (s.Issues (.dset f) t i → exec (.dset f) s = .next (t.gives i fun h =>
      let q := fcmp (f.md 0 4) (a h) (b h)
      i.resP h (q.1 && (i.predSrc f.sc h).1) (i.pois2 h <|> (i.predSrc f.sc h).2) q.2))
    ∧ (s.Issues (.pkadd f) t i → exec (.pkadd f) s = .next (t.gives i fun h =>
      pk h (two h fun x y => clamp (k.add fm m16 (neg (f.m 4) x) y))))
    ∧ (s.Issues (.pkmul f) t i → exec (.pkmul f) s = .next (t.gives i fun h =>
      pk h (two h fun x y => clamp (k.mul fm m16 (neg (f.m 4) x) y))))
    ∧ (s.Issues (.pkfma f) t i → exec (.pkfma f) s = .next (t.gives i fun h =>
      pk h fun j =>
        let x := el (i.src 1 h).1 j
        let y := el (i.srcB h).1 j
        let z := el (i.src 3 h).1 j
        let q := clamp (k.fma fm m16 (neg (f.m 4) x.1) y.1 z.1)
        (q.1, x.2 ||| y.2 ||| z.2 ||| q.2)))
    ∧ (s.Issues (.pkmin f) t i → exec (.pkmin f) s = .next (t.gives i fun h =>
      pk h (two h (k.minmax fm (fmLmm fm) false))))
    ∧ (s.Issues (.pkmax f) t i → exec (.pkmax f) s = .next (t.gives i fun h =>
      pk h (two h (k.minmax fm (fmLmm fm) true))))
    ∧ (s.Issues (.fdot2 f) t i → exec (.fdot2 f) s = .next (t.gives i fun h =>
      let x (j : Nat) := el (i.src 1 h).1 j
      let y (j : Nat) := el (i.srcB h).1 j
      let z := fp32.input fm (i.src 3 h).1
      let q := dot2 fm (x 0).1 (x 1).1 (y 0).1 (y 1).1 z.1
      i.resV h q.1 (i.pois3 h) ((x 0).2 ||| (x 1).2 ||| (y 0).2 ||| (y 1).2 ||| z.2 ||| q.2)))

/-- R228: a value that a format holds rounds to itself in every mode and raises no flag. -/
def Obligations.ExactValuesRoundToThemselves : Prop :=
  ∀ k ∈ [fp64, fp32, fp16, bf16, e5m2, e4m3, e2m1], ∀ (md : RMode) (x : Nat) (n : Bool) (m : Nat) (e : Int),
    x < 2 ^ k.bits → k.decode x = .fin n m e → k.round md false n m e false = (x, 0)

/-- R228, R229, R330: sums, products and fused products of finite values are the exact number rounded once; an exact zero
sum of terms of opposite sign is +0, and -0 under RDN. -/
def Obligations.SumsAndProductsRoundOnce : Prop :=
  ∀ (k : Fmt) (fm : Word) (md : RMode) (n1 n2 n3 : Bool) (m1 m2 m3 : Nat) (e1 e2 e3 : Int),
    let z (n : Bool) (m : Nat) (e lo : Int) : Int := (if n then -1 else 1) * (m : Int) * 2 ^ (e - lo).toNat
    let sum (na nb : Bool) (x : Int) (lo : Int) : Nat × Flags :=
      if x = 0 then (k.sign (if na = nb then na else md == .rdn), 0)
      else k.round md (ftzOf fm k) (decide (x < 0)) x.natAbs lo false
    k.add fm md (.fin n1 m1 e1) (.fin n2 m2 e2)
        = sum n1 n2 (z n1 m1 e1 (min (min 0 e1) e2) + z n2 m2 e2 (min (min 0 e1) e2)) (min (min 0 e1) e2)
      ∧ k.mul fm md (.fin n1 m1 e1) (.fin n2 m2 e2) = k.round md (ftzOf fm k) (n1 != n2) (m1 * m2) (e1 + e2) false
      ∧ k.fma fm md (.fin n1 m1 e1) (.fin n2 m2 e2) (.fin n3 m3 e3)
        = sum (n1 != n2) n3
            (z (n1 != n2) (m1 * m2) (e1 + e2) (min (min 0 (e1 + e2)) e3) + z n3 m3 e3 (min (min 0 (e1 + e2)) e3))
            (min (min 0 (e1 + e2)) e3)

/-- R220, R226, R229, R330: the special values of the exact operations in the formats with infinities. R231, R343:
narrowing's special values: NaN, infinities and, in E4M3 and E2M1, every finite value that rounds beyond 448 and beyond 6 in its
mode; and MXDQ's product is exact but for overflow. -/
def Obligations.FpSpecialValues : Prop :=
  (∀ k ∈ [fp64, fp32, fp16, bf16], ∀ (fm : Word) (md : RMode) (n n' : Bool) (m : Nat) (e e' : Int) (x : FV),
      let bad : Nat × Flags := (k.qnan, fNV)
      k.mul fm md (.fin n 0 e) (.inf n') = bad ∧ k.mul fm md (.inf n) (.fin n' 0 e) = bad
        ∧ k.add fm md (.inf n) (.inf (!n)) = bad
        ∧ k.div fm md (.fin n 0 e) (.fin n' 0 e') = bad ∧ k.div fm md (.inf n) (.inf n') = bad
        ∧ (0 < m → k.sqrt fm md (.fin true m e) = bad) ∧ k.sqrt fm md (.inf true) = bad
        ∧ (0 < m → k.div fm md (.fin n m e) (.fin n' 0 e') = (k.sign (n != n') + k.infBits, fDZ))
        ∧ k.sqrt fm md (.fin true 0 e) = (k.sign true, 0)
        ∧ (fmNanp fm = false → x.isNan = true → x.isSig = false →
            k.fma fm md (.fin n 0 e) (.inf n') x = bad ∧ k.add fm md x (.fin n m e) = (k.qnan, 0)))
  ∧ ((∀ (fm : Word) (m : RMode × Bool) (g : Word) (n sig : Bool) (p : Nat),
        e4m3.convOut fm m g (.nan n sig p) = ⟨(if n then 0x80 else 0) + 0x7F, if sig then fNV else 0, g⟩
          ∧ (e2m1.convOut fm m g (.nan n sig p)).bits = 0 ∧ (e2m1.convOut fm m g (.nan n sig p)).flags.getLsbD 0 = true
          ∧ e4m3.convOut fm m g (.inf n) = ⟨(if n then 0x80 else 0) + 0x7E, fSAT, g⟩
          ∧ e2m1.convOut fm m g (.inf n) = ⟨(if n then 8 else 0) + 7, fSAT, g⟩)
      ∧ (∀ (u : Bool) (w : Nat) (m : RMode × Bool) (g : Word) (n sig : Bool) (p : Nat),
          convInt u w m g (.nan n sig p) = ⟨0, fNV, g⟩
            ∧ convInt u w m g (.inf n) = ⟨wrap w (if n then intMin u w else intMax u w), fNV, g⟩)
      ∧ (∀ p ∈ [(e4m3, 448, 464, 480, false), (e2m1, 6, 7, 8, true)], ∀ (md : RMode) (ftz n : Bool) (m : Nat) (e : Int), 0 < m →
          let max : Nat := p.2.1
          let half : Nat := p.2.2.1
          let above : Nat := p.2.2.2.1
          let one := 2 ^ (-e).toNat
          let v := m * 2 ^ e.toNat
          (match md with
            | .rne => half * one < v ∨ (p.2.2.2.2 = true ∧ half * one = v)
            | .rtz => above * one ≤ v
            | .rdn => if n then max * one < v else above * one ≤ v
            | .rup => if n then above * one ≤ v else max * one < v
            | .sr r => above * one ≤ v ∨ (max * one < v
                ∧ 2 ^ 32 ≤ (v - max * one) * 2 ^ 32 / ((above - max) * one) + r)) →
          p.1.round md ftz n m e false = (p.1.sign n + p.1.maxBits, fSAT ||| fOF ||| fNX))
      ∧ (∀ k ∈ [e2m1, e4m3, e5m2], ∀ (md : RMode) (x sc : Nat) (n : Bool) (m : Nat) (e : Int),
          x < 2 ^ k.bits → sc < 255 → k.decode x = .fin n m e →
            (fp32.round md false n m (e + sc - 127) false).2 = 0 ∨ (fp32.round md false n m (e + sc - 127) false).2 = fOF ||| fNX))

/-- R230, R331: of two sources that are not NaN, minimum and maximum return the bits of one, and raise no flag; with LMM =
0 a single NaN yields the other source, with LMM = 1 a NaN; two NaNs yield a NaN in both; -0 ranks below +0 with LMM = 0,
and with LMM = 1 source A is the result. -/
def Obligations.MinimumAndMaximum : Prop :=
  ∀ k ∈ [fp64, fp32, fp16, bf16], ∀ (fm : Word) (lmm isMax : Bool) (x y : Nat), x < 2 ^ k.bits → y < 2 ^ k.bits →
    let a := k.decode x
    let b := k.decode y
    let r := k.minmax fm lmm isMax a b
    let zero (n : Bool) := k.sign n
    (a.isNan = false → b.isNan = false → (r = (x, 0) ∨ r = (y, 0)))
      ∧ (a.isNan = true → b.isNan = false → lmm = false → r.1 = y)
      ∧ (a.isNan = false → b.isNan = true → lmm = false → r.1 = x)
      ∧ ((a.isNan = true ∨ b.isNan = true) → lmm = true → r = k.nanOut (fmNanp fm) [a, b])
      ∧ (a.isNan = true → b.isNan = true → r = k.nanOut (fmNanp fm) [a, b])
      ∧ (x = zero true → y = zero false → r = (if isMax && !lmm then y else x, 0))
      ∧ (x = zero false → y = zero true → r = (if isMax || lmm then x else y, 0))


/-! ### Groups 4 and 5, conversions, moves and predicates -/

/-- R232, R339 to R343: CVT converts the elements that R340's table names, in ascending order, each stepping the generator
where it rounds stochastically; MXQ gives the shared scale or one element scaled by it; MXDQ scales one element back. A
poisoned source gives a poisoned result and steps nothing. The model's choices in it: log entries 12, 105 and 108. -/
def Obligations.Conversions : Prop := ∀ (s t : State) (i : Iss) (f : Fields),
  let fm := i.team.fpmode
  let mode : RMode × Bool := match f.md 0 3 with
    | 0 => (fmRm fm, fmSr fm)
    | 1 => (.rne, true)
    | 4 => (.rne, false)
    | 5 => (.rtz, false)
    | 6 => (.rdn, false)
    | 7 => (.rup, false)
    | c => (rmOf c, false)
  let a (h : Nat) : Nat := (i.src 1 h).1
  let b (h : Nat) : Nat := (i.srcB h).1
  let dt := cvtFmt (f.sc.toNat % 16)
  let st := cvtFmt (f.sc.toNat / 16)
  let wd := dt.width
  let ws := st.width
  let n := 16 / wd
  let e0 := f.md 3 3
  let at' (x k : Nat) : Nat := x / 2 ^ (k * ws) % 2 ^ ws
  let elems (h : Nat) : List Nat :=
    if wd ≥ 32 then [at' (a h) (if ws ≥ 32 then 0 else e0)]
    else if n * ws ≥ 32 then (List.range n).map (at' (a h)) ++ (List.range n).map (at' (b h))
    else (List.range n).map (fun k => at' (a h) (e0 * n + k)) ++ (List.range n).map fun k => at' (b h) (e0 * n + n + k)
  let gen (h : Nat) (r : Res) (g : Word) : Res := { r with gen := if g = (i.fib h).gen then none else some g }
  let out (h : Nat) (r : Res) : Res := match i.pois2 h with
    | some o => i.resV h 0 (some o) 0
    | none => r
  let mx := mxFmt (f.md 3 2)
  (s.Issues (.cvt f) t i → exec (.cvt f) s = .next (t.gives i fun h =>
      let r := convertAll fm mode dt st (i.fib h).gen (elems h)
      out h (gen h (i.resV h r.1 none r.2.1) r.2.2)))
    ∧ (s.Issues (.mxq f) t i → exec (.mxq f) s = .next (t.gives i fun h => out h (
      let y := fp32.input fm (b h)
      let nvb : Flags := if y.1.isSig then fNV else 0
      let sc := mxScale mx.2 y.1
      if f.m 5 then i.resV h sc none nvb
      else
        let x := fp32.input fm (a h)
        let fl := x.2 ||| y.2 ||| nvb
        if sc = 0xFF then
          i.resV h (if mx.1 = e4m3 then 0x7F else if mx.1 = e5m2 then 0x7E else 0) none (fl ||| if mx.1 = e2m1 then fNV else 0)
        else
          let v : FV := match x.1 with
            | .fin n m e => .fin n m (e + 127 - sc)
            | z => z
          let r := mx.1.convOut fm mode (i.fib h).gen v
          gen h (i.resV h r.bits none (fl ||| r.flags)) r.gen)))
    ∧ (s.Issues (.mxdq f) t i → exec (.mxdq f) s = .next (t.gives i fun h =>
      let sc := b h % 256
      let q : Nat × Flags := match mx.1.decode (a h / 2 ^ (f.md 0 3 * mx.1.bits) % 2 ^ mx.1.bits) with
        | .nan n g p => fp32.nanOut (fmNanp fm) [.nan n g p]
        | .inf n => if sc = 0xFF then (fp32.qnan, 0) else fp32.infOut n
        | .fin n m e => if sc = 0xFF then (fp32.qnan, 0) else fp32.round (fmRm fm) (fmFtz32 fm) n m (e + sc - 127) false
      i.resV h q.1 (i.pois2 h) q.2))

/-- R347 to R350: moves, selects, the values S2V names, predicates to and from registers, and the index registers; a
poisoned ps makes SEL choose b. VXLD is for sources without poison; with it, it traps (R216). -/
def Obligations.MovesAndPredicates : Prop := ∀ (s t : State) (i : Iss) (f : Fields),
  let op (code : Nat) (x y : Bool) : Bool := match code with
    | 0 => x && y
    | 1 => x || y
    | 2 => xor x y
    | 3 => x && !y
    | 4 => x || !y
    | 5 => !(x && y)
    | 6 => !(x || y)
    | _ => !(xor x y)
  let ps (n : BitVec 8) (h : Nat) := i.predSrc n h
  (s.Issues (.mov f) t i → exec (.mov f) s = .next (t.gives i fun h => i.resV h (i.src 1 h).1 (i.src 1 h).2 0))
    ∧ (s.Issues (.movi f) t i → exec (.movi f) s = .next (t.gives i fun h =>
        i.resV h (if f.m 0 then (f.imm.signExtend 64).toNat else f.imm.toNat) none 0))
    ∧ (s.Issues (.sel f) t i → exec (.sel f) s = .next (t.gives i fun h =>
        i.resV h (if (ps f.sc h).1 && (ps f.sc h).2.isNone then (i.src 1 h).1 else (i.srcB h).1)
          (i.pois2 h <|> (ps f.sc h).2) 0))
    ∧ (s.Issues (.pset f) t i → exec (.pset f) s = .next (t.gives i fun h => i.resP h (f.m 0) none 0))
    ∧ (s.Issues (.plop f) t i → exec (.plop f) s = .next (t.gives i fun h =>
        i.resP h (op (f.md 3 3) (op (f.md 0 3) (ps f.sa h).1 (ps f.sb h).1) (ps f.sc h).1)
          ((ps f.sa h).2 <|> (ps f.sb h).2 <|> (ps f.sc h).2) 0))
    ∧ (s.Issues (.p2v f) t i → ∃ r : Nat → BitVec 32,
        (∀ h k, k < 32 → (r h).getLsbD k = if k < 8 then ((i.fib h).pred k).val else false)
        ∧ exec (.p2v f) s = .next (t.gives i fun h =>
            i.resV h (r h).toNat ((List.range 7).findSome? fun k => ((i.fib h).pred k).pois) 0))
    ∧ (s.Issues (.v2p f) t i → exec (.v2p f) s = .next (t.gives i fun h =>
        ⟨h, ((List.range 7).filter fun k => (i.srcB h).2.isSome || (i.bvB 32 h).getLsbD k).map fun k =>
          predDst k ((i.bv 1 32 h).getLsbD k) (i.pois2 h), 0, none⟩))
    ∧ (s.Issues (.vxst f) t i → exec (.vxst f) s = .next (t.gives i fun h =>
        i.resV h (atD (i.fib h).x (f.sa.toNat % 4) 0).toNat none 0))
    ∧ (s.Issues (.vxld f) t i → (∀ h ∈ i.on, i.pois2 h = none) → exec (.vxld f) s = .next (t.gives i fun h =>
        ⟨h, [.x (f.dst.toNat % 4) ((i.bv 1 16 h) + (i.bvB 16 h))], 0, none⟩))
    ∧ (s.Issues (.s2v f) t i → f.sa.toNat < 0x10 → exec (.s2v f) s = .next (t.gives i fun h =>
        i.resV h (match f.sa.toNat with
          | 0 => h
          | 1 => i.team.index
          | 2 => i.team.slot
          | 3 => i.x.pos h
          | 4 => i.x.fs.length
          | 5 => i.team.homeLane h
          | 6 => 32 * i.x.co.slice + i.x.lane h
          | 7 => i.x.co.slice
          | 8 => i.cl
          | 9 => t.dieOf i.cl
          | 10 => i.team.asid
          | 11 => if i.x.co.aligned || i.team.fixed then 1 else 0
          | 12 => (i.fib h).sets.toNat
          | 13 => i.team.live.length
          | 14 => if (i.fib h).tm then 1 else 0
          | _ => t.ptime) none 0))
    ∧ (s.Issues (.s2v f) t i → 0x10 ≤ f.sa.toNat → exec (.s2v f) s = .next (t.finishVar i (i.on.map fun h =>
        (h, if f.sa.toNat = 0x10 then (t.cl i.cl).cycle else t.ptime, none, 0))))

/-! ### Group 6, control flow -/

/-- R184, R291, R352: a control transfer. When every fibre of the issue has the same next address the cohort goes on
there, and no register changes; else each fibre enters the pool at its own: the cohort dissolves, which writes its pending
results (R294), but a FIXED cohort, which only splits, keeps them pending (the model's choice: log entry 17). No byte of memory
changes. -/
def Obligations.ControlTransfers : Prop := ∀ (t : State) (x : Ctx) (stall : Nat) (next : Nat → Addr),
  t.team? x.c x.co.team = some x.team → t.cohort? x.c x.co.id = some x.co → x.fs ≠ [] →
  x.fs.Nodup → (∀ h ∈ x.fs, h < x.team.fibres.length) →
  let w := t.transfer x stall next
  w.mem = t.mem ∧ (∀ h, h ∉ x.fs → (x.fs.all fun g => x.fs.all fun k => next g == next k) = true →
        w.fibre x.c x.co.team h = t.fibre x.c x.co.team h)
    ∧ ((∀ g ∈ x.fs, ∀ k ∈ x.fs, next g = next k) →
        (∀ h ∈ x.fs, w.fibre x.c x.co.team h = { t.fibre x.c x.co.team h with pc := next h })
          ∧ w.cohort? x.c x.co.id = some { x.co with
              dist := x.co.dist + 1 + stall
              rest := (x.co.rest.1, stall)
              blocked := none })
    ∧ ((∃ g ∈ x.fs, ∃ k ∈ x.fs, next g ≠ next k) →
        let ended := if x.co.fixed = none then t.land x.c x.co.id none else t
        (∀ h ∈ x.fs, w.fibre x.c x.co.team h = { ended.fibre x.c x.co.team h with
            pc := next h
            wait := .none
            rel := .plain
            entered := (t.cl x.c).cycle })
          ∧ (∀ h, h ∉ x.fs → w.fibre x.c x.co.team h = ended.fibre x.c x.co.team h)
          ∧ w.cohort? x.c x.co.id = if x.co.fixed = none then none else some { x.co with
              dist := x.co.dist + 1 + stall
              rest := (x.co.rest.1, stall)
              blocked := none })

/-- R345, R352 to R355: where BRA, BRX, CALL, CALLX and RET go, when no pad check fails or waits and, but for spilled entries,
the return stack has room or an entry: the return address is pushed first and popped last; LPAD goes on. The model's
choices in it: log entries 36, 41 and 42. -/
def Obligations.BranchesAndCalls : Prop := ∀ (s t : State) (i : Iss) (f : Fields),
  let off := i.x.pc + f.imm.signExtend 48
  let on (h : Nat) : Bool := i.guard h
  let push (v : State) (fs : List Nat) : State := fs.foldl (fun v h => v.modFibre i.cl i.slot h fun y =>
    { y with rs := i.next :: y.rs }) v
  (s.Issues (.bra f) t i → exec (.bra f) s = .next ((t.account i).transfer i.x i.stall fun h =>
      if on h && (i.predSrc f.sa h).1 then off else i.next))
    ∧ (s.Issues (.brx f) t i → ∀ ps u, t.padsOf i 1 = (ps, u) → (∀ p ∈ ps, p.2 = .pass) →
        exec (.brx f) s = .next ((u.account i).transfer i.x i.stall fun h =>
          if on h then BitVec.ofNat 48 (i.src 1 h).1 else i.next))
    ∧ (s.Issues (.call f) t i → (∀ h ∈ i.x.fs, (i.fib h).rs.length < 8) → i.x.fs.Nodup →
        exec (.call f) s = .next ((push (t.account i) i.x.fs).goOn i.x i.stall fun _ => off))
    ∧ (s.Issues (.callx f) t i → (∀ h ∈ i.on, (i.fib h).rs.length < 8) → i.x.fs.Nodup →
        ∀ ps u, t.padsOf i 0 = (ps, u) → (∀ h ∈ i.on, (u.fibre i.cl i.slot h).rs.length < 8) → (∀ p ∈ ps, p.2 = .pass) →
        exec (.callx f) s = .next ((push (u.account i) i.on).transfer i.x i.stall fun h =>
          if on h then BitVec.ofNat 48 (i.src 1 h).1 else i.next))
    ∧ (s.Issues (.ret f) t i → (∀ h ∈ i.on, (i.fib h).rs ≠ []) →
        exec (.ret f) s = .next ((i.on.foldl (fun v h => v.modFibre i.cl i.slot h fun y => { y with rs := y.rs.tail })
            (t.account i)).transfer i.x i.stall fun h => if on h then ((i.fib h).rs.headD 0) else i.next))
    ∧ (s.Issues (.lpad f) t i → exec (.lpad f) s = .next (t.finish i []))

/-- R353 to R355: a target that is not a canonical, 4-aligned address of a pad of the branch's kind and tag is CFI, the target
its INFO; so is a return from an empty stack with nothing spilled. The model's choices in it: log entry 36. -/
def Obligations.ControlFlowIntegrity : Prop := ∀ (s t u : State) (i : Iss) (f : Fields) (ps : List (Nat × Pad)),
  (s.Issues (.brx f) t i → t.padsOf i 1 = (ps, u) → (∃ p ∈ ps, p.2 = .fail) →
      exec (.brx f) s = .next (u.takeTrap i.x (f.code 0x181)
        ⟨0x04, 0, (ps.filter fun p => p.2 == .fail).map fun p => (p.1, (i.src 1 p.1).1), 0xFFFF⟩))
    ∧ (s.Issues (.ret f) t i → (∀ h ∈ i.on, (i.fib h).rs = [] → (i.fib h).rssp = 0) → (∃ h ∈ i.on, (i.fib h).rs = []) →
        exec (.ret f) s = .next (t.takeTrap i.x (f.code 0x184)
          ⟨0x04, 0, (i.on.filter fun h => (i.fib h).rs.isEmpty).map fun h => (h, 0), 0xFFFF⟩))
    ∧ (∀ kind h, 2 ^ 48 ≤ (i.src 1 h).1 ∨ (i.src 1 h).1 % 4 ≠ 0 → t.padOf i kind h = (.fail, t))
    ∧ (∀ w kind tag : Nat, padWord w kind tag = true ↔
        w % 4 = 0 ∧ w / 4 % 1024 = 0x185 ∧ w / 2 ^ 58 % 8 = kind ∧ w / 2 ^ 34 % 2 ^ 16 = tag)

/-- R174, R233, R357: one parent's child: the lowest index that is free, its registers v0 to v15 and predicates the parent's, the
rest zero, in set 0 alone, its generator seeded by its index; with no index free, none and all ones. R357, R358: FORK, its pad
good: each guarded fibre in position order makes a child, whose index is a result of the fibre like any other, the cohort
dissolves and all enter the pool at PC + len; a pad that fails is CFI in the guarded fibres. The model's choices in it: log
entries 38 and 125. -/
def Obligations.ForkInstruction : Prop :=
  (∀ (t : State) (i : Iss) (target : Addr) (h : Nat) (tm : Team),
    t.team? i.cl i.slot = some tm → tm.fib ≤ tm.fibres.length →
    ((∀ k < tm.fib, (tm.fibre k).live = true) → t.forkOne i target h = (BitVec.allOnes 32, t))
      ∧ (∀ k < tm.fib, (tm.fibre k).live = false → (∀ j < k, (tm.fibre j).live = true) →
          ∃ w, t.forkOne i target h = (BitVec.ofNat 32 k, w)
            ∧ (∀ j, j ≠ k → w.fibre i.cl i.slot j = t.fibre i.cl i.slot j) ∧ w.mem = t.mem
            ∧ let c := w.fibre i.cl i.slot k
              c.live = true ∧ c.pc = target ∧ c.tm = false ∧ c.wait = .none ∧ c.rs = [] ∧ c.rssp = 0 ∧ c.sets = 1
                ∧ c.jmask = 0 ∧ c.p = (i.fib h).p ∧ c.x = [0, 0, 0, 0] ∧ c.gen = seedOf tm.index k ∧ c.trec = none
                ∧ atD c.lph 0 0 = (atD tm.bars 0 ⟨0, 0⟩).p ∧ c.v.length = tm.regs
                ∧ ∀ n < tm.regs, atD c.v n (VReg.of 0) = if n < 16 then atD (i.fib h).v n (VReg.of 0) else VReg.of 0))
  ∧ (∀ (s t u : State) (i : Iss) (f : Fields), s.Issues (.fork f) t i →
    let target := i.x.pc + f.imm.signExtend 48
    let done (v : State) : State :=
      let r := i.on.foldl (fun a h => ((a.1 ++ [(h, (a.2.forkOne i target h).1)]), (a.2.forkOne i target h).2))
        (([] : List (Nat × Word)), v.account i)
      (r.2.produce i (r.1.map fun r => ⟨r.1, i.vec 0 r.1 r.2.toNat none, 0, none⟩)).scatter i.x i.stall fun _ => i.next
    (i.on = [] → exec (.fork f) s = .next (done t))
      ∧ (i.on ≠ [] → t.padCheck i.cl i.team.space target.toNat 3 (f.ext.toNat % 2 ^ 16) = (.pass, u) →
          exec (.fork f) s = .next (done u))
      ∧ (i.on ≠ [] → t.padCheck i.cl i.team.space target.toNat 3 (f.ext.toNat % 2 ^ 16) = (.fail, u) →
          exec (.fork f) s = .next (u.takeTrap i.x (f.code 0x188) ⟨0x04, 0, i.on.map fun h => (h, target.toNat), 0xFFFF⟩)))

/-- R175, R190, R197, R358: END: guarded fibres are live no more, the others stand at PC + 8; nobody awaits the results
that were outstanding for the fibres that ended; a team without a live fibre has ended. -/
def Obligations.EndFibres : Prop := ∀ (s t : State) (i : Iss) (f : Fields), s.Issues (.endf f) t i →
  i.x.fs.Nodup → (∀ h ∈ i.x.fs, h < i.team.fibres.length) →
  ∃ w : State, exec (.endf f) s = .next w
    ∧ (∀ h ∈ i.on, (w.fibre i.cl i.slot h).live = false ∧ (w.fibre i.cl i.slot h).sets = 0)
    ∧ (∀ h ∈ i.x.fs, h ∉ i.on → (w.fibre i.cl i.slot h).live = (t.fibre i.cl i.slot h).live
        ∧ (w.fibre i.cl i.slot h).pc = i.x.pc + 8)
    ∧ (∀ h, h ∉ i.x.fs → (w.fibre i.cl i.slot h).live = (t.fibre i.cl i.slot h).live)
    ∧ (∀ p ∈ (w.cl i.cl).pend, p.slot = i.slot → p.fibre ∈ i.on → p.kind = .pref)
    ∧ (∀ tm, w.team? i.cl i.slot = some tm → i.on ≠ [] → tm.live = [] → tm.mc = false → tm.ended = true)
    ∧ (i.x.co.fixed = none → w.cohort? i.cl i.x.co.id = none) ∧ w.mem = t.mem

/-- R359, R360: YIELD and SLEEP go on and hold the cohort: YIELD when another of its slice may issue, SLEEP until the
longest guarded duration has passed, a poisoned one counting 0. -/
def Obligations.YieldAndSleep : Prop := ∀ (s t : State) (i : Iss) (f : Fields),
  let held (w : State) (h : Hold) : State := w.modCohort i.cl i.x.co.id fun k => { k with hold := h }
  let others := ∃ k ∈ (t.cl i.cl).cohorts, k.slice = i.x.co.slice ∧ k.id ≠ i.x.co.id ∧ t.offered i.cl k = true
  let ns (h : Nat) : Nat := if f.len = .m then f.imm.toNat else if (i.src 1 h).2 = none then (i.src 1 h).1 else 0
  (s.Issues (.yieldc f) t i → (¬ others → exec (.yieldc f) s = .next (t.finish i []))
      ∧ (others → ∃ c, exec (.yieldc f) s = .next (held (t.finish i []) (.yielded c))))
    ∧ (s.Issues (.sleep f) t i → ((∀ h ∈ i.on, ns h = 0) → exec (.sleep f) s = .next (t.finish i []))
      ∧ ((∃ h ∈ i.on, ns h ≠ 0) → ∃ m, (∃ h ∈ i.on, ns h = m) ∧ (∀ h ∈ i.on, ns h ≤ m)
          ∧ exec (.sleep f) s = .next (held (t.finish i []) (.sleep ((t.finish i []).ptime + m)))))

/-- R176, R188, R351, R362: JMARK, JOIN, LEAVE of a set the cohort was not formed over, and BAR.ARRIVE go on; what each adds
or takes away in the guarded fibres and in the team. The model's choices in it: log entries 37, 39 and 40. -/
def Obligations.MarksAndMembership : Prop := ∀ (s t : State) (i : Iss) (f : Fields),
  i.x.fs.Nodup → (∀ h ∈ i.x.fs, h < i.team.fibres.length) → i.team.joins.length = 16 → i.team.bars.length = 16 →
  let k := f.md 0 4
  let bit : BitVec 16 := 1#16 <<< k
  (s.Issues (.jmark f) t i → ∃ w : State, exec (.jmark f) s = .next w
      ∧ (∀ h ∈ i.on, w.fibre i.cl i.slot h = { t.fibre i.cl i.slot h with
          pc := i.next
          jmask := (t.fibre i.cl i.slot h).jmask ||| bit })
      ∧ (∀ h ∈ i.x.fs, h ∉ i.on → w.fibre i.cl i.slot h = { t.fibre i.cl i.slot h with pc := i.next })
      ∧ w.mem = t.mem ∧ ∃ tm : Team, w.team? i.cl i.slot = some tm ∧ (i.on ≠ [] → atD tm.joins k JoinSlot.zero
          = ⟨(atD i.team.joins k JoinSlot.zero).c + (i.on.filter fun h => !(i.fib h).jmask.getLsbD k).length,
              (atD i.team.joins k JoinSlot.zero).a, i.x.pc + f.imm.signExtend 48,
              (atD i.team.joins k JoinSlot.zero).byEnd && (atD i.team.joins k JoinSlot.zero).c != 0⟩)
        ∧ (∀ j, j ≠ k → atD tm.joins j JoinSlot.zero = atD i.team.joins j JoinSlot.zero))
    ∧ (s.Issues (.join f) t i → ∃ w : State, exec (.join f) s = .next w
      ∧ (∀ h ∈ i.on, w.fibre i.cl i.slot h = { t.fibre i.cl i.slot h with
          pc := i.next
          sets := (t.fibre i.cl i.slot h).sets ||| bit
          lph := if (i.fib h).sets.getLsbD k then (t.fibre i.cl i.slot h).lph
            else modAt (t.fibre i.cl i.slot h).lph k fun _ => (atD i.team.bars k ⟨0, 0⟩).p })
      ∧ (∀ h ∈ i.x.fs, h ∉ i.on → w.fibre i.cl i.slot h = { t.fibre i.cl i.slot h with pc := i.next }) ∧ w.mem = t.mem)
    ∧ (s.Issues (.leave f) t i → i.x.co.fset ≠ k → ∃ w : State, exec (.leave f) s = .next (w.settle i.cl i.slot)
      ∧ (∀ h ∈ i.on, w.fibre i.cl i.slot h = { t.fibre i.cl i.slot h with
          pc := i.next
          sets := (t.fibre i.cl i.slot h).sets &&& ~~~bit })
      ∧ (∀ h ∈ i.x.fs, h ∉ i.on → w.fibre i.cl i.slot h = { t.fibre i.cl i.slot h with pc := i.next }) ∧ w.mem = t.mem)
    ∧ (s.Issues (.barArrive f) t i → (∀ h ∈ i.on, (t.fibre i.cl i.slot h).phase = false ∧ t.replOwn i.cl (i.fib h) = true
          ∧ ∀ p ∈ (t.cl i.cl).pend, p.kind = .load → p.slot = i.slot → p.fibre ≠ h) →
        ∃ w : State, exec (.barArrive f) s = .next (w.settle i.cl i.slot)
          ∧ (∀ h ∈ i.x.fs, w.fibre i.cl i.slot h = { t.fibre i.cl i.slot h with pc := i.next }) ∧ w.mem = t.mem
          ∧ ∃ tm : Team, w.team? i.cl i.slot = some tm ∧ atD tm.bars k ⟨0, 0⟩ = ⟨(atD i.team.bars k ⟨0, 0⟩).p,
              (atD i.team.bars k ⟨0, 0⟩).a + i.on.length * (if f.len = .m then f.imm.toNat else 1)⟩)

/-- R184, R186, R188, R196, R199, R356, R358, R362: the waits. Guarded fibres park at PC + len, the others enter the pool
there, and the cohort dissolves; a fibre that owes no wait is released at once; BAR.SYNC arrives as it waits; then every
wait of the team that is now satisfied ends. R170, R198, R199, R363: GBAR.ARRIVE once the fibres' accesses are out: the
cluster's dirty bytes go home, d receives the phase, the team's count grows by c per guarded fibre and whole multiples of
the members are sent to the die. An object that is off or of another address space traps ACCESS in every guarded fibre.
LEAVE of the set the cohort was formed over: the guarded fibres leave it, the cohort dissolves and all enter the pool. The model's
choices in it: log entries 37, 39 and 116. -/
def Obligations.ParkingInstructions : Prop :=
  (∀ (s t : State) (i : Iss) (f : Fields),
    let k := f.md 0 4
    let loads := (∀ h ∈ i.on, (t.fibre i.cl i.slot h).phase = false ∧ t.replOwn i.cl (i.fib h) = true
      ∧ ∀ p ∈ (t.cl i.cl).pend, p.kind = .load → p.slot = i.slot → p.fibre ≠ h)
    let done (w : State) : State := w.settle i.cl i.slot
    (s.Issues (.csync f) t i → exec (.csync f) s = .next (done ((t.park i fun _ => .csync k).freed i
        (i.on.filter fun h => !(i.fib h).sets.getLsbD k))))
      ∧ (s.Issues (.jwait f) t i → ∃ w : State, exec (.jwait f) s = .next (done w)
        ∧ (∀ h, w.fibre i.cl i.slot h = ((t.park i fun _ => .join k).freed i (i.on.filter fun h =>
            !((i.fib h).jmask.getLsbD k && decide (0 < (atD i.team.joins k JoinSlot.zero).c)))).fibre i.cl i.slot h)
        ∧ (i.team.joins.length = 16 → ∃ tm : Team, w.team? i.cl i.slot = some tm ∧ (atD tm.joins k JoinSlot.zero).a
            = (atD i.team.joins k JoinSlot.zero).a + (i.on.filter fun h =>
              (i.fib h).jmask.getLsbD k && decide (0 < (atD i.team.joins k JoinSlot.zero).c)).length))
      ∧ (s.Issues (.barWait f) t i → exec (.barWait f) s = .next (done (t.park i fun _ => .bar k)))
      ∧ (s.Issues (.barSync f) t i → loads → exec (.barSync f) s = .next (done
          ((t.park i fun _ => .bar k).modTeam i.cl i.slot fun tm => { tm with
            bars := modAt tm.bars k fun b => { b with a := b.a + i.on.length } })))
      ∧ (s.Issues (.gbarWait f) t i → loads → (t.gbar f.sb.toNat).expect ≠ 0 → (t.gbar f.sb.toNat).asid = i.team.space →
          exec (.gbarWait f) s
            = .next (t.park i fun h => .gbar f.sb.toNat (BitVec.ofNat 16 (i.src 1 h).1)).gbarWake)
      ∧ (s.Issues (.leave f) t i → i.x.co.fset = k → exec (.leave f) s = .next (done
          (((i.on.foldl (fun s h => s.modFibre i.cl i.slot h fun y => { y with sets := y.sets &&& ~~~(1#16 <<< k) }) t).account
            i).scatter i.x i.stall fun _ => i.next)))
      ∧ (i.Of t → i.x.fs.Nodup →
          (∀ h ∈ i.x.fs, h < i.team.fibres.length) → ∀ wait : Nat → Wait,
          let w := t.park i wait
          (∀ h ∈ i.on, (w.fibre i.cl i.slot h).pc = i.next ∧ (w.fibre i.cl i.slot h).wait = wait h)
            ∧ (∀ h ∈ i.x.fs, h ∉ i.on → (w.fibre i.cl i.slot h).pc = i.next ∧ (w.fibre i.cl i.slot h).wait = .none)
            ∧ (i.x.co.fixed = none → w.cohort? i.cl i.x.co.id = none) ∧ w.mem = t.mem))
  ∧ (∀ (s t : State) (i : Iss) (f : Fields),
    let b := f.sa.toNat
    (s.Issues (.gbarArrive f) t i → (t.gbar b).expect ≠ 0 → (t.gbar b).asid = i.team.space → i.on ≠ [] →
        t.mayRelease i = true → exec (.gbarArrive f) s = .next (
          (((t.flush i.cl fun _ _ => true).finish i (i.on.map fun h =>
              i.resV h ((t.flush i.cl fun _ _ => true).gbar b).phase.toNat none 0)).modTeam i.cl i.slot fun tm =>
            { tm with gbar := Tab.set 0 tm.gbar b (Tab.get 0 tm.gbar b
                + i.on.length * (if f.len = .m then f.imm.toNat else 1)) }).gbarSend i.cl i.slot))
      ∧ (s.Issues (.gbarArrive f) t i → (t.gbar b).expect ≠ 0 → (t.gbar b).asid = i.team.space → i.on = [] →
        exec (.gbarArrive f) s = .next (t.finish i []))
      ∧ (s.Issues (.gbarArrive f) t i → (t.gbar b).expect = 0 ∨ (t.gbar b).asid ≠ i.team.space → i.on ≠ [] →
        exec (.gbarArrive f) s = .next (t.takeTrap i.x (f.code 0x193) ⟨0x09, 0, i.on.map fun h => (h, b), 0xFFFF⟩))
      ∧ (s.Issues (.gbarWait f) t i → (t.gbar f.sb.toNat).expect = 0 ∨ (t.gbar f.sb.toNat).asid ≠ i.team.space → i.on ≠ [] →
        exec (.gbarWait f) s
          = .next (t.takeTrap i.x (f.code 0x194) ⟨0x09, 0, i.on.map fun h => (h, f.sb.toNat), 0xFFFF⟩))
      ∧ (∀ c slot tm, t.team? c slot = some tm → (tm.live.filter fun n => (tm.fibre n).sets.getLsbD 0) ≠ [] →
          ∃ w : Team, (t.gbarSend c slot).team? c slot = some w ∧ ∀ e ∈ w.gbar,
            e.2 < (tm.live.filter fun n => (tm.fibre n).sets.getLsbD 0).length ∧ ∃ n, (e.1, n) ∈ tm.gbar
              ∧ e.2 = n % (tm.live.filter fun n => (tm.fibre n).sets.getLsbD 0).length))

/-- R186, R195 to R197: a set's barrier. While the arrivals reach the members the phase advances; a parked member whose
local phase is past goes on with it one higher, one that is no member at once; when every live member is at CSYNC all of
them go on; nobody else is touched. R188 to R190: a join slot of a team whose cohorts are not FIXED. When the arrivals
reach the count, every fibre parked at it goes on, its mask bit clear, and the slot returns to zero; with no count, parked
fibres go on; else nothing changes. -/
def Obligations.BarriersAndJoins : Prop :=
  (∀ (t : Team) (cycle id s : Nat), s < 16 → t.bars.length = 16 →
    t.fib ≤ t.fibres.length → (∀ n, (t.fibre n).lph.length = 16) →
    let b := atD t.bars s ⟨0, 0⟩
    let m := (t.live.filter fun n => (t.fibre n).sets.getLsbD s).length
    let w := t.settleSet cycle id s
    let c := atD w.bars s ⟨0, 0⟩
    let past (n : Nat) : Prop := (t.fibre n).sets.getLsbD s = false
      ∨ 1 ≤ (c.p - atD (t.fibre n).lph s 0).toNat ∧ (c.p - atD (t.fibre n).lph s 0).toNat ≤ 32767
    (m = 0 → c = ⟨b.p, 0⟩)
      ∧ (0 < m → c.a = b.a % m ∧ c.p = b.p + BitVec.ofNat 16 (b.a / m))
      ∧ (∀ r, r ≠ s → atD w.bars r ⟨0, 0⟩ = atD t.bars r ⟨0, 0⟩)
      ∧ (∀ n, (t.fibre n).live = true → (t.fibre n).wait = .bar s → past n →
          (w.fibre n).wait = .none ∧ (w.fibre n).entered = cycle + 1 ∧ (w.fibre n).pc = (t.fibre n).pc
            ∧ ((t.fibre n).sets.getLsbD s = true → atD (w.fibre n).lph s 0 = atD (t.fibre n).lph s 0 + 1))
      ∧ (∀ n, (t.fibre n).wait = .bar s → ¬ past n → w.fibre n = t.fibre n)
      ∧ (∀ n, (t.fibre n).wait = .csync s → (t.fibre n).live = true →
          0 < m ∧ (∀ k, k < t.fib → (t.fibre k).live = true → (t.fibre k).sets.getLsbD s = true → (t.fibre k).wait = .csync s) →
          (w.fibre n).wait = .none ∧ (w.fibre n).entered = cycle + 1)
      ∧ (∀ n, (∃ k, k < t.fib ∧ (t.fibre k).live = true ∧ (t.fibre k).sets.getLsbD s = true ∧ (t.fibre k).wait ≠ .csync s) →
          (t.fibre n).wait ≠ .bar s → w.fibre n = t.fibre n)
      ∧ (∀ n, (t.fibre n).wait ≠ .bar s → (t.fibre n).wait ≠ .csync s → w.fibre n = t.fibre n))
  ∧ (∀ (t : Team) (cycle id j : Nat), j < 16 → t.joins.length = 16 →
    t.fixed = false →
    let k := atD t.joins j JoinSlot.zero
    let w := t.settleJoin cycle id j
    let parked (n : Nat) : Prop := (t.fibre n).live = true ∧ (t.fibre n).wait = .join j
    (0 < k.c → k.a = k.c → atD w.joins j JoinSlot.zero = JoinSlot.zero)
      ∧ (∀ n, parked n → (k.a = k.c ∨ k.c = 0) →
          (w.fibre n).wait = .none ∧ (w.fibre n).jmask.getLsbD j = false ∧ (w.fibre n).pc = (t.fibre n).pc
            ∧ (w.fibre n).entered = cycle + 1)
      ∧ (∀ n, ¬ parked n → w.fibre n = t.fibre n)
      ∧ (k.c ≠ 0 → k.a ≠ k.c → w = t)
      ∧ (∀ i, i ≠ j → atD w.joins i JoinSlot.zero = atD t.joins i JoinSlot.zero))

/-! ### Group 7, cross-lane -/

/-- R365 to R368: SHFL's four modes, SHFLX, BALLOT, VOTE and ELECT in each participant. A value moves with its poison and
origin; a source outside the rule leaves the participant's own value. -/
def Obligations.ShufflesAndVotes : Prop := ∀ (s t : State) (i : Iss) (f : Fields),
  let pd (v : Bool) (o : Option Half) : Dst := predDst f.sc.toNat v o
  let g := 64 / 2 ^ f.md 2 3
  let q (h : Nat) : Option Nat :=
    let p := i.x.pos h
    let b := (i.srcB h).1
    let s0 := p - p % g
    ((match f.md 0 2 with
      | 0 => some (s0 + b % g)
      | 1 => if b ≤ p ∧ s0 + b ≤ p then some (p - b) else none
      | 2 => if p + b < s0 + g then some (p + b) else none
      | _ => some (s0 + (p % g ^^^ b % g))) : Option Nat).bind i.x.atPos
  let el (h : Nat) : Option VReg :=
    let e := (i.srcB h).1
    if e / i.team.width ≤ f.md 0 3 then
      (i.x.atPos (e % i.team.width)).map fun k => (i.fib k).reg (f.sa.toNat + e / i.team.width) else none
  let holds (h : Nat) : Bool := (i.predSrc f.sa h).1
  let po := i.on.findSome? fun h => (i.predSrc f.sa h).2
  let n := i.on.length
  let yes := (i.on.filter holds).length
  (s.Issues (.shfl f) t i → exec (.shfl f) s = .next (t.gives i fun h =>
      let a := i.src 1 ((q h).getD h)
      let o := a.2 <|> (i.srcB h).2
      ⟨h, i.vec 0 h a.1 o ++ [pd (q h).isSome o], 0, none⟩))
    ∧ (s.Issues (.shflx f) t i → exec (.shflx f) s = .next (t.gives i fun h =>
      let r := (el h).getD ⟨0, true, false⟩
      let own : Option Half := if r.pois then some (r.val.setWidth 16) else none
      let o := (i.srcB h).2.map own.getD <|> own
      ⟨h, i.vec 0 h r.val.toNat o ++ [.p (f.sc.toNat % 8)
        ⟨(el h).isSome, if (i.srcB h).2.isSome then o else none⟩], 0, none⟩))
    ∧ (s.Issues (.ballot f) t i → exec (.ballot f) s = .next (t.gives i fun h =>
      let m := ((i.on.filter holds).map fun k => 2 ^ i.x.pos k).sum
      i.resV h (if f.m 0 then m else m % 2 ^ 32) po 0))
    ∧ (s.Issues (.vote f) t i → exec (.vote f) s = .next (t.gives i fun h =>
      i.resP h (match f.md 0 2 with
        | 0 => decide (yes = n)
        | 1 => decide (1 ≤ yes)
        | 2 => decide (yes = 0 ∨ yes = n)
        | _ => decide (n < 2 * yes)) po 0))
    ∧ (s.Issues (.elect f) t i → ∃ e, (i.on ≠ [] → e ∈ i.on.map i.x.pos) ∧ (∀ h ∈ i.on, e ≤ i.x.pos h)
      ∧ exec (.elect f) s = .next (t.gives i fun h => ⟨h, i.vec 0 h e none ++ [pd (i.x.pos h == e) none], 0, none⟩))

/-- R237, R365, R369, R370: folds and keys over the participants in position order. REDX folds all, SCANX those up to or
below its own position, SEGRED those of an equal key; CDET and MATCHX name the positions of equal keys. -/
def Obligations.FoldsAndKeys : Prop := ∀ (s t : State) (i : Iss) (f : Fields),
  let a (h : Nat) : Nat := (i.src 1 h).1
  let fold (fs : List Nat) (v : Nat → Nat × Option Half) : Nat × Flags :=
    foldOp i.team.fpmode (f.md 0 4) (fs.map fun h => (v h).1)
  let pois (fs : List Nat) (v : Nat → Nat × Option Half) : Option Half := fs.findSome? fun h => (v h).2
  let same (h : Nat) : List Nat := i.on.filter fun k => a k == a h
  let upTo (h : Nat) : List Nat := i.on.filter fun k => decide (i.x.pos k ≤ i.x.pos h)
  let below (h : Nat) : List Nat := i.on.filter fun k => decide (i.x.pos k < i.x.pos h)
  let cut (m : Nat) : Nat := if f.m 1 then m else m % 2 ^ 32
  let bits (fs : List Nat) : Nat := (fs.map fun k => 2 ^ i.x.pos k).sum
  (s.Issues (.redx f) t i → exec (.redx f) s = .next (t.gives i fun h =>
      i.resV h (fold i.on (i.src 1)).1 (pois i.on (i.src 1)) (fold i.on (i.src 1)).2))
    ∧ (s.Issues (.scanx f) t i → exec (.scanx f) s = .next (t.gives i fun h =>
      let ms := if f.m 4 then below h else upTo h
      i.resV h (fold ms (i.src 1)).1 (pois ms (i.src 1)) (fold ms (i.src 1)).2))
    ∧ (s.Issues (.segred f) t i → exec (.segred f) s = .next (t.gives i fun h =>
      let o := pois (same h) fun k => (0, (i.src 1 k).2 <|> (i.srcB k).2)
      ⟨h, i.vec 0 h (fold (same h) i.srcB).1 o ++ [predDst f.sc.toNat ((same h).head? == some h) o],
        if o.isSome then 0 else (fold (same h) i.srcB).2, none⟩))
    ∧ (s.Issues (.cdet f) t i → exec (.cdet f) s = .next (t.gives i fun h =>
      i.resV h (cut (bits ((same h).filter fun k => decide (i.x.pos k < i.x.pos h)))) (pois (upTo h) (i.src 1)) 0))
    ∧ (s.Issues (.matchx f) t i → exec (.matchx f) s = .next (t.gives i fun h =>
      i.resV h (cut (bits (same h))) (pois i.on (i.src 1)) 0))

/-- R236, R237, R369: the folded operations. Integer sums wrap; minima and maxima are of the two's complement or of the
unsigned numbers; the bitwise ones are bit by bit; a floating-point sum is the exact sum of all rounded once, with the flags of
that rounding and of its inputs; floating-point minima and maxima are FMIN's and FMAX's, one after the other, a single value
against itself; of nothing the fold is the operation's identity. -/
def Obligations.FoldOperations : Prop :=
  ∀ (w : Word) (v : BitVec 32) (vs : List (BitVec 32)) (d : BitVec 64) (ds : List (BitVec 64)),
    let ns := (v :: vs).map BitVec.toNat
    foldOp w 0 ns = ((vs.foldl (· + ·) v).toNat, 0)
      ∧ foldOp w 1 ((d :: ds).map BitVec.toNat) = ((ds.foldl (· + ·) d).toNat, 0)
      ∧ foldOp w 3 ns = ((vs.foldl (fun x y => if y.slt x then y else x) v).toNat, 0)
      ∧ foldOp w 4 ns = ((vs.foldl (fun x y => if x.slt y then y else x) v).toNat, 0)
      ∧ foldOp w 5 ns = ((vs.foldl (fun x y => if y.ult x then y else x) v).toNat, 0)
      ∧ foldOp w 6 ns = ((vs.foldl (fun x y => if x.ult y then y else x) v).toNat, 0)
      ∧ foldOp w 9 ns = ((vs.foldl (· &&& ·) v).toNat, 0) ∧ foldOp w 10 ns = ((vs.foldl (· ||| ·) v).toNat, 0)
      ∧ foldOp w 11 ns = ((vs.foldl (· ^^^ ·) v).toNat, 0)
      ∧ (let xs := ns.map (fp32.input w)
          let r := fp32.sumOut w (fmRm w) (xs.map (·.1))
          foldOp w 2 ns = (r.1, xs.foldl (fun fl x => fl ||| x.2) r.2))
      ∧ (∀ big : Bool,
          let two (x y : Nat) : Nat × Flags :=
            let a := fp32.input w x
            let b := fp32.input w y
            let r := fp32.minmax w (fmLmm w) big a.1 b.1
            (r.1, a.2 ||| b.2 ||| r.2)
          let op := if big then 8 else 7
          foldOp w op [v.toNat] = two v.toNat v.toNat
            ∧ (vs ≠ [] → foldOp w op ns = (vs.map BitVec.toNat).foldl (fun a x =>
                ((two a.1 x).1, a.2 ||| (two a.1 x).2)) (v.toNat, 0)))
      ∧ foldOp w 12 ((d :: ds).map BitVec.toNat)
        = fp64.sumOut w (fmRm w) ((d :: ds).map fun x => fp64.decode x.toNat)
      ∧ [0, 1, 2, 3, 4, 5, 6, 7, 8, 9, 10, 11, 12].map (fun op => (foldOp w op []).1)
        = [0, 0, 0, 0x7FFFFFFF, 0x80000000, 0xFFFFFFFF, 0, 0x7F800000, 0xFF800000, 0xFFFFFFFF, 0, 0, 0]

/-! ### Groups 8 and 9, loads, stores, atomics and phases -/

/-- R207, R213, R373 to R375, R377, R378: LD, LDL and PREF. An address outside the scratchpad given, or misaligned, traps; a
poisoned address gives poison at once; every other destination is empty until its data arrives, what the scratchpad holds
being fixed at the issue; a load of memory is outstanding with its fibre, registers, address, size and sign, for the arrival of
its data; PREF touches no register. The model's choices in it: log entries 14 and 43. -/
def Obligations.LoadInstructions : Prop := ∀ (s t : State) (i : Iss) (f : Fields),
  i.x.fs.Nodup → (∀ h ∈ i.x.fs, h < i.team.fibres.length) →
  let n := match f.md 0 3 with | 0 => 1 | 1 => 1 | 2 => 2 | 3 => 2 | 4 => 4 | 5 => 8 | _ => 16
  let clean := i.on.filter fun h => (i.src 1 h).2.isNone
  let hits := (clean.map (i.lane n)).filterMap fun l => (i.laneHit l).map fun x => (l.h, x)
  let reg (v : State) (h r : Nat) : VReg := (v.fibre i.cl i.slot h).reg r
  let onward (w : State) : Prop := ∀ h ∈ i.x.fs, (w.fibre i.cl i.slot h).pc = i.next
  let sent (w : State) (h : Nat) (regs : List Nat) (va n : Nat) (sg : Bool) : Prop := ∃ p ∈ (w.cl i.cl).pend, p.kind = .load
    ∧ p.slot = i.slot ∧ p.fibre = h ∧ p.regs = regs ∧ (p.pay = .load va n sg ∨ ∃ vs, p.pay = .old va n sg vs)
  (s.Issues (.ld f) t i → (∀ q, trapOf hits = some q → exec (.ld f) s = .next (t.takeTrap i.x (f.code 0x200) q))
      ∧ (hits = [] → ∃ w : State, exec (.ld f) s = .next w ∧ onward w
        ∧ (∀ h ∈ i.on, ∀ r ∈ i.regsAt 0 h, r < 255 → r < (t.fibre i.cl i.slot h).v.length → match (i.src 1 h).2 with
            | some o => reg w h r = ⟨0x7FC00000#32 ||| o.setWidth 32, true, true⟩
            | none => reg w h r = { reg t h r with full := false })
        ∧ (∀ h r, h ∉ i.on ∨ r ∉ i.regsAt 0 h → reg w h r = reg t h r)
        ∧ (∀ h ∈ clean, ∀ off, (i.lane n h).tgt = .scr off → i.team.scrPoisoned off n = false →
            ∃ p ∈ (w.cl i.cl).pend, p.kind = .load ∧ p.slot = i.slot ∧ p.fibre = h ∧ p.regs = i.regsAt 0 h
              ∧ p.pay = .bits (regsOf (if f.md 0 3 = 1 ∨ f.md 0 3 = 3
                  then ((BitVec.ofNat (8 * n) (leVal (i.team.scrBytes off n))).signExtend 32).toNat
                  else leVal (i.team.scrBytes off n)) p.regs.length none) 0)
        ∧ (∀ h ∈ clean, ∀ va, (i.lane n h).tgt = .mem va → sent w h (i.regsAt 0 h) va n (f.md 0 3 == 1 || f.md 0 3 == 3))
        ∧ ((∀ h ∈ clean, ∃ off, (i.lane n h).tgt = .scr off) → w.mem = t.mem)))
    ∧ (s.Issues (.ldl f) t i → (i.on = [] → exec (.ldl f) s = .next (t.finish i []))
      ∧ (∀ low, i.on.head? = some low → (i.src 1 low).2 = none →
          i.blockHit low (i.team.width * (f.md 0 3 + 1)) = none →
          (∀ g ∈ i.on, ∀ h ∈ i.on, i.x.pos g = i.x.pos h → g = h) →
          ∃ w : State, exec (.ldl f) s = .next w ∧ onward w
            ∧ (∀ h ∈ i.on, i.x.pos h < i.team.width → ∀ e r, e ≤ f.md 0 3 → (i.regsAt 0 h)[e]? = some r → r < 255 →
                r < (t.fibre i.cl i.slot h).v.length → (reg w h r).full = false)
            ∧ (∀ h ∈ i.on, i.x.pos h < i.team.width → ∀ e r va, e ≤ f.md 0 3 → (i.regsAt 0 h)[e]? = some r →
                (i.wordLane low (i.team.width * e + i.x.pos h) h).tgt = .mem va → sent w h [r] va 4 false)
            ∧ (∀ h r, h ∉ i.on ∨ r ∉ i.regsAt 0 h → reg w h r = reg t h r))
      ∧ (∀ low o, i.on.head? = some low → (i.src 1 low).2 = some o →
          ∃ w : State, exec (.ldl f) s = .next w ∧ onward w ∧ w.mem = t.mem
            ∧ (∀ h ∈ i.on, ∀ r ∈ i.regsAt 0 h, r < 255 → r < (t.fibre i.cl i.slot h).v.length →
                reg w h r = ⟨0x7FC00000#32 ||| o.setWidth 32, true, true⟩)))
    ∧ (s.Issues (.pref f) t i → ∃ w : State, exec (.pref f) s = .next w ∧ onward w
        ∧ ∀ h r, reg w h r = reg t h r)

/-- R113, R127, R130, R134, R137, R266, R373, R376: ST. It traps, waits, or stores every lane's bytes: to the L1 for CLASS
PHASE, at home for LIVE, UNCACHED and the core's SRAM, on the issuing die's REPL lines for REPL, in the scratchpad; no other byte
of memory or scratchpad and no register changes, while the L1 need give up no line for them. The data is the same when a
translation is not in the TLB or its DIRTY bit is to be set; before the first byte of a store commits, the leaf has DIRTY. The
model's choices in it: log entries 14 and 110. -/
def Obligations.StoreInstruction : Prop := ∀ (s t : State) (i : Iss) (f : Fields), s.Issues (.st f) t i →
  let n := match f.md 0 3 with | 0 => 1 | 1 => 1 | 2 => 2 | 3 => 2 | 4 => 4 | 5 => 8 | _ => 16
  let ls := i.on.map (i.lane n)
  let data (h k : Nat) : Byte := BitVec.ofNat 8 ((i.src 2 h).1 / 2 ^ (8 * k))
  (∀ q u, t.checkLanes i 1 ls = (.trap q, u) → exec (.st f) s = .next (u.takeTrap i.x (f.code 0x201) q))
    ∧ (∀ u, t.checkLanes i 1 ls = (.wait, u) → exec (.st f) s = .next u)
    ∧ (∀ gs u, t.checkLanes i 1 ls = (.ok gs, u) →
        (u.sendsLater i gs = true → exec (.st f) s = .next u)
        ∧ (u.sendsLater i gs = false → ∃ w : State, exec (.st f) s = .next w
          ∧ (i.x.fs.Nodup → u.Inv → u.partials = [] → u.regFld 0x980 0 5 = 0 → (u.l1Lines i.cl).length + ls.length ≤ 768 →
              u.repl.applied.length = 4 → u.dieOf i.cl < 4 → (∀ h ∈ i.on, u.loading i h = false) →
              (∀ g ∈ gs, ∀ pa cls, g.2 = .at pa cls → isRegs pa = false ∧ isSram pa = false ∧ (cls = 2 → u.repl.pend = [])) →
              ∀ g ∈ gs, ∀ pa cls k, g.2 = .at pa cls → k < n →
                (∀ o ∈ gs, o.1.h ≠ g.1.h → ∀ a c, o.2 = .at a c → ¬ (a ≤ pa + k ∧ pa + k < a + n)) →
                (cls = 0 → (w.l1Byte i.cl (pa + k)).1 = data g.1.h k)
                  ∧ (cls = 1 ∨ cls = 3 → w.homeByte (pa + k) = data g.1.h k)
                  ∧ (cls = 2 → w.viewByte (u.dieOf i.cl) (pa + k) = data g.1.h k))))
    ∧ (∀ c asid va e, t.Inv → t.partials = [] → t.tlbFind c asid va = some e → bitOf e.dirty (e.leafOf va).2 = false →
        (e.leafOf va).1 % 8 = 0 → t.lineWaits (e.leafOf va).1 = false →
        bitOf (leVal ((t.markDirty c asid va).homeBytes (e.leafOf va).1 8)) 9 = true)
    ∧ ((∀ l ∈ ls, i.laneHit l = none) → t.Quiet i 1 ls → t.mem.wf = true → Tab.wf (0 : Byte) i.team.scratch = true →
        i.x.fs.Nodup → (∀ h ∈ i.x.fs, h < i.team.fibres.length) → (t.l1Lines i.cl).length + ls.length ≤ 768 →
        ∃ w : State, exec (.st f) s = .next w
          ∧ (∀ a, (∀ l ∈ ls, ¬ t.Covers i 1 l a) → t.SameByte w a)
          ∧ (∀ h ∈ i.on, ∀ va pa cls k, (i.lane n h).tgt = .mem va → t.paOf i.cl i.team.space va 1 = some (pa, cls) →
              k < n → (∀ g ∈ i.on, g ≠ h → ¬ t.Covers i 1 (i.lane n g) (pa + k)) →
              (cls = 0 → isSram pa = false → (w.l1Byte i.cl (pa + k)).1 = data h k)
                ∧ (cls = 1 ∨ cls = 3 ∨ isSram pa = true → w.homeByte (pa + k) = data h k)
                ∧ (cls = 2 → t.repl.applied.length = 4 → t.dieOf i.cl < 4 →
                    w.viewByte (t.dieOf i.cl) (pa + k) = data h k))
          ∧ (∀ tm : Team, w.team? i.cl i.slot = some tm →
              (∀ o, (∀ l ∈ ls, ∀ off, l.tgt = .scr off → ¬ (off ≤ o ∧ o < off + n)) →
                  Tab.get 0 tm.scratch o = Tab.get 0 i.team.scratch o)
              ∧ ∀ h ∈ i.on, ∀ off k, (i.lane n h).tgt = .scr off → k < n →
                  (∀ g ∈ i.on, g ≠ h → ∀ x, (i.lane n g).tgt = .scr x → ¬ (x ≤ off + k ∧ off + k < x + n)) →
                  Tab.get 0 tm.scratch (off + k) = data h k)
          ∧ ∀ h, w.fibre i.cl i.slot h = { t.fibre i.cl i.slot h with
              pc := if h ∈ i.x.fs then i.next else (t.fibre i.cl i.slot h).pc
              repl := (w.fibre i.cl i.slot h).repl })

/-- R130, R141, R142, R164, R380 to R384: ATOM, ATOMC and RED, once their lanes may proceed and, for the first two, their scope's
accesses are done: each lane in position order reads the old value and writes the new one in one act; a poisoned word stays as it
is. The operations are those of R380. Lanes that nothing stands before complete, the destinations of ATOM and ATOMC being
empty until the old value comes. A RED on a page of CLASS PHASE leaves memory as it is and its operand in a partial of its die,
which the next access that reaches the line at its home combines into it. The model's choices in it: log entries 14, 44, 45
and 106. -/
def Obligations.AtomicInstructions : Prop :=
  (∀ (s t u : State) (i : Iss) (f : Fields) (gs : List (Lane × Got)),
    let wide := [1, 7, 8, 9, 10, 16, 17, 18, 20].contains f.sc.toNat
    let n := if wide then 8 else 4
    let m := if f.m 1 then 8 else 4
    let after (n : Nat) := (((u.account i).coalesce i 2 n (lineVas (gs.map (·.1)))).fixLanes i gs).fixPhase i gs
    let open' (dev : Bool) : Prop := (∀ g ∈ gs, ∃ o, g.2 = .scr o) ∨ ∀ h ∈ i.on, u.scopeReady i dev h = true
    let run (n : Nat) (one : Memo → State → Lane × Got → Memo × State) : State :=
      (gs.foldl (fun acc l => one acc.1 acc.2 l) (([] : Memo), after n)).2.goOn i.x i.stall fun _ => i.next
    (s.Issues (.atom f) t i → t.checkLanes i 2 (i.on.map (i.lane n)) = (.ok gs, u) → u.sendsLater i gs = false →
        u.peerHeld none (u.dieOf i.cl) gs = false → open' (f.m 0) → exec (.atom f) s = .next (run n fun m s l =>
          s.atomLane i (f.m 0) m l fun old => memOp f.sc.toNat old (i.src 2 l.1.h).1))
      ∧ (s.Issues (.atomc f) t i → t.checkLanes i 2 (i.on.map (i.lane m)) = (.ok gs, u) → u.sendsLater i gs = false →
        u.peerHeld none (u.dieOf i.cl) gs = false → open' (f.m 0) → exec (.atomc f) s = .next (run m fun m s l =>
          s.atomLane i (f.m 0) m l fun old => if old = (i.src 2 l.1.h).1 then (i.src 3 l.1.h).1 else old))
      ∧ (s.Issues (.red f) t i → t.checkLanes i 2 (i.on.map (i.lane n)) = (.ok gs, u) → u.sendsLater i gs = false →
        u.peerHeld (some f.sc.toNat) (u.dieOf i.cl) gs = false → exec (.red f) s = .next (run n fun m s l => (m, s.redLane i f.sc.toNat l))))
    ∧ (∀ (s t : State) (i : Iss) (f : Fields),
        i.x.fs.Nodup → (∀ h ∈ i.x.fs, h < i.team.fibres.length) →
        let n := if [1, 7, 8, 9, 10, 16, 17, 18, 20].contains f.sc.toNat then 8 else 4
        let clear (n : Nat) : Prop := (∀ l ∈ i.on.map (i.lane n), i.laneHit l = none) ∧ t.Quiet i 2 (i.on.map (i.lane n))
          ∧ ∀ l ∈ i.on.map (i.lane n), ∀ va pa cls, l.tgt = .mem va → t.paOf i.cl i.team.space va 2 = some (pa, cls) →
              t.peerWaits pa = false
        let scope : Prop := ∀ h ∈ i.on, t.scopeReady i (f.m 0) h = true
        let onward (w : State) : Prop := ∀ h ∈ i.x.fs, (w.fibre i.cl i.slot h).pc = i.next
        let old (w : State) : Prop := ∀ h ∈ i.on, ∀ r ∈ i.regsAt 0 h, r < 255 → r < (t.fibre i.cl i.slot h).v.length →
          ((w.fibre i.cl i.slot h).reg r).full = false
        (s.Issues (.atom f) t i → clear n → scope → ∃ w, exec (.atom f) s = .next w ∧ onward w ∧ old w)
          ∧ (s.Issues (.atomc f) t i → clear (if f.m 1 then 8 else 4) → scope →
            ∃ w, exec (.atomc f) s = .next w ∧ onward w ∧ old w)
          ∧ (s.Issues (.red f) t i → clear n → ∃ w, exec (.red f) s = .next w ∧ onward w
            ∧ ∀ h r, (w.fibre i.cl i.slot h).reg r = (t.fibre i.cl i.slot h).reg r)
          ∧ (∀ h va pa, s.Issues (.red f) t i → clear n → i.on = [h] → (i.lane n h).tgt = .mem va →
            t.paOf i.cl i.team.space va 2 = some (pa, 0) → isSram pa = false →
            (t.cl i.cl).dirtyCells (fun a _ => a / 8 == pa / 8) = [] → (atD t.rdc (t.dieOf i.cl) []).length < 131072 →
            ∃ w, exec (.red f) s = .next w ∧ w.mem = t.mem ∧ w.partials
              = [⟨t.dieOf i.cl, pa, f.sc.toNat, BitVec.ofNat 64 (i.src 2 h).1, [i.team.space]⟩]))
    ∧ (∀ (t : State) (p : Partial), t.latent = [] → t.mem.wf = true →
        let n := if [1, 7, 8, 9, 10, 16, 17, 18, 20].contains p.op then 8 else 4
        let w := t.mergeOne p
        let v := memOp p.op (leVal (t.homeBytes p.pa n)) p.val.toNat
        (∀ a, t.partials = [p] → a / 256 = p.pa / 256 → t.lineWaits (256 * (a / 256)) = false →
            t.touch [a] = State.mergeOne { t with partials := [] } p)
          ∧ (t.poisoned p.pa = true → w.mem = t.mem)
          ∧ (t.poisoned p.pa = false →
            (∀ k, k < n → w.homeByte (p.pa + k) = BitVec.ofNat 8 (v / 2 ^ (8 * k)))
            ∧ ∀ a, a < p.pa ∨ p.pa + n ≤ a → w.homeByte a = t.homeByte a))
    ∧ (∀ (t : State) (c pa cls n : Nat) (tab : Bool) (g : Nat → Nat), t.partials = [] → t.latent = [] → t.errs = [] →
        (t.l1Lines c).length + n ≤ 768 → isLocal pa = true → cls = 1 →
        t.mem.wf = true → let r := t.atHome c pa cls n tab g
        let old := leVal (t.homeBytes pa n)
        (t.poisoned pa = true → r.1 = 0 ∧ r.2.1 = some (pa / 64 * 64, false) ∧ r.2.2.mem = t.mem)
          ∧ (t.poisoned pa = false → r.1 = old ∧ r.2.1 = none
            ∧ (∀ k, k < n → homeDie (pa + k) = homeDie pa →
                r.2.2.homeByte (pa + k) = BitVec.ofNat 8 (g old / 2 ^ (8 * k)))
            ∧ ∀ a, a < pa ∨ pa + n ≤ a → r.2.2.homeByte a = t.homeByte a))
    ∧ (∀ (a b : BitVec 32) (c d : BitVec 64),
        memOp 0 a.toNat b.toNat = (a + b).toNat ∧ memOp 1 c.toNat d.toNat = (c + d).toNat
          ∧ memOp 3 a.toNat b.toNat = (if b.slt a then b else a).toNat
          ∧ memOp 4 a.toNat b.toNat = (if a.slt b then b else a).toNat
          ∧ memOp 5 a.toNat b.toNat = (if b.ult a then b else a).toNat
          ∧ memOp 6 a.toNat b.toNat = (if a.ult b then b else a).toNat
          ∧ memOp 7 c.toNat d.toNat = (if d.slt c then d else c).toNat
          ∧ memOp 8 c.toNat d.toNat = (if c.slt d then d else c).toNat
          ∧ memOp 9 c.toNat d.toNat = (if d.ult c then d else c).toNat
          ∧ memOp 10 c.toNat d.toNat = (if c.ult d then d else c).toNat
          ∧ memOp 11 a.toNat b.toNat = (fp32.minmax 0 false false (fp32.decode a.toNat) (fp32.decode b.toNat)).1
          ∧ memOp 12 a.toNat b.toNat = (fp32.minmax 0 false true (fp32.decode a.toNat) (fp32.decode b.toNat)).1
          ∧ memOp 13 a.toNat b.toNat = (a &&& b).toNat ∧ memOp 14 a.toNat b.toNat = (a ||| b).toNat
          ∧ memOp 15 a.toNat b.toNat = (a ^^^ b).toNat ∧ memOp 16 c.toNat d.toNat = (c &&& d).toNat
          ∧ memOp 17 c.toNat d.toNat = (c ||| d).toNat ∧ memOp 18 c.toNat d.toNat = (c ^^^ d).toNat
          ∧ memOp 19 a.toNat b.toNat = b.toNat ∧ memOp 20 c.toNat d.toNat = d.toNat
          ∧ memOp 2 a.toNat b.toNat = (fp32.add 0 .rne (fp32.decode a.toNat) (fp32.decode b.toNat)).1)

/-- R155, R156, R316, R386 to R389, R423: PHASE.REL, PHASE.ACQ, PHASE.FULL and ICINV issue and leave their guarded fibres with
a phase pending, which its completion ends; with no guarded fibre nothing is pending. A form with a variable traps or waits as an
atomic's lanes do, else it leaves the operation pending with every guarded fibre's variable and, where it reads, the destination
empty; the variable's word then becomes the value, or the sum with it, in one act. PRIVALIAS gives the global address
of a private offset, poison of cause ACCESS where there is none. The model's choices in it: log entries 21 and 22. -/
def Obligations.PhaseInstructions : Prop := ∀ (s t : State) (i : Iss) (f : Fields),
  i.x.fs.Nodup → (∀ h ∈ i.x.fs, h < i.team.fibres.length) →
  let begun (w : State) (rel acq : Bool) : Prop :=
    (∀ h ∈ i.on, (w.fibre i.cl i.slot h).phase = true) ∧ (∀ h ∈ i.x.fs, (w.fibre i.cl i.slot h).pc = i.next)
      ∧ w.mem = t.mem ∧ (i.on = [] → (w.cl i.cl).phases = (t.cl i.cl).phases)
      ∧ (i.on ≠ [] → ∃ op, (w.cl i.cl).phases = (t.cl i.cl).phases ++ [op] ∧ op.slot = i.slot ∧ op.fibres = i.on
          ∧ op.rel = rel ∧ op.acq = acq)
  let onVar (ins : Instr) (opc : Nat) (rel acq read write : Bool) : Prop :=
    (∀ q u, t.checkLanes i 2 (i.on.map i.varLane) = (.trap q, u) → exec ins s = .next (u.takeTrap i.x (f.code opc) q))
      ∧ (∀ u, t.checkLanes i 2 (i.on.map i.varLane) = (.wait, u) → exec ins s = .next u)
      ∧ (∀ gs u, t.checkLanes i 2 (i.on.map i.varLane) = (.ok gs, u) → ∃ w : State, exec ins s = .next w ∧ w.mem = u.mem
        ∧ (∀ h ∈ i.on, (w.fibre i.cl i.slot h).phase = true) ∧ (∀ h ∈ i.x.fs, (w.fibre i.cl i.slot h).pc = i.next)
        ∧ (∀ h ∈ i.on, ∀ r ∈ i.regsAt 0 h, r < 255 → r < (u.fibre i.cl i.slot h).v.length →
            ((w.fibre i.cl i.slot h).reg r).full = false)
        ∧ (i.on = [] → (w.cl i.cl).phases = (u.cl i.cl).phases)
        ∧ (i.on ≠ [] → (w.cl i.cl).phases = (u.cl i.cl).phases ++ [⟨i.slot, i.on, rel, acq, gs.map fun g =>
            ⟨g.1.h, g.1.va, read, write, f.m 1, BitVec.ofNat 64 (i.src 2 g.1.h).1, f.dst.toNat⟩, [], [], i.x.pc⟩]))
  (s.Issues (.phaseRel f) t i → f.m 0 = false → ∃ w : State, exec (.phaseRel f) s = .next w ∧ begun w true false)
    ∧ (s.Issues (.phaseAcq f) t i → f.m 0 = false → ∃ w : State, exec (.phaseAcq f) s = .next w ∧ begun w false true)
    ∧ (s.Issues (.phaseFull f) t i → f.m 0 = false → ∃ w : State, exec (.phaseFull f) s = .next w ∧ begun w true true)
    ∧ (s.Issues (.icinv f) t i → (∀ h ∈ i.on, (i.fib h).phase = false) →
        ∃ w : State, exec (.icinv f) s = .next w ∧ begun w true false)
    ∧ (s.Issues (.phaseRel f) t i → f.m 0 = true → onVar (.phaseRel f) 0x243 true false false true)
    ∧ (s.Issues (.phaseAcq f) t i → f.m 0 = true → onVar (.phaseAcq f) 0x244 false true true false)
    ∧ (s.Issues (.phaseFull f) t i → f.m 0 = true → onVar (.phaseFull f) 0x245 true true true true)
    ∧ (∀ c slot pa cls (v : PhaseVar), cls ≠ 2 → v.write = true → t.varAt c slot pa cls v
        = t.atHome c pa cls 8 true fun old => if v.add then (old + v.value.toNat) % 2 ^ 64 else v.value.toNat)
    ∧ (∀ c slot pa (v : PhaseVar), v.write = false → t.partials = [] → t.latent = [] → t.errs = [] →
        (t.l1Lines c).length + 8 ≤ 768 → t.poisoned pa = false →
        (t.varAt c slot pa 1 v).1 = leVal (t.homeBytes pa 8) ∧ (t.varAt c slot pa 1 v).2.1 = none
          ∧ (t.varAt c slot pa 1 v).2.2.mem = t.mem)
    ∧ (∀ c k op, (t.cl c).phases[k]? = some op → t.phaseReady c op = true → op.vars = [] → op.sigs = [] →
        ∀ tm, t.team? c op.slot = some tm → ∀ h ∈ op.fibres, h < tm.fibres.length →
        ((t.phaseDone c k).fibre c op.slot h).phase = false)
    ∧ (s.Issues (.privalias f) t i → (∀ h ∈ i.on, (i.src 1 h).2 = none ∧ (i.src 1 h).1 + 1024 < i.team.privs.toNat) →
        exec (.privalias f) s = .next (t.gives i fun h => i.resV h
          ((i.team.privb.toNat + h * i.team.privs.toNat + (i.src 1 h).1) % 2 ^ 64) none 0))
    ∧ (s.Issues (.privalias f) t i → ∃ u : State, u.mem = t.mem ∧ ∃ r : Nat → Res,
        (∀ h ∈ i.on, (i.src 1 h).2 = none → i.team.privs.toNat ≤ (i.src 1 h).1 + 1024 → ∃ o, r h = i.resV h 0 (some o) 0)
        ∧ exec (.privalias f) s = .next (u.finish i (i.on.map r)))

/-! ### Group A, the caddy -/

/-- R251, R252, R257 to R262, R390 to R396: with no claim every caddy instruction but HCLAIM traps CADDY SUB 0 in the guarded
fibres; a 64-bit key or value operand that names an odd register, or 254, traps SUB 3; HDRN traps POISON for a poisoned cursor and
SUB 4 for one past the end. HCLAIM clears its table and its bytes are d; HFREE ends the claim; HCLR empties the table; HSTAT
counts it; the key operations run group by group, ascending leader, and HDRN scans, when no spill page waits; results arrive
later. The model's choices in it: log entry 46. -/
def Obligations.CaddyInstructions : Prop := ∀ (s t : State) (i : Iss) (f : Fields),
  let wrong (opc sub : Nat) : State := t.takeTrap i.x (f.code opc) ⟨0x0E, sub, i.on.map fun h => (h, 0), 0xFFFF⟩
  let none0 (opc : Nat) : State := wrong opc 0
  let pending (w : State) (h : Nat) (g : Give) (fl : Flags) : Prop :=
    ∃ p ∈ (w.cl i.cl).pend, p.kind = .caddy ∧ p.slot = i.slot ∧ p.fibre = h ∧ p.regs = g.flatMap (·.1)
      ∧ p.pay = .bits (g.flatMap fun x => regsOf x.2.1 x.1.length x.2.2) fl
  let pair (n : Nat) : Prop := n = 255 ∨ n % 2 = 0 ∧ n ≠ 254
  let even (vk vv : List Nat) : Prop := ∃ k, i.team.claim = some k
    ∧ (k.kw64 = true → ∀ n ∈ vk, pair n) ∧ (k.vw64 = true → ∀ n ∈ vv, pair n)
  let odd (vk vv : List Nat) : Prop := ∃ k, i.team.claim = some k
    ∧ (k.kw64 = true ∧ (∃ n ∈ vk, ¬ pair n) ∨ k.vw64 = true ∧ ∃ n ∈ vv, ¬ pair n)
  let key (opc : Nat) (ins : Instr) (vv : List Nat) (op : GroupOp) : Prop := s.Issues ins t i →
    (i.team.claim = none → i.on ≠ [] → exec ins s = .next (none0 opc))
      ∧ (odd [f.sa.toNat] vv → i.on ≠ [] → exec ins s = .next (wrong opc 3))
      ∧ (even [f.sa.toNat] vv → i.on = [] → exec ins s = .next (t.finish i []))
      ∧ (even [f.sa.toNat] vv → i.on ≠ [] → ∀ outs m x,
          i.groups.foldl (fun (a : List (Nat × CadOut × Option Half) × Memo × Cad) g =>
            ((a.1 ++ (a.2.2.runGroup i a.2.1 op g).1), (a.2.2.runGroup i a.2.1 op g).2)) ([], [], ⟨t.account i, [], none⟩)
            = (outs, m, x) → x.waits = [] →
          ∃ w : State, exec ins s = .next w ∧ ∀ o ∈ outs, pending w o.1
            [(i.regsAt 0 o.1, o.2.1.1, o.2.2), (i.regsAt 4 o.1, o.2.1.2.1, o.2.2)] (if o.2.2.isSome then 0 else o.2.1.2.2))
  (s.Issues (.hclaim f) t i → ∀ low, i.on.head? = some low → i.team.claim = none →
      (∀ op ∈ [1, 2, 3], (i.src op low).2 = none) →
      claimOk (i.src 1 low).1 (i.src 2 low).1 (i.src 3 low).1 i.team.caddy = true →
      ∃ (w : State) (tm : Team) (k : Claim), exec (.hclaim f) s = .next w ∧ w.team? i.cl i.slot = some tm
        ∧ tm.claim = some k ∧ k.b = (i.src 1 low).1 % 16 ∧ k.op = (i.src 1 low).1 / 64 % 16 ∧ k.a = 0
        ∧ k.sbase = (i.src 2 low).1 ∧ k.scap = (i.src 3 low).1
        ∧ (∀ c ∈ tm.scratch, c.1 < i.team.caddyBase ∨ i.team.caddyBase + k.bytes ≤ c.1)
        ∧ ∀ h ∈ i.on, pending w h [(i.regsAt 0 h, k.bytes, none)] 0)
    ∧ (s.Issues (.hclaim f) t i → i.on = [] → exec (.hclaim f) s = .next (t.finish i []))
    ∧ (s.Issues (.hfree f) t i → (i.team.claim = none → i.on ≠ [] → exec (.hfree f) s = .next (none0 0x281))
      ∧ (i.team.claim ≠ none → i.on ≠ [] → exec (.hfree f) s
          = .next ((t.finish i []).modTeam i.cl i.slot fun tm => { tm with claim := none })))
    ∧ (s.Issues (.hclr f) t i → (i.team.claim = none → i.on ≠ [] → exec (.hclr f) s = .next (none0 0x282))
      ∧ (∀ k, i.team.claim = some k → i.on ≠ [] → ∃ (w : State) (tm : Team), exec (.hclr f) s = .next w
          ∧ w.team? i.cl i.slot = some tm ∧ tm.claim = some { k with a := 0, slive := 0 }
          ∧ ∀ c ∈ tm.scratch, c.1 < i.team.caddyBase ∨ i.team.caddyBase + k.bytes ≤ c.1))
    ∧ (s.Issues (.hstat f) t i → (i.team.claim = none → i.on ≠ [] → exec (.hstat f) s = .next (none0 0x288))
      ∧ (∀ k, i.team.claim = some k → i.on ≠ [] → ∃ w : State, exec (.hstat f) s = .next w ∧ ∀ h ∈ i.on,
          let hs := (List.range (2 ^ k.b)).map (i.team.header k)
          let bits (lo : Nat) : Nat := (hs.map fun x => ((List.range 8).filter fun j => x / 2 ^ (lo + j) % 2 == 1).length).sum
          pending w h [(i.regsAt 0 h, bits 0 + bits 8 * 2 ^ 32 + (hs.filter fun x => x / 2 ^ 16 % 2 == 1).length * 2 ^ 64
            + k.slive * 2 ^ 96, none), (i.regsAt 4 h, k.a, none)] 0))
    ∧ key 0x283 (.hins f) [f.dst.toNat, f.sb.toNat] (hinsGroup i) ∧ key 0x284 (.hprb f) [f.dst.toNat] (hprbGroup i)
    ∧ key 0x285 (.hdel f) [f.dst.toNat] (hdelGroup i) ∧ key 0x286 (.hacc f) [f.dst.toNat, f.sb.toNat] (haccGroup i)
    ∧ (s.Issues (.hdrn f) t i → ∀ low, i.on.head? = some low →
        (∀ o, (i.src 1 low).2 = some o →
            exec (.hdrn f) s = .next (t.takeTrap i.x (f.code 0x287) ⟨0x07, 0, [(low, 0x100 + f.sa.toNat)], o⟩))
        ∧ ((i.src 1 low).2 = none → i.team.claim = none → exec (.hdrn f) s = .next (none0 0x287))
        ∧ ((i.src 1 low).2 = none → odd [f.dst.toNat] [f.ext.toNat / 256 % 256] → exec (.hdrn f) s = .next (wrong 0x287 3))
        ∧ ((i.src 1 low).2 = none → even [f.dst.toNat] [f.ext.toNat / 256 % 256] → ∀ k, i.team.claim = some k →
            (i.src 1 low).1 ≠ 0xFFFFFFFF → 2 ^ (k.b + 3) + k.a ≤ (i.src 1 low).1 →
            exec (.hdrn f) s = .next (wrong 0x287 4)))
    ∧ (s.Issues (.hdrn f) t i → (∀ h ∈ i.on, (i.src 1 h).2 = none) → even [f.dst.toNat] [f.ext.toNat / 256 % 256] →
        i.on ≠ [] → ∀ k, i.team.claim = some k → let c := (i.src 1 (i.on.headD 0)).1
        let qs := if c = 0xFFFFFFFF then [] else (List.range (2 ^ (k.b + 3) + k.a - c)).map (c + ·)
        c = 0xFFFFFFFF ∨ c < 2 ^ (k.b + 3) + k.a →
        ∀ (es : List Drained) (cur : Nat) (x : Cad), Cad.scan ⟨t.account i, [], none⟩ i i.on.length qs [] c = (es, cur, x) → x.waits = [] → x.fail = none →
        ∃ w : State, exec (.hdrn f) s = .next w ∧ ∀ (n h : Nat), i.on[n]? = some h →
          let e := (es[n]?).getD (0, 0, 8)
          pending w h [(i.regsAt 0 h, e.1, none), (drainVal k f, e.2.1, none), (i.regsAt 4 h, e.2.2, none),
            (i.regsAt 1 h, cur, none)] 0)

/-- R253, R254, R256: a key that is in neither of its buckets and for which one has a free slot is found afterwards in one
of them, with the value placed; the two buckets differ. -/
def Obligations.CaddyPlaceThenFind : Prop := ∀ (x y : Cad) (i : Iss) (k : Claim) (key val : Nat) (t : Team),
  x.s.team? i.cl i.slot = some t → t.claim = some k → Tab.wf (0 : Byte) t.scratch = true → 4 ≤ k.b → k.b ≤ 14 →
  key < 2 ^ (8 * k.kBytes) → val < 2 ^ (8 * k.vBytes) → t.findSlot k key = none →
  (k.hashes key).1 ≠ (k.hashes key).2 ∧ (k.hashes key).1 < 2 ^ k.b ∧ (k.hashes key).2 < 2 ^ k.b
    ∧ (x.place i key val = (2, y) → ∃ h s, (y.team i).findSlot k key = some (h, s)
        ∧ (h = (k.hashes key).1 ∨ h = (k.hashes key).2) ∧ (y.team i).slotVal k h s = val ∧ (y.team i).slotKey k h s = key)

/-! ### Groups B and C, the matrix unit, engines and timelines -/

/-- R239, R247, R399 to R402, R406, R410 to R415: MMA, ACCZ, ACCLD, ACCST, TCOPY and TFILL, when every guarded fibre's request
is in order and there is room: the requests enter in position order with consecutive numbers of their counter, and d is
the number. A request is in order when its tile is the team's and each operand that no poison stands in is in bounds and
aligned, or names a record of the format asked for. The first check that one fails traps, and with none failed a page that waits
holds them: a tile that is not the team's is BOUNDS SUB 1, a TLREF that names no counter the instruction may use ACCESS. TLSIG
leaves its signals to a release, TLWAIT that is met acquires and gives each fibre the value, poison of cause 0x20 where the
counter's error lies at or before n; a poisoned TLREF or n gives its poison and waits for nothing; one that is not met waits, and
TLQRY's answer arrives later. R235, R403: the element of a tile that an MMA leaves, where no poison is met: block after block of 32
in ascending K, the exact sum of the products added and rounded once, or for INT8 added modulo 2^32. The model's choices in it: log
entries 53, 55 and 56. -/
def Obligations.EnginesAndTimelines : Prop := (∀ (s t : State) (i : Iss) (f : Fields),
  i.x.fs.Nodup → (∀ h ∈ i.x.fs, h < i.team.fibres.length) →
  let onward (w : State) : Prop := ∀ h ∈ i.x.fs, (w.fibre i.cl i.slot h).pc = i.next
  let mat (ins : Instr) (ask : State → Nat → MatAsk × State) : Prop := s.Issues ins t i → i.x.co.part = none →
    ∀ asks u tm, i.on.foldl (fun (a : List (Nat × MatAsk) × State) h => (a.1 ++ [(h, (ask a.2 h).1)], (ask a.2 h).2)) ([], t)
      = (asks, u) → (∀ a ∈ asks, ∃ o, a.2 = .ok o) → u.team? i.cl i.slot = some tm →
      let key := i.cl / 40 * 4096 + 4000 + i.cl % 40 / 2
      let n := (u.timeline key).issued.toNat
      n + i.on.length < 2 ^ 64 → (tm.matq.filter fun o => !o.started).length + i.on.length ≤ 8 →
      ∃ (w : State) (tn : Team), exec ins s = .next w ∧ onward w ∧ w.team? i.cl i.slot = some tn
        ∧ (w.timeline key).issued.toNat = n + i.on.length ∧ tn.matq.length = tm.matq.length + i.on.length
        ∧ tn.matq.take tm.matq.length = tm.matq
        ∧ ∀ j h o, asks[j]? = some (h, .ok o) → ∃ p, tn.matq[tm.matq.length + j]? = some p
            ∧ p = { o with num := p.num } ∧ p.num.toNat = n + 1 + j
  let xfer (ins : Instr) (ask : State → Nat → XferAsk × State) : Prop := s.Issues ins t i → i.x.co.part = none →
    ∀ asks u, i.on.foldl (fun (a : List (Nat × XferAsk) × State) h => (a.1 ++ [(h, (ask a.2 h).1)], (ask a.2 h).2)) ([], t)
      = (asks, u) → (∀ a ∈ asks, ∃ o, a.2 = .ok o ∧ o.ref.toNat = f.imm.toNat % 2 ^ 16 ∧ o.cl = i.cl) →
      let key := f.imm.toNat % 2 ^ 16
      let n := (u.timeline key).issued.toNat
      key < 2 ^ 14 → key % 4096 < 4000 → n + i.on.length < 2 ^ 64 →
      (u.xfers.filter fun y => y.cl == i.cl).length + i.on.length ≤ 64 →
      ∃ w : State, exec ins s = .next w ∧ onward w ∧ (w.timeline key).issued.toNat = n + i.on.length
        ∧ w.xfers.take u.xfers.length = u.xfers ∧ w.xfers.length = u.xfers.length + i.on.length
        ∧ ∀ j h o, asks[j]? = some (h, .ok o) → ∃ p, w.xfers[u.xfers.length + j]? = some p
            ∧ p = { o with num := p.num } ∧ p.num.toNat = n + 1 + j
  let n0 (key : Nat) : Nat := (t.timeline key).issued.toNat
  let named (handle k fmt : Nat) : Prop := ∃ (a : Nat) (r : TRec), nextHandle handle k = some a ∧ r.fmt = fmt
    ∧ t.record (engineAgent (t.dieOf i.cl)) i.team.space i.team.priv a = (.ok r, t)
  let scr (off n : Nat) : Prop := i.team.scrBad off n = false ∧ off % 16 = 0
  let clean (rs : List VReg) : Prop := ∀ r ∈ rs, r.pois = false
  let tile (n : Nat) : Prop := n < i.team.acc
  let entered (ins : Instr) (kind : MatKind) (ready : Nat → Prop) : Prop := s.Issues ins t i → i.x.co.part = none →
    let key := i.cl / 40 * 4096 + 4000 + i.cl % 40 / 2
    (∀ h ∈ i.on, ready h) → n0 key + i.on.length < 2 ^ 64 → i.team.matWaiting + i.on.length ≤ 8 →
    ∃ (w : State) (tn : Team), exec ins s = .next w ∧ onward w ∧ w.team? i.cl i.slot = some tn
      ∧ (w.timeline key).issued.toNat = n0 key + i.on.length ∧ tn.matq.length = i.team.matq.length + i.on.length
      ∧ tn.matq.take i.team.matq.length = i.team.matq
      ∧ ∀ (j h : Nat), i.on[j]? = some h → ∃ p, tn.matq[i.team.matq.length + j]? = some p ∧ p.kind = kind ∧ p.fibre = h
        ∧ p.num.toNat = n0 key + 1 + j
  let sent (ins : Instr) (ready : Nat → Prop) : Prop := s.Issues ins t i → i.x.co.part = none →
    let key := f.imm.toNat % 2 ^ 16
    (∀ h ∈ i.on, ready h) → key < 2 ^ 14 → key % 4096 < 4000 → n0 key + i.on.length < 2 ^ 64 →
    (t.xfers.filter fun y => y.cl == i.cl).length + i.on.length ≤ 64 →
    ∃ w : State, exec ins s = .next w ∧ onward w ∧ (w.timeline key).issued.toNat = n0 key + i.on.length
      ∧ w.xfers.take t.xfers.length = t.xfers ∧ w.xfers.length = t.xfers.length + i.on.length
      ∧ ∀ j, j < i.on.length → ∃ p, w.xfers[t.xfers.length + j]? = some p ∧ p.cl = i.cl ∧ p.slot = i.slot
        ∧ p.ref.toNat = key ∧ p.num.toNat = n0 key + 1 + j
  let mmaReady (h : Nat) : Prop :=
    let (rf, kk, mx) := mmaFmt (f.md 0 3)
    let row := kk * fmtBits rf / 8
    let part (side rows v : Nat) (extra : List (Nat × Nat)) : Prop :=
      if f.m (3 + side) then scr v (rows * row + if mx then rows * (kk / 32) else 0) else ∀ x ∈ (0, rf) :: extra, named v x.1 x.2
    tile (f.ext.toNat % 4) ∧ (clean ([(i.fib h).reg f.sa.toNat, (i.fib h).reg f.sb.toNat]
        ++ (if f.m 3 && f.m 4 then [] else (List.range 3).map (i.regAt h f.sc.toNat))) →
      part 0 256 (i.src 1 h).1 ((if mx then [(1, 6)] else []) ++ (if f.md 0 3 = 5 then [(2, 13)] else []))
        ∧ part 1 128 (i.src 2 h).1 (if mx then [(1, 6)] else []))
  let accReady (h : Nat) : Prop := tile (f.ext.toNat % 4) ∧ (clean ((i.fib h).reg f.sa.toNat
      :: (if f.m 3 then [] else (List.range 2).map (i.regAt h f.sc.toNat))) →
    if f.m 3 then scr (i.src 1 h).1 (32768 * (mfFmt (f.md 0 3)).2) else named (i.src 1 h).1 0 (mfFmt (f.md 0 3)).1)
  let got (handle : Nat) (r : TRec) : Prop := t.record (engineAgent (t.dieOf i.cl)) i.team.space i.team.priv handle = (.ok r, t)
  let copyReady (h : Nat) : Prop := clean ([(i.fib h).reg f.sa.toNat, (i.fib h).reg f.sb.toNat]
      ++ (i.regsAt 3 h ++ i.regsAt 4 h).map (i.fib h).reg) →
    let d := (i.src 1 h).1
    let a := (i.src 2 h).1
    if f.m 0 then ∃ r, got a r ∧ scr d (shapeBytes r.tiles r.fmt)
    else if f.m 1 then ∃ r, got d r ∧ scr a (shapeBytes r.tiles r.fmt)
    else ∃ x y, got d x ∧ got a y ∧ x.dims.length = y.dims.length ∧ x.fmt = y.fmt
  let fillReady (h : Nat) : Prop := clean ((i.fib h).reg f.sa.toNat :: (i.regsAt 3 h).map (i.fib h).reg) →
    if f.m 0 then scr (i.src 1 h).1 (16 * (f.ext.toNat % 2 ^ 16 + 1)) else ∃ r, got (i.src 1 h).1 r
  let turned (ins : Instr) (opc key : Nat) (bad : Bool) (fold : State × List (Nat × Hit) × List (Nat × Bool)) : Prop :=
    s.Issues ins t i → i.x.co.part = none →
    let hits := fold.2.1 ++ (if bad then i.on else fold.1.unnumbered key i.on).map fun h => (h, (⟨15, 0x09, 0, key, 0xFFFF⟩ : Hit))
    (∀ q, trapOf hits = some q → exec ins s = .next (fold.1.takeTrap i.x (f.code opc) q))
      ∧ (hits = [] → fold.2.2 ≠ [] → exec ins s = .next (fold.2.2.foldl (fun v w =>
          if w.2 then v.postReplay 4 0xFFFF i.team.space w.1 else v) fold.1))
  let matFold (ask : State → Nat → MatAsk × State) : State × List (Nat × Hit) × List (Nat × Bool) :=
    i.on.foldl (fun a h => match ask a.1 h with
      | (.hit x, v) => (v, a.2.1 ++ [(h, x)], a.2.2)
      | (.wait va p, v) => (v, a.2.1, a.2.2 ++ [(va, p)])
      | (.ok _, v) => (v, a.2)) (t, [], [])
  let xferFold (ask : State → Nat → XferAsk × State) : State × List (Nat × Hit) × List (Nat × Bool) :=
    i.on.foldl (fun a h => match ask a.1 h with
      | (.hit x, v) => (v, a.2.1 ++ [(h, x)], a.2.2)
      | (.wait va p, v) => (v, a.2.1, a.2.2 ++ [(va, p)])
      | (.ok _, v) => (v, a.2)) (t, [], [])
  let mkey := i.cl / 40 * 4096 + 4000 + i.cl % 40 / 2
  let xkey := f.imm.toNat % 2 ^ 16
  let xbad := decide (2 ^ 14 ≤ xkey) || decide (4000 ≤ xkey % 4096)
  let noRef (ins : Instr) (opc : Nat) (fs : List Nat) : Prop := s.Issues ins t i → fs ≠ [] →
    exec ins s = .next (t.takeTrap i.x (f.code opc) ⟨0x09, 0, fs.map fun h => (h, i.tlref h), 0xFFFF⟩)
  entered (.mma f) .mma mmaReady ∧ entered (.accz f) .accz (fun _ => tile (f.md 0 2))
    ∧ entered (.accld f) .accld accReady ∧ entered (.accst f) .accst accReady
    ∧ sent (.tcopy f) copyReady ∧ sent (.tfill f) fillReady
    ∧ mat (.mma f) (fun s h => s.askMma i h) ∧ mat (.accz f) (fun s h => s.askAccz i h)
    ∧ mat (.accld f) (fun s h => s.askAcc i .accld false h) ∧ mat (.accst f) (fun s h => s.askAcc i .accst (f.m 4) h)
    ∧ xfer (.tcopy f) (fun s h => s.askCopy i h) ∧ xfer (.tfill f) (fun s h => s.askFill i h)
    ∧ turned (.mma f) 0x2C0 mkey false (matFold fun s h => s.askMma i h)
    ∧ turned (.accz f) 0x2C1 mkey false (matFold fun s h => s.askAccz i h)
    ∧ turned (.accld f) 0x2C2 mkey false (matFold fun s h => s.askAcc i .accld false h)
    ∧ turned (.accst f) 0x2C3 mkey false (matFold fun s h => s.askAcc i .accst (f.m 4) h)
    ∧ turned (.tcopy f) 0x300 xkey xbad (xferFold fun s h => s.askCopy i h)
    ∧ turned (.tfill f) 0x301 xkey xbad (xferFold fun s h => s.askFill i h)
    ∧ (s.Issues (.accz f) t i → i.x.co.part = none → i.on ≠ [] → i.team.acc ≤ f.md 0 2 → exec (.accz f) s = .next
        (t.takeTrap i.x (f.code 0x2C1) ⟨0x0F, 1, i.on.map fun h => (h, f.md 0 2), 0xFFFF⟩))
    ∧ noRef (.tlsig f) 0x302 (i.on.filter fun h => decide (2 ^ 14 ≤ i.tlref h) || decide (4000 ≤ i.tlref h % 4096))
    ∧ noRef (.tlwait f) 0x303 (i.on.filter fun h => (i.tlPois h).isNone && decide (2 ^ 14 ≤ i.tlref h))
    ∧ noRef (.tlqry f) 0x304 (i.on.filter fun h => (i.src 1 h).2.isNone && decide (2 ^ 14 ≤ i.tlref h))
    ∧ (s.Issues (.tlsig f) t i → (∀ h ∈ i.on, i.tlref h < 2 ^ 14 ∧ i.tlref h % 4096 < 4000) → i.on ≠ [] →
        ∃ (w : State) (op : PhaseOp), exec (.tlsig f) s = .next w ∧ onward w
          ∧ (∀ h ∈ i.on, (w.fibre i.cl i.slot h).phase = true) ∧ (w.cl i.cl).phases = (t.cl i.cl).phases ++ [op]
          ∧ op.rel = true ∧ op.sigs = i.on.map fun h =>
              ⟨h, BitVec.ofNat 16 (i.tlref h), BitVec.ofNat 64 (if f.len = .m then f.imm.toNat else (i.src 2 h).1), f.m 0⟩)
    ∧ (s.Issues (.tlwait f) t i → (∀ h ∈ i.on, i.tlPois h = none ∧ i.tlref h < 2 ^ 14 ∧ t.loading i h = false
          ∧ (i.tlval h).1 ≤ (t.timeline (i.tlref h)).value.toNat
          ∧ (i.tlval h).1 < (t.timeline (i.tlref h)).errv.toNat) →
        i.on ≠ [] → exec (.tlwait f) s = .next ((t.acquire i.cl).finish i (i.on.map fun h =>
          i.resV h (t.timeline (i.tlref h)).value.toNat none 0)))
    ∧ (s.Issues (.tlwait f) t i → (∀ h ∈ i.on, i.tlPois h = none → i.tlref h < 2 ^ 14) →
        (∃ h ∈ i.on, i.tlPois h = none ∧ (t.timeline (i.tlref h)).value.toNat < (i.tlval h).1) → exec (.tlwait f) s = .next t)
    ∧ (s.Issues (.tlwait f) t i → (∀ h ∈ i.on, i.tlPois h = none → i.tlref h < 2 ^ 14 ∧ t.loading i h = false
          ∧ (i.tlval h).1 ≤ (t.timeline (i.tlref h)).value.toNat) →
        ∃ (u : State) (r : Nat → Res), u.mem = t.mem ∧ u.tl = t.tl ∧ u.clusters = t.clusters
          ∧ exec (.tlwait f) s = .next (State.finish (if ∃ h ∈ i.on, i.tlPois h = none then u.acquire i.cl else u) i (i.on.map r))
          ∧ ∀ h ∈ i.on, (∀ o, i.tlPois h = some o → r h = i.resV h 0 (some o) 0)
            ∧ (i.tlPois h = none → (i.tlval h).1 < (t.timeline (i.tlref h)).errv.toNat →
                r h = i.resV h (t.timeline (i.tlref h)).value.toNat none 0)
            ∧ (i.tlPois h = none → (t.timeline (i.tlref h)).errv.toNat ≤ (i.tlval h).1 → ∃ o, r h = i.resV h 0 (some o) 0
                ∧ (i.on = [h] → t.origin i.cl 0x20 i.x.pc (i.tlref h) i.team.space i.slot h = (o, u))))
    ∧ (s.Issues (.tlqry f) t i → (∀ h ∈ i.on, (i.src 1 h).2 = none → i.tlref h < 2 ^ 14) →
        ∃ w : State, exec (.tlqry f) s = .next w ∧ onward w ∧ ∀ h ∈ i.on,
          (∃ p ∈ (w.cl i.cl).pend, p.kind = .arith ∧ p.slot = i.slot ∧ p.fibre = h ∧ p.regs = i.regsAt 0 h
            ∧ p.pay = match (i.src 1 h).2 with
              | none => .tlqry (BitVec.ofNat 16 (i.tlref h))
              | some o => .bits (regsOf 0 p.regs.length (some o)) 0)
          ∧ ∀ r ∈ i.regsAt 0 h, r < 255 → r < (t.fibre i.cl i.slot h).v.length →
              ((w.fibre i.cl i.slot h).reg r).full = false))
  ∧ ∀ (t : State) (cl : Nat) (tm : Team) (o : MatOp) (as bs : List MRow) (x y : Eng),
    let (_, kk, _) := mmaFmt o.fmt
    let block (l : List FV) (n : Nat) : List FV := (l.drop (32 * n)).take 32
    let product (p : FV × FV) : Option FV := if p.1.isNan || p.2.isNan then none else p.1.prod p.2
    let add (acc : Nat) (ps : List (Option FV)) : Nat := if none ∈ ps then 0x7FC00000
      else (fp32.sumOut 0 .rne (fp32.decode acc :: .fin false 0 0 :: ps.filterMap id)).1
    o.pois = none → o.lost = false → (t.mmaEng cl tm o).mmaRows o 0 = (as, x) → x.mmaRows o 1 = (bs, y) → y.wait = none →
    y.fail = false → (∀ m ∈ as ++ bs, m.body = none ∧ m.scale = none ∧ m.outl = none) →
    (o.z = false → ∀ w < 16384, tm.tilePois o.tile w = none) →
    ∃ (v : State) (c : Nat), t.doMma cl tm o = .done v c
      ∧ ((t.cl cl).matRunning = some (tm, o) → o.kind = .mma → t.matRetire cl = v.matRetired cl tm o false c)
      ∧ ∀ tn, v.team? cl tm.slot = some tn → ∀ i < 256, ∀ j < 128, ∀ a b, as[i]? = some a → bs[j]? = some b →
          let old := if o.z then 0 else tm.tileAt o.tile (128 * i + j)
          let new := tn.tileAt o.tile (128 * i + j)
          (o.fmt ≠ 6 → new = (List.range (kk / 32)).foldl (fun acc n =>
              add acc (((block a.vals n).zip (block b.vals n)).map product)) old)
            ∧ (o.fmt = 6 → BitVec.ofNat 32 new = BitVec.ofInt 32 (sext 32 old
                + ((a.bits.zip b.bits).map fun p => sext 8 p.1 * sext 8 p.2).sum))

/-- R405, R406, R408: number() gives the numbers in order; retire() lets VALUE reach what has no older number outstanding;
a signal never lowers VALUE; a failure records the lowest failing number in ERRV. -/
def Obligations.TimelineCounters : Prop := ∀ (t : State) (key : Nat) (v : DWord),
  let c := t.timeline key
  (c.issued ≠ BitVec.allOnes 64 → ∃ w, t.tlNumber key = some (c.issued + 1, w)
      ∧ (w.timeline key).issued = c.issued + 1 ∧ (w.timeline key).value = c.value
      ∧ (∀ n, n ∈ (w.timeline key).out ↔ n = (c.issued + 1).toNat ∨ n ∈ c.out)
      ∧ ∀ k, k ≠ key → w.timeline k = t.timeline k)
    ∧ (c.issued = BitVec.allOnes 64 → t.tlNumber key = none)
    ∧ (Tab.wf Timeline.reset t.tl = true → t.sigs = [] → (∀ m ∈ c.out, m < 2 ^ 64) →
        let d := (t.tlRetire key v).timeline key
        (∀ n, n ∈ d.out ↔ n ∈ c.out ∧ n ≠ v.toNat) ∧ c.value.toNat ≤ d.value.toNat ∧ d.issued = c.issued
          ∧ (d.out = [] → d.value.toNat = max c.value.toNat c.issued.toNat)
          ∧ (∀ m, d.out.head? = some m → d.value.toNat = max c.value.toNat (m - 1))
          ∧ ∀ k, k ≠ key → (t.tlRetire key v).timeline k = t.timeline k)
    ∧ (Tab.wf Timeline.reset t.tl = true → let d := (t.tlApply key v).timeline key
        d.value.toNat = max c.value.toNat v.toNat ∧ d.issued.toNat = max c.issued.toNat v.toNat ∧ d.errv = c.errv)
    ∧ (Tab.wf Timeline.reset t.tl = true →
        ((t.tlFail key v).timeline key).errv.toNat = min c.errv.toNat v.toNat
          ∧ ((t.tlFail key v).timeline key).value = c.value)

/-! ### Groups D and E, tasks, deadlines and the system -/

/-- R78, R90, R91, R417 to R419: TSPAWN once the fibres' release may be made and no TCB page waits; DLSTEP, DLEND and DLQRY; d
is the status. A step is declared in its old slot or the lowest free one, is met or missed at once, or is rejected; steps whose T
has passed are missed first. The model's choices in it: log entries 63, 91, 92 and 100. -/
def Obligations.TasksAndDeadlines : Prop :=
  (∀ (s t : State) (i : Iss) (f : Fields),
    (s.Issues (.tspawn f) t i → i.on ≠ [] → t.mayRelease i = true → (t.flush i.cl fun _ _ => true).spawnWaits i = [] →
        exec (.tspawn f) s = .next (
          let r := i.on.foldl (fun (a : List Res × State) h =>
            (a.1 ++ [i.resV h (a.2.spawnOne i h).1 none 0], (a.2.spawnOne i h).2)) ([], t.flush i.cl fun _ _ => true)
          r.2.finish i r.1))
      ∧ (s.Issues (.tspawn f) t i → ∀ h, i.on = [h] → t.loading i h = false → (t.fibre i.cl i.slot h).phase = false →
          (∀ n ∈ t.repl.applied, (t.fibre i.cl i.slot h).repl ≤ n ∧ (t.fibre i.cl i.slot h).saw ≤ n) → (t.cl i.cl).dirty = [] → let a := (i.src 1 h).1
          (i.x.isMc = true ∨ (t.space i.team.asid).live = false → exec (.tspawn f) s = .next (t.finish i [i.resV h 2 none 0]))
          ∧ (i.x.isMc = false → (t.space i.team.asid).live = true →
              (∀ u, t.feTcb i.team.asid a = (.bad, u) → exec (.tspawn f) s = .next (u.finish i [i.resV h 2 none 0]))
              ∧ ∀ va p u, t.feTcb i.team.asid a = (.wait va p, u) →
                  exec (.tspawn f) s = .next (if p then t.postReplay 4 0xFFFF i.team.asid va else t))
          ∧ ∀ (c : Tcb) (u : State), i.x.isMc = false → (t.space i.team.asid).live = true →
            t.feTcb i.team.asid a = (.ok c, u) →
            (launchable c = false → exec (.tspawn f) s = .next (u.finish i [i.resV h 2 none 0]))
            ∧ (launchable c = true → u.windowFree = 0 → exec (.tspawn f) s = .next (u.finish i [i.resV h 1 none 0]))
            ∧ (launchable c = true → u.windowFree ≠ 0 → ∃ w : State, exec (.tspawn f) s = .next (w.finish i [i.resV h 0 none 0])
              ∧ w.seqNext = u.seqNext + 1 ∧ ∃ x ∈ w.tasks, x.seq = u.seqNext ∧ x.asid = i.team.asid ∧ x.tcba = a ∧ x.tcb = c))
      ∧ (s.Issues (.tspawn f) t i → i.on = [] → exec (.tspawn f) s = .next (t.finish i []))
      ∧ (s.Issues (.dlstep f) t i → exec (.dlstep f) s = .next (
          let r := i.on.foldl (fun (a : List Res × State) h =>
            let d := a.2.declareStep true (BitVec.ofNat 32 (i.src 1 h).1) (BitVec.ofNat 16 f.imm.toNat)
              (BitVec.ofNat 64 (i.src 3 h).1) (BitVec.ofNat 64 (i.src 2 h).1) f.ext (a.2.taskQueue i) i.stepSpace
            (a.1 ++ [i.resV h d.1 none 0], d.2)) ([], t)
          r.2.finish i r.1))
      ∧ (s.Issues (.dlend f) t i → (∀ h, i.on = [h] → let u := t.lateSteps fun _ => true
          ∀ p, u.steps.find? (fun p => p.id.toNat == (i.src 1 h).1 && p.asid == i.stepSpace) = p →
          exec (.dlend f) s = .next (match p with
            | some p => State.finish { u with steps := u.steps.filter fun x => x.slot != p.slot } i [i.resV h 0 none 0]
            | none => u.finish i [i.resV h 1 none 0])) ∧ ∃ w : State, exec (.dlend f) s = .next w)
      ∧ (s.Issues (.dlqry f) t i → exec (.dlqry f) s = .next (t.gives i fun h =>
          i.resV h (match t.steps.find? fun p => p.id.toNat == (i.src 1 h).1 && p.asid == i.stepSpace with
            | some p => p.proj.toNat + (if p.risk then 2 else 1) * 2 ^ 64 + p.slot * 2 ^ 96
            | none => (2 ^ 64 - 1) + 0 * 2 ^ 64 + 0xFFFFFFFF * 2 ^ 96) (i.src 1 h).2 0)))
    ∧ ∀ (t : State) (strict : Bool) (id : Word) (ref : Half) (n d : DWord) (e : Word) (q a : Option Nat),
        let r := t.declareStep strict id ref n d e q a
        let v := (t.timeline ref.toNat).value
        let u := t.lateSteps fun _ => true
        ((t.steps.map (·.slot)).Nodup → ∀ p, p ∈ u.steps ↔ p ∈ t.steps ∧ t.ptime ≤ p.t.toNat)
          ∧ (id = 0 ∨ 0x4000 ≤ ref.toNat → r = (4, u))
          ∧ (strict = true → ∀ p, u.steps.find? (fun p => p.id == id) = some p → p.asid ≠ a → r = (4, u))
          ∧ (id ≠ 0 → ref.toNat < 0x4000 → ∀ o, u.steps.find? (fun p => p.id == id) = some o → (strict = true → o.asid = a) →
              v.toNat < n.toNat → t.ptime ≤ d.toNat → r.1 = 1 ∧ ∃ p, p.slot = o.slot ∧ p.id = id ∧ p.ref = ref ∧ p.n = n
                ∧ p.t = d ∧ p.e = e ∧ p.queue = q ∧ p.asid = a ∧ r.2.steps = u.steps.filter (fun x => x.slot != o.slot) ++ [p])
          ∧ (id ≠ 0 → ref.toNat < 0x4000 → (∀ p ∈ u.steps, p.id ≠ id) → (∃ k < 256, ∀ p ∈ u.steps, p.slot ≠ k) →
              (n.toNat ≤ v.toNat → r.1 = 2 ∧ ∀ p ∈ r.2.steps, p ∈ u.steps)
              ∧ (v.toNat < n.toNat → d.toNat < t.ptime → r.1 = 3)
              ∧ (v.toNat < n.toNat → t.ptime ≤ d.toNat → r.1 = 0 ∧ ∃ p, r.2.steps = u.steps ++ [p] ∧ p.id = id
                  ∧ p.ref = ref ∧ p.n = n ∧ p.t = d ∧ p.e = e ∧ p.queue = q ∧ p.asid = a ∧ p.proj = BitVec.allOnes 64
                  ∧ p.risk = false ∧ (∀ o ∈ u.steps, p.slot ≠ o.slot)
                  ∧ ∀ k < p.slot, ∃ o ∈ u.steps, o.slot = k))

/-- R177, R225, R226, R315, R420 to R426: the system instructions: NOP and FENCEI go on, FENCEI without an effect but that the
management core's translations are forgotten, so that its new root is in force; SRD reads and SWR writes a team's, a fibre's or
the core's register, a team's from the next cycle; TRAP takes SOFT; TABORT faults the task with the handled cause; PCLR clears
poison in trap mode; BKPT holds the cohort where DBG_BK is on; WFI leaves the core waiting; PERFRD reads a counter. The model's
choices in it: log entries 47, 50, 64 and 131. -/
def Obligations.SystemInstructions : Prop := ∀ (s t : State) (i : Iss) (f : Fields),
  let rd (h : Nat) : Nat := match f.sa.toNat with
    | 0 => i.team.fpmode.toNat
    | 1 => i.team.fpstat.toNat
    | 2 => i.team.fib + (if i.team.w64 then 2 ^ 14 else 0) + (if i.team.fixed then 2 ^ 15 else 0)
        + (if i.team.strictx then 2 ^ 16 else 0) + i.team.fto.toNat * 2 ^ 17 + i.team.split.toNat * 2 ^ 23 + i.team.hls * 2 ^ 29
    | 3 => i.team.privb.toNat
    | 4 => i.team.privs.toNat
    | 5 => (i.fib h).gen.toNat
    | 0x80 => t.core.root.toNat
    | n => match (i.fib h).trec with
      | some r => (r.words[n - 8]?).getD 0
      | none => 0
  let bk := clOff i.cl + 0x188
  (s.Issues (.nop f) t i → exec (.nop f) s = .next (t.finish i []))
    ∧ (s.Issues (.fencei f) t i → i.x.isMc = false ∨ i.on = [] → exec (.fencei f) s = .next (t.finish i []))
    ∧ (s.Issues (.fencei f) t i → i.x.isMc = true → i.on ≠ [] → exec (.fencei f) s = .next (State.finish
        { t with tlb := t.tlb.filter fun e => e.asid != 1024 } i []))
    ∧ (s.Issues (.srd f) t i → exec (.srd f) s = .next (t.gives i fun h => i.resV h (rd h) none 0))
    ∧ (s.Issues (.swr f) t i → ∃ w : State, exec (.swr f) s = .next (w.finish i []) ∧ w.mem = t.mem ∧ w.regs = t.regs
      ∧ ∀ h, i.on = [h] → let v := (i.src 2 h).1
        (f.sa.toNat = 5 → w = t.modFibre i.cl i.slot h fun y =>
            { y with gen := if v % 2 ^ 32 = 0 then 1 else BitVec.ofNat 32 v })
        ∧ (f.sa.toNat = 0x80 → w.core.root.toNat = v / 2 ^ 12 % 2 ^ 40 * 2 ^ 12 ∧ w.clusters = t.clusters)
        ∧ (f.sa.toNat < 5 → w = t.modTeam i.cl i.slot fun m => { m with
            sysw := m.sysw ++ [((t.cl i.cl).cycle, i.x.co.slice, f.sa.toNat, BitVec.ofNat 64 v)] }))
    ∧ (∀ (m : Team) (c d j n : Nat) (v : DWord), m.sysw = [(c, j, n, v)] →
        (d ≤ c → m.sysSettle (some d) = m)
        ∧ (c < d → let tm := m.sysSettle (some d)
          tm.sysw = [] ∧ tm.fibres = m.fibres
          ∧ (n = 0 → tm = { m with sysw := [], fpmode := tm.fpmode }
              ∧ ∀ j, j < 32 → j ≠ 8 → j ≠ 9 → tm.fpmode.getLsbD j = (decide (j < 11) && v.getLsbD j))
          ∧ (n = 1 → tm = { m with sysw := [], fpstat := tm.fpstat }
              ∧ ∀ j, j < 32 → tm.fpstat.getLsbD j = (m.fpstat.getLsbD j
                && !(decide (j < 7) && v.getLsbD j && !(decide (m.fpset.1 = c) && m.fpset.2.getLsbD j))))
          ∧ (n = 2 → tm = { m with
              sysw := []
              strictx := v.getLsbD 16
              fto := BitVec.ofNat 6 (v.toNat / 2 ^ 17)
              split := BitVec.ofNat 4 (v.toNat / 2 ^ 23) })
          ∧ (n = 3 → m.spilled = false → v.toNat % 256 = 0 → v.toNat < 2 ^ 48 → tm = { m with sysw := [], privb := v })
          ∧ (n = 4 → m.spilled = false → v.toNat = 0 ∨ v.toNat % 1024 = 0 ∧ 2048 ≤ v.toNat ∧ v.toNat ≤ 2 ^ 24 →
              tm = { m with sysw := [], privs := v.setWidth 32 })))
    ∧ (s.Issues (.trap f) t i → (i.on = [] → exec (.trap f) s = .next (t.finish i []))
      ∧ (i.on ≠ [] → exec (.trap f) s
          = .next (t.takeTrap i.x (f.code 0x383) ⟨0x0C, 0, i.on.map fun h => (h, 0), 0xFFFF⟩)))
    ∧ (s.Issues (.tabort f) t i → (i.on = [] → exec (.tabort f) s = .next (t.finish i []))
      ∧ (i.on ≠ [] → i.x.isMc = true → exec (.tabort f) s = .next t.takeover)
      ∧ (i.on ≠ [] → i.x.isMc = false → exec (.tabort f) s = .next (t.faultTask i.team.seq
          (match i.on.findSome? fun h => (i.fib h).trec with | some r => r.cause.toNat | none => 0x0C) i.team.index)))
    ∧ (s.Issues (.pclr f) t i → ∃ r : Nat → Res, exec (.pclr f) s = .next (t.gives i r)
      ∧ ∀ h ∈ i.on, (r h).h = h ∧ (r h).flags = 0 ∧ (r h).gen = none
        ∧ (((i.fib h).tm = false ∧ i.x.isMc = false) → (r h).dsts = [])
        ∧ (((i.fib h).tm = true ∨ i.x.isMc = true) → (f.m 0 = false → (r h).dsts
            = (i.regsAt 0 h).map fun n => .v n { (i.fib h).reg n with pois := false })
          ∧ (f.m 0 = true → (r h).dsts = if f.dst.toNat % 8 = 7 then []
            else [.p (f.dst.toNat % 8) ⟨((i.fib h).pred (f.dst.toNat % 8)).val, none⟩])))
    ∧ (s.Issues (.bkpt f) t i → (i.x.isMc = true ∨ i.on = [] ∨ (t.reg bk).getLsbD 0 = false ∨ i.x.co.hold = .resumed →
          ∃ w : State, exec (.bkpt f) s = .next (w.finish i [])
            ∧ w = t.modCohort i.cl i.x.co.id fun k => { k with hold := .none })
      ∧ (i.x.isMc = false → i.on ≠ [] → (t.reg bk).getLsbD 0 = true → i.x.co.hold ≠ .resumed → regsWf t.regs = true →
          ∃ w : State, exec (.bkpt f) s = .next w ∧ w.mem = t.mem
            ∧ (∀ k, w.cohort? i.cl i.x.co.id = some k → k.hold = .bkpt) ∧ (w.reg bk).getLsbD 1 = true
            ∧ ((t.reg bk).getLsbD 1 = false → w.reg bk = BitVec.ofNat 64
                ((t.reg bk).toNat % 4 + 2 + i.slot * 2 ^ 11 + i.x.pc.toNat * 2 ^ 16))))
    ∧ (s.Issues (.wfi f) t i → (i.on = [] → exec (.wfi f) s = .next (t.finish i []))
      ∧ (i.on ≠ [] → exec (.wfi f) s = .next (State.finish { t with core := { t.core with wfi := true } } i [])))
    ∧ (s.Issues (.perfrd f) t i → exec (.perfrd f) s = .next (t.gives i fun h => i.resV h
        (if i.x.isMc then 0 else t.regView (clOff i.cl + if f.sa.toNat = 16 then 0x160
          else if f.sa.toNat < 8 then 0x140 + 4 * f.sa.toNat else 0x100 + 4 * (f.sa.toNat - 8))) none 0))

/-! ### The front end -/

/-- R36 to R40, R44, R62, R65, R81, R90, R144, R405 to R408: the packet at the head of the queue served now. Its type decides
what is entered; it is accepted, and one that is complete at once reports so. A packet that fails a check halts its queue.
A pending fence, signal, wait or class change completes on its own condition. INFO0 of CTRL_IGNORED is the address the packet names
(log entry 107). The model's choices in it: log entries 67, 68, 69, 70, 71, 92, 107, 118 and 119. -/
def Obligations.PacketEvents : Prop := ∀ (z : State) (q : Nat),
  let s := z.ringScan q
  let k := s.queue q
  let report (w : State) (p : Packet) : State := w.reportDone q p.hdr []
  (∀ p, (s.look q).1 = .go p → s.serveNext = some q →
    (p.ty = 0x01 → exec (.packetNop q) z = .next (report (s.accept q p none) p))
      ∧ (p.ty = 0x02 → exec (.packetSkip q) z = .next (report (s.accept q p none) p))
      ∧ (p.ty = 0x03 → exec (.fence q) z = .next (s.accept q p (some .fence)))
      ∧ (p.ty = 0x12 → ∀ x, s.ctrlTarget k.asid (p.at' 8 8) = some x →
          (p.at' 16 1 = 1 → exec (.taskCtrlResume q) z
              = .next (((s.accept q p none).ctrlResume x).drainPkts.reportDone q p.hdr [x.seq]))
          ∧ (p.at' 16 1 = 2 → exec (.taskCtrlRelease q) z
              = .next ((s.accept q p (some (.tasks [x.seq]))).ctrlRelease x).drainPkts)
          ∧ (p.at' 16 1 = 3 → exec (.taskCtrlCancelChain q) z
              = .next (((s.accept q p none).ctrlCancel x).drainPkts.reportDone q p.hdr [x.seq])))
      ∧ (p.ty = 0x12 → s.ctrlTarget k.asid (p.at' 8 8) = none →
          let w := report ((s.accept q p none).postEvent (some q) 1 0x12 (p.at' 8 8) 0 true) p
          (p.at' 16 1 = 1 → exec (.taskCtrlResume q) z = .next w) ∧ (p.at' 16 1 = 2 → exec (.taskCtrlRelease q) z = .next w)
          ∧ (p.at' 16 1 = 3 → exec (.taskCtrlCancelChain q) z = .next w))
      ∧ (p.ty = 0x20 → exec (.copy q) z = .next (
          let r := s.acceptCopy k.asid k.prio k.bulk q k.head
            ⟨p.at' 8 8, p.at' 16 8, p.at' 24 8, BitVec.ofNat 64 (p.at' 32 8), BitVec.ofNat 16 (p.at' 40 2)⟩
          r.2.accept q p (some (.tasks [r.1]))))
      ∧ (p.ty = 0x21 → exec (.tlSignal q) z = .next
          (s.accept q p (some (.signal (BitVec.ofNat 16 (p.at' 16 2)) (BitVec.ofNat 64 (p.at' 8 8))))))
      ∧ (p.ty = 0x22 → exec (.tlWait q) z = .next
          (s.accept q p (some (.wait (BitVec.ofNat 16 (p.at' 16 2)) (BitVec.ofNat 64 (p.at' 8 8))))))
      ∧ (p.ty = 0x30 → exec (.stepDeclare q) z = .next (
          let r := (s.accept q p none).declareStep false (BitVec.ofNat 32 (p.at' 32 4)) (BitVec.ofNat 16 (p.at' 24 2))
            (BitVec.ofNat 64 (p.at' 16 8)) (BitVec.ofNat 64 (p.at' 8 8)) (BitVec.ofNat 32 (p.at' 28 4)) (some q)
            (some ((s.accept q p none).queue q).asid)
          report (if r.1 = 4 then r.2.postEvent (some q) 2 0x13 (p.at' 32 4 + p.at' 24 2 * 2 ^ 32) 0 true else r.2) p))
      ∧ (p.ty = 0x40 → exec (.memAttr q) z = .next ((s.accept q p (some (.memattr s.pktNext))).attrStart
          ⟨s.pktNext, k.asid, p.at' 8 8, p.at' 16 4, p.at' 20 1, false⟩)))
    ∧ (∀ p as ts t, s.look q = (.launch p as ts, t) → s.serveNext = some q →
        let r := t.acceptTasks k.asid as ts (some q) k.head
        let w := (r.2.accept q p (some (.tasks r.1))).drainPkts
        (p.ty = 0x10 → exec (.launchTask q) z = .next w) ∧ (p.ty = 0x11 → exec (.graphSubmit q) z = .next w))
    ∧ (∀ p bad bb, s.packetAt q = some (p, bad, bb) → s.orderHeld q p = false → p.fault k bad = none →
        (s.space k.asid).live = true → s.serveNext = some q → Tab.wf Queue.reset z.queues = true →
        let a := p.at' 8 8
        let n := p.at' 16 4
        let entered (ins : Instr) (as : List Nat) : Prop := ∃ w : State, exec ins z = .next w
          ∧ (w.queue q).head = k.head + BitVec.ofNat 32 p.len
          ∧ ∀ (j b : Nat), as[j]? = some b → ∃ x ∈ w.tasks, x.seq = s.seqNext + j ∧ x.asid = k.asid ∧ x.tcba = b ∧ x.queue = some q
        (∀ u c, p.ty = 0x10 → s.windowFree ≠ 0 → (p.len = 3 → bb = false ∧ a % 128 = 0 ∧ a < 2 ^ 48
            ∧ ∃ pa cls, (s.fePut k.asid a ((p.bytes.drop 64).take 128)).1 = .ok pa cls) →
            (if p.len = 3 then (s.fePut k.asid a ((p.bytes.drop 64).take 128)).2 else s).feTcb k.asid a = (.ok c, u) →
            launchable c = true → entered (.launchTask q) [a])
          ∧ ∀ u v bs ts, p.ty = 0x11 → n ≤ s.windowFree → s.feRead k.asid a (8 * n) = (.ok bs, v) →
            let as := (List.range n).map fun i => leVal ((bs.drop (8 * i)).take 8)
            v.feTcbs k.asid as = (.ok ts, u) → graphOk as ts = true → entered (.graphSubmit q) as)
    ∧ (∀ p c t, s.look q = (.halt c p, t) → s.serveNext = some q →
        (p.ty = 0x01 → exec (.packetNop q) z = .next (t.halt q c p))
          ∧ (p.ty = 0x10 → exec (.launchTask q) z = .next (t.halt q c p))
          ∧ (p.ty = 0x11 → exec (.graphSubmit q) z = .next (t.halt q c p))
          ∧ (p.ty = 0x40 → exec (.memAttr q) z = .next (t.halt q c p)))
    ∧ (∀ p, z.pending q (fun p => p.wait == .fence && z.oldest p) = some p → z.spaceHeld p.asid = false →
        exec (.fenceComplete q) z = .next ((z.releaseSpace p.asid).pktDone p))
    ∧ (let failed (ref : Half) : Bool := (z.timeline ref.toNat).failed
        let met (p : Pkt) : Bool := match p.wait with
          | .wait ref v => failed ref || decide (v.toNat ≤ (z.timeline ref.toNat).value.toNat)
          | _ => false
        (z.pending q met = none → exec (.tlWaitComplete q) z = .next z)
          ∧ ∀ p ref v, z.pending q met = some p → p.wait = .wait ref v →
            (failed ref = false → exec (.tlWaitComplete q) z = .next (z.pktDone p))
            ∧ (failed ref = true → exec (.tlWaitComplete q) z
              = .next ((z.postEvent (some q) 0 0x14 p.hdr.toNat (z.queue q).head.toNat true).pktDone p)))
    ∧ (∀ p ref v, z.pending q (fun p => match p.wait with
          | .signal ref v => z.oldest p && !z.tlBlocked ref.toNat v && !z.sigs.any fun x => x.1 == ref.toNat && x.2.2 == [q]
          | _ => false) = some p → p.wait = .signal ref v → exec (.tlSignalFire q) z
        = .next ((if ref.toNat % 4096 ≥ 4000 then z else (z.tlApply ref.toNat v).tlDrain).pktDone p))
    ∧ (∀ p, z.pending q (fun p => z.attrOver p.wait) = some p → exec (.memAttrComplete q) z = .next (z.pktDone p))

/-- R30 to R36, R39, R45: acceptance moves the head by LEN and enters what the packet waits for; a failed packet halts the queue
with its code and the head stays; the order of the checks. A tail in range is taken, one out of range sets DBERR; QCTL starts a
queue from its descriptor, unless the descriptor's line waits, stops it, or resets it. Other queues keep what they hold. The
model's choices in it: log entries 72, 74, 75, 76, 118, 119, 120 and 124. -/
def Obligations.QueueControl : Prop := ∀ (s : State), Tab.wf Queue.reset s.queues = true →
  (∀ q p wait, let w := s.accept q p wait
    (w.queue q).head = (s.queue q).head + BitVec.ofNat 32 p.len ∧ (w.queue q).tail = (s.queue q).tail
      ∧ w.rrQueue = modAt s.rrQueue (8 * (if (s.queue q).bulk then 1 else 0) + (s.queue q).prio) (fun _ => q) ∧ w.pktNext = s.pktNext + 1 ∧ w.tasks = s.tasks ∧ w.regs = s.regs ∧ (∀ r, r ≠ q → w.queue r = s.queue r)
      ∧ w.pkts = s.pkts ++ (match wait with
        | some a => [⟨s.pktNext, q, (s.queue q).epoch, p.hdr, (s.queue q).head, (s.queue q).asid, a⟩]
        | none => []))
    ∧ (∀ q c p, let w := s.halt q c p
        (w.queue q).state = .halted ∧ (w.queue q).err = BitVec.ofNat 8 c ∧ (w.queue q).head = (s.queue q).head
          ∧ w.pkts = s.pkts ∧ w.tasks = s.tasks ∧ w.packetAt q = none ∧ (∀ r, r ≠ q → w.queue r = s.queue r))
    ∧ (∀ (p : Packet) (k : Queue) bad, (p.len = 0 → p.fault k bad = some 3)
        ∧ (p.len ≠ 0 → k.units < k.head.toNat % k.units + p.len → p.fault k bad = some 1)
        ∧ (p.len ≠ 0 → k.head.toNat % k.units + p.len ≤ k.units → p.ty ∉ packetTypes → p.fault k bad = some 2)
        ∧ (p.len ≠ 0 → k.head.toNat % k.units + p.len ≤ k.units → p.ty ∈ packetTypes →
            (p.fault k bad = some 3 ↔ 2 ^ 24 ≤ p.hdr.toNat ∨ 8 ≤ p.flags ∨ p.bodyOk = false ∨ bad = true)
              ∧ (p.fault k bad = none ∨ p.fault k bad = some 3)))
    ∧ (∀ d q n v, s.doorQueue d q = some n → (s.queue n).boundTo d = true →
        (s.queue n).state = .running ∨ (s.queue n).state = .waiting →
        ∃ w : State, exec (.qtail d q v) s = .next w ∧ (w.queue n).head = (s.queue n).head
          ∧ (∀ r, r ≠ n → w.queue r = s.queue r)
          ∧ ((v - (s.queue n).head).toNat ≤ (s.queue n).units → (w.queue n).tail = v ∧ (w.queue n).dberr = (s.queue n).dberr)
          ∧ ((s.queue n).units < (v - (s.queue n).head).toNat → (w.queue n).tail = (s.queue n).tail ∧ (w.queue n).dberr = true))
    ∧ (∀ d q v, (∀ n, s.doorQueue d q = some n → (s.queue n).boundTo d = false) → exec (.qtail d q v) s = .next s)
    ∧ (∀ d q n, s.doorQueue d q = some n →
        ((s.queue n).enable = false → (s.queue n).state = .halted → exec (.qctlEnable d q) s
            = .next (s.modQueue n fun k => { k with enable := true }))
        ∧ ((s.queue n).enable = false → (s.queue n).state ≠ .halted → s.lineWaits (s.regFld 0x100 12 40 * 4096 + 64 * n) = true →
            exec (.qctlEnable d q) s = .next (s.modQueue n fun k => { k with enable := true }))
        ∧ ((s.queue n).enable = false → (s.queue n).state ≠ .halted → s.lineWaits (s.regFld 0x100 12 40 * 4096 + 64 * n) = false →
            ∃ w : State, exec (.qctlEnable d q) s = .next w ∧ (w.queue n).enable = true ∧ (w.queue n).head = 0 ∧ (w.queue n).tail = 0 ∧ (w.queue n).epoch = (s.queue n).epoch
            ∧ ((w.queue n).state = .running ∧ (w.queue n).err = 0 ∨ (w.queue n).state = .halted ∧ (w.queue n).err = 6)
            ∧ (∀ r, r ≠ n → w.queue r = s.queue r))
        ∧ ((s.queue n).enable = true → ∃ w : State, exec (.qctlDisable d q) s = .next w ∧ w.pkts = s.pkts
            ∧ w.queue n = { s.queue n with
                enable := false, state := if (s.queue n).state = .halted then .halted else .disabled } ∧ (∀ r, r ≠ n → w.queue r = s.queue r))
        ∧ ∀ e, ∃ w : State, exec (.qctlReset d q e) s = .next w ∧ (w.queue n).enable = e ∧ (w.queue n).head = 0
            ∧ (w.queue n).tail = 0 ∧ (w.queue n).dberr = false ∧ (w.queue n).epoch = (s.queue n).epoch + 1
            ∧ (e = false → (w.queue n).state = .disabled) ∧ (∀ r, r ≠ n → w.queue r = s.queue r)
            ∧ ∀ x ∈ w.pkts, x ∈ s.pkts ∧ ∀ a b, x.q = n → x.wait ≠ .wait a b)
    ∧ (∀ (d : DoorFn) n, (s.queue n).enable = true →
        (match d with
          | .pf0 => (s.queue n).fn = false
          | .pf1 => (s.queue n).fn = true
          | .vf m => (s.queue n).fn = false ∧ (s.queue n).vf = m) →
        ∃ w : State, exec (.functionLevelReset d) s = .next w ∧ (w.queue n).head = 0 ∧ (w.queue n).tail = 0
          ∧ (w.queue n).epoch = (s.queue n).epoch + 1 ∧ (w.queue n).enable = true)

/-! ### Tasks, placement and contexts -/

/-- R40, R62 to R64, R68 to R71, R73 to R77, R249, R270 to R278: a task whose teams are gone is DONE and leaves the window; a
COND runs one set and skips the other; a LOOP takes its next turn; a COPY moves its bytes, every source byte before any
destination byte, and is complete once its signal is not held back; a failed condition word faults the node. A team is placed with
its first fibres live at CODE and holding their arguments, its resources are freed once nothing it issued is left, its tiles
keeping what they hold, it is halted, saved and restored. The model's choices in it: log entries 59, 60, 61, 62, 66, 78, 79, 80,
81, 82, 83, 85, 117, 134 and 135. -/
def Obligations.TaskAndTeamEvents : Prop := ∀ (s u : State),
  (∀ seq t, s.task? seq = some t → t.tcb.kind = .task → t.state = .running → t.tcb.teams ≤ t.placed → s.teamsOf seq = [] →
      (∀ v ∈ s.saved, v.team.seq ≠ seq) → (∀ x ∈ s.xfers, x.seq ≠ seq) → t.fault = none → s.spaceHeld t.asid = false →
      exec (.taskDone seq) s = .next ((s.releaseSpace t.asid).complete seq .done t.next)
        ∧ (t.body = none → ((s.releaseSpace t.asid).complete seq .done t.next).task? seq = none))
    ∧ (∀ seq t v, s.task? seq = some t → t.tcb.kind = .cond → t.state = .ready → s.condRead t.asid t.tcb.conda = (.ok v, u) →
        exec (.condEvaluate seq) s = .next (((if v ≠ 0 then t.list2 else t.succ).foldl State.skip
          ((if v ≠ 0 then t.succ else t.list2).foldl State.arm (u.enterState seq .running))).complete seq .done []))
    ∧ (∀ seq t c, s.task? seq = some t → t.tcb.kind = .cond → t.state = .ready → s.condRead t.asid t.tcb.conda = (.fault c, u) →
        exec (.condEvaluate seq) s = .next ((u.enterState seq .running).faultNow seq c 0))
    ∧ (∀ seq t v, s.task? seq = some t → t.tcb.kind = .loop → t.state = .ready ∨ t.state = .running →
        (t.armed = true → ∀ b ∈ s.tasks, b.body = some seq → b.state.complete = true) →
        s.condRead t.asid t.tcb.conda = (.ok v, u) → exec (.loopIteration seq) s = .next (u.loopTurn t v)
          ∧ (v = 0 ∨ t.iter = t.tcb.limit → u.loopTurn t v
            = (if t.state = .ready then u.enterState t.seq .running else u).complete t.seq .done t.succ))
    ∧ (∀ seq t j, s.task? seq = some t → t.copy = some j → t.state = .ready →
        let x := (List.range j.len).foldl (fun x k => x.copyByte j k) (Eng.make s 0 64 t.asid (0, 0, 0))
        x.wait = none → exec (.copyComplete seq) s
          = .next (let q := t.queue.getD 0
              if x.fail then (if s.copyOrder seq q j then s else x.commit.copyFail seq t.asid q j) else x.commit.copyDone seq q j))
    ∧ (∀ seq t j, s.task? seq = some t → t.copy = some j → t.state = .running → exec (.copyComplete seq) s
        = .next (if s.copyHeld seq (t.queue.getD 0) j then s else s.copyDone seq (t.queue.getD 0) j))
    ∧ (∀ seq t j, s.task? seq = some t → t.copy = some j → t.state = .ready → s.regFld 0x980 0 5 = 0 →
        (let reached (va kind : Nat) : Prop := va < 2 ^ 48 ∧ s.Warm (engineAgent (s.dieOf 0)) t.asid va
            ∧ ∃ pa cls, s.paOf (engineAgent (s.dieOf 0)) t.asid va kind = some (pa, cls) ∧ isRegs pa = false
          ∀ k, k < j.len → reached (j.src + k) 4 ∧ reached (j.dst + k) 5) →
        ∃ w : State, exec (.copyComplete seq) s = .next (w.copyDone seq (t.queue.getD 0) j) ∧ w.tasks = s.tasks)
    ∧ (∀ latency cl t n hls bases, cl < 160 → cl < u.clusters.length → s.firstReady (!latency) = some t →
        s.nextNeed t = (n, none) → s.placeAt (!latency) cl n none = some (hls, bases) →
        s.padCheck cl t.asid t.tcb.code.toNat 2 t.tcb.etag.toNat = (.pass, u) →
        ∃ w : State, exec (.teamPlacement latency cl) s = .next w ∧ w.placeNo = u.placeNo + 1
          ∧ (w.cl cl).teams = (u.cl cl).teams ++ [newTeam t (u.cl cl).freeSlot hls bases
              (u.interAt cl t.asid t.tcb.code.toNat) (u.cl cl).cycle u.placeNo]
          ∧ ∀ c, c ≠ cl → (w.cl c).teams = (u.cl c).teams)
    ∧ (∀ (t : Task) slot hls bases inter entered place f, f < t.tcb.fib → 3 ≤ t.tcb.regs →
        let m := newTeam t slot hls bases inter entered place
        let y := m.fibre f
        (y.live = decide (f < t.tcb.initf)) ∧ y.gen = seedOf t.placed f ∧ m.seq = t.seq ∧ m.index = t.placed ∧ m.asid = t.asid
          ∧ (f < t.tcb.initf → y.pc = t.tcb.code ∧ y.sets = 1 ∧ y.tm = false ∧ y.reg 0 = VReg.of (BitVec.ofNat 32 t.tcb.frame)
            ∧ y.reg 1 = VReg.of (BitVec.ofNat 32 (t.tcb.frame / 2 ^ 32 % 2 ^ 16)) ∧ y.reg 2 = VReg.of (BitVec.ofNat 32 t.placed)
            ∧ ∀ n, 3 ≤ n → y.reg n = VReg.of 0))
    ∧ (∀ cl slot t, s.team? cl slot = some t → t.ended = true → t.mc = false → t.matq = [] →
        t.matLast.toNat ≤ (s.timeline (cl / 40 * 4096 + 4000 + cl % 40 / 2)).value.toNat →
        (∀ p ∈ (s.cl cl).phases, p.slot ≠ slot) → (∀ p ∈ (s.cl cl).pend, p.kind = .pref ∨ p.slot ≠ slot) →
        (∀ h ∈ (s.cl cl).cohorts, h.team ≠ slot) → (∀ x ∈ s.xfers, x.cl = cl → x.slot = slot → x.dead = true) →
        ∃ w : State, exec (.teamResourceRelease cl slot) s = .next w ∧ w.team? cl slot = none
          ∧ (w.cl cl).accOld = (s.cl cl).accOld ++ t.oldTiles
          ∧ (∀ c n, c ≠ cl ∨ n ≠ slot → w.team? c n = s.team? c n) ∧ w.mem = s.mem)
    ∧ (∀ cl slots, (∀ l, s.preemptAt ≠ some (cl, l)) → exec (.preemptRequest cl slots) s = .next s)
    ∧ (∀ cl slot l t, s.preemptAt = some (cl, slot :: l) → s.team? cl slot = some t → t.mc = false → t.ended = false →
        t.halted = false →
        0 < s.slotsFree (cl / 40) → ∃ w : State, exec (.preemptRequest cl [slot]) s = .next w
          ∧ w.team? cl slot = some { t with halted := true } ∧ (∀ c n, c ≠ cl ∨ n ≠ slot → w.team? c n = s.team? c n))
    ∧ (∀ cl slot t, cl < 160 → s.team? cl slot = some t → s.saveReady cl t = true →
        ∃ (w : State) (v : SavedTeam), exec (.contextSave cl slot) s = .next w ∧ w.team? cl slot = none
          ∧ w.saved = s.saved ++ [v] ∧ v.die = cl / 40 ∧ v.slot = s.freePoolSlot (cl / 40) ∧ v.leader = cl
          ∧ v.team.seq = t.seq ∧ v.team.index = t.index ∧ v.team.halted = false ∧ (v.accSaved = true ↔ t.acc = 0))
    ∧ (∀ k cl v t n hls bases bs, cl < 160 → cl < u.clusters.length → s.saved[k]? = some v →
        s.slotHeld (s.slotBase v.die v.slot) = false →
        s.firstReady v.team.bulk = some t → s.nextNeed t = (n, some v) → v.accSaved = true ∨ v.leader = cl →
        s.placeAt v.team.bulk cl n (some v) = some (hls, bases) → s.fetch cl v.team.asid v.team.code.toNat 8 = (.ok bs, u) →
        ∃ w : State, exec (.teamRestore k cl) s = .next w ∧ w.saved = u.saved.eraseIdx k
          ∧ ∃ x ∈ (w.cl cl).teams, x.seq = v.team.seq ∧ x.index = v.team.index ∧ x.hls = hls ∧ x.halted = false)
    ∧ (∀ k v, s.saved[k]? = some v → v.accSaved = false → s.tilesWanted v = true → ∃ w : State, exec (.accTileSave k) s = .next w
        ∧ w.saved = s.saved.map fun x => if x = v then { v with accSaved := true } else x)

/-! ### Cohorts, arriving results and units -/

/-- R106, R127, R131, R142, R180 to R184, R207, R239, R247, R277, R359, R360, R375, R388, R391, R411, R415: the former makes a
cohort of pooled fibres with one PC; a threshold, a sleep or a yield ends; a result fills its registers, a prefetch its sector; the
matrix port starts and retires an operation; a transfer retires or aborts; a line leaves an L1 with its dirty bytes written
home, or an RDC with its partials merged. The model's choices in it: log entries 48, 49, 57, 86, 110 and 135. -/
def Obligations.ClusterEvents : Prop := ∀ (s u : State) (cl : Nat), cl < s.clusters.length →
  (∀ t g j, (s.cl cl).formed ≠ some (s.cl cl).cycle → (s.cl cl).teams = [t] → formable (s.cl cl) t = true → t.fixed = false → chooseGroup (s.cl cl) t = some g →
      sliceFor (s.cl cl) t.mc [] t (g.take t) = some j →
      (∃ (w : State) (h : Cohort), exec (.cohortFormation cl) s = .next w ∧ (w.cl cl).cohorts = (s.cl cl).cohorts ++ [h]
        ∧ h.team = t.slot ∧ h.slice = j ∧ h.fibres = g.take t ∧ h.aligned = g.aligned ∧ h.fset = formationSet t (g.take t)
        ∧ h.dist = 0 ∧ h.late = [] ∧ w.mem = s.mem ∧ (w.cl cl).teams = [t])
      ∧ (g.take t).length ≤ t.width ∧ ∀ f ∈ g.take t, f ∈ poolOf (s.cl cl) t ∧ (t.fibre f).pc.toNat = g.pc)
    ∧ (∀ id x since thr l, s.ctxOf cl id = some x → x.co.blocked = some (since, thr, l) → x.co.part = none →
        since + 2 ^ (thr + 4) < (s.cl cl).cycle →
        let empty (f : Nat) : List Nat := (l.filter fun p => p.1 == f && !((x.fib f).reg p.2).full).map (·.2)
        (∃ f ∈ x.fs, empty f ≠ []) → ∃ w : State, exec (.splitThresholdExpiry cl id) s = .next w
          ∧ (x.co.fixed = none → w.cohort? cl id = none)
          ∧ ∀ f ∈ x.fs, f < x.team.fibres.length → (w.fibre cl x.co.team f).pc = (x.fib f).pc
            ∧ (w.fibre cl x.co.team f).wait = (if empty f = [] then .none else .d6 (empty f)))
    ∧ (∀ id h t, s.cohort? cl id = some h → h.hold = .sleep t → ∃ w : State, exec (.sleepWake cl id) s = .next w
        ∧ w.cohort? cl id = some (if t ≤ s.ptime then { h with hold := .none } else h))
    ∧ (∀ id h t, s.cohort? cl id = some h → h.hold = .yielded t → 16 ≤ s.pipeSince cl h.slice t →
        exec (.yieldRelease cl id) s = .next (s.modCohort cl id fun k => { k with hold := .none }))
    ∧ (∀ k p va n sg pa cls bs found v, (s.cl cl).pend[k]? = some p → p.kind = .load ∨ p.kind = .replay →
        p.pay = .load va n sg → s.heldMiss cl k = false → replayBehind (s.cl cl).pend k va = false →
        s.xlate cl (s.pendSpace cl p) va 0 = (.ok pa cls, u) →
        (if cls = 3 then u.sendsFirst cl p.slot p.fibre (s.pendSpace cl p) ((u.cl cl).pend.take k) = false
          else u.sectorLoads cl (s.pendSpace cl p) va (cls == 1) = [(p, va, n, sg)]) →
        (if cls = 0 ∨ cls = 2 then u.demand cl ((pa / 64 * 64 + va % 64) / 64) else u).readMem cl (pa / 64 * 64 + va % 64) cls n
          = (bs, none, found, v) →
        let r := if cls = 2 then v.replSeen cl p.slot p.fibre else v
        exec (.loadDataArrival cl k) s = .next (((r.fillPend cl p (regsOf (loadVal sg bs) p.regs.length none) 0).takePend cl
          fun q => p == q).wakeFull cl p.slot))
    ∧ (∀ k p va asid gen pa repl, (s.cl cl).pend[k]? = some p → p.kind = .pref → p.pay = .pref va asid gen pa repl →
        s.heldMiss cl k = false → gen = s.gen asid → ∃ w : State, exec (.loadDataArrival cl k) s = .next w
          ∧ (s.lineWaits pa = false → ((w.cl cl).sector? (pa / 64)).isSome = true))
    ∧ (∀ k p vs fl, (s.cl cl).pend[k]? = some p → (p.pay = .bits vs fl ∨ fl = 0 ∧ ∃ va n sg, p.pay = .old va n sg vs) →
        let w := (((s.modCl cl fun x => { x with pend := x.pend.eraseIdx k }).fillPend cl p vs fl).wakeFull cl p.slot)
        (p.kind = .load ∨ p.kind = .replay → exec (.loadDataArrival cl k) s = .next w)
          ∧ (p.kind = .arith → exec (.variableResultArrival cl k) s = .next w)
          ∧ (p.kind = .caddy → exec (.caddyResultArrival cl k) s = .next w))
    ∧ (∀ k p ref, (s.cl cl).pend[k]? = some p → p.kind = .arith → p.pay = .tlqry ref →
        exec (.variableResultArrival cl k) s = .next (((s.modCl cl fun x => { x with pend := x.pend.eraseIdx k }).fillPend cl p
          (regsOf ((s.timeline ref.toNat).value.toNat + (s.timeline ref.toNat).errv.toNat * 2 ^ 64) p.regs.length none)
          0).wakeFull cl p.slot))
    ∧ (∀ (p : Pend) vs fl m n v, s.team? cl p.slot = some m → p.fibre < m.fibres.length → p.regs = [n] → vs = [v] → n < 255 →
        n < (m.fibre p.fibre).v.length → let w := s.fillPend cl p vs fl
        (w.fibre cl p.slot p.fibre).reg n = v
          ∧ ∀ r, r ≠ n → (w.fibre cl p.slot p.fibre).reg r = (m.fibre p.fibre).reg r)
    ∧ (∀ k op, (s.cl cl).phases[k]? = some op →
        exec (.phaseCompletion cl k) s = .next ((s.phaseDone cl k).wakeFull cl op.slot))
    ∧ (∀ t o, cl < 160 → s.matPick cl = some (t, o) → exec (.matrixOpStart cl) s = .next (s.modTeam cl t.slot fun t =>
        { t with matq := t.matq.map fun x => if x.num = o.num then { x with started := true } else x }))
    ∧ (∀ t o, cl < 160 → (s.cl cl).matRunning = some (t, o) →
        let r := match o.kind with
          | .mma => s.doMma cl t o
          | .accz => s.doAccz cl t o
          | .accld => s.doAccld cl t o
          | .accst => s.doAccst cl t o
        (∀ c, r = .done u c → exec (.matrixOpRetire cl) s = .next (u.matRetired cl t o false c))
          ∧ (∀ c, r = .failed u c → exec (.matrixOpRetire cl) s = .next (u.matRetired cl t o true c))
          ∧ (∀ k va, r = .wait k va false → exec (.matrixOpRetire cl) s = .next s)
          ∧ (o.kind = .accz → exec (.matrixOpRetire cl) s
              = .next ((s.modTeam cl t.slot fun t => t.setTile o.tile []).matRetired cl t o false 0)))
    ∧ (∀ k t, s.xfers[k]? = some t →
        (t.dead = true → exec (.transferRetire k) s = .next (s.xferEnd k t true) ∧ exec (.transferAbort k) s = .next s)
          ∧ (t.dead = false → (s.xferRun t).wait = none → (s.xferRun t).fail = false →
            exec (.transferRetire k) s = .next ((s.xferRun t).commit.xferEnd k t false)
              ∧ exec (.transferAbort k) s = .next s)
          ∧ (t.dead = false → (s.xferRun t).wait = none → (s.xferRun t).fail = true →
            exec (.transferAbort k) s = .next ((s.xferRun t).commit.xferEnd k t true) ∧ exec (.transferRetire k) s = .next s))
    ∧ (∀ line, cl ≤ 160 → s.mem.wf = true → Tab.wf none (s.cl cl).dirty = true →
        (∀ a b, a / 256 = line → Tab.get none (s.cl cl).dirty a = some b → s.heldBack a = false) → ∃ w : State, exec (.l1Eviction cl line) s = .next w
        ∧ (∀ a, a / 256 = line → Tab.get none (w.cl cl).dirty a = none)
        ∧ (∀ a, a / 256 ≠ line → Tab.get none (w.cl cl).dirty a = Tab.get none (s.cl cl).dirty a)
        ∧ (∀ x ∈ (w.cl cl).clean, x.no / 4 ≠ line)
        ∧ ∀ a b, a / 256 = line → Tab.get none (s.cl cl).dirty a = some b → w.homeByte a = b.byte)
    ∧ (∀ die line, die < s.rdc.length → die < 4 → s.lineWaits (256 * line) = false →
        ∃ w : State, exec (.l1Eviction (161 + die) line) s = .next w ∧ (∀ x ∈ atD w.rdc die [], x.no / 4 ≠ line)
          ∧ ∀ p ∈ w.partials, p.die = die → p.pa / 256 ≠ line)

/-! ### Register writes -/

/-- R5, R6, R20, R45, R50, R51, R54, R56, R99, R107, R117, R120, R200, R407, R424, R459: the writes of the register space that
start something. A global barrier's setup clears its counts; a counter is set only when no number is outstanding and never
when hardware alone writes it; ASCMD answers in its own register and is ignored while BUSY; a migration's GO is refused or marks
its pages and begins a bump; the ROM verifies again; a record enters the error log; a heartbeat begins a period. A missed step
does not meet a later write. The model's choices in it: log entries 11, 24, 91, 111 and 112. -/
def Obligations.RegisterWrites : Prop := ∀ (s : State), regsWf s.regs = true →
  (∀ n ev v, 1 ≤ n → n ≤ 31 → let off := 0x1600 + 16 * n + 8 * b2n ev
      let bad := if ev then 1024 < fld v.toNat 0 10 + fld v.toNat 10 11 else 256 < fld v.toNat 0 8 + fld v.toNat 8 8
      (bad → exec (.vfAssignWrite n ev v) s = .next s)
        ∧ (¬ bad → ∃ w : State, exec (.vfAssignWrite n ev v) s = .next w
          ∧ (Config.vfEnable s.free = true → w = s)
          ∧ (Config.vfEnable s.free = false → (ev = false → (w.reg off).toNat % 2 ^ 16 = v.toNat % 2 ^ 16)
            ∧ (ev = true → (w.reg off).toNat % 2 ^ 21 = v.toNat % 2 ^ 21) ∧ ∀ o, o ≠ off → w.reg o = s.reg o)))
    ∧ (∀ b v, b < 256 → Tab.wf GBar.reset s.gbars = true → ∃ w : State, exec (.gbCtlWrite b 0 8 v) s = .next w
        ∧ w.gbar b = ⟨fld v.toNat 48 10, (s.gbar b).phase, 0, v.setWidth 16, [0, 0, 0, 0], [0, 0, 0, 0], (s.gbar b).dphase⟩
        ∧ (∀ a, a ≠ b → w.gbar a = s.gbar a) ∧ ∀ c, ∀ t ∈ (w.cl c).teams, ∀ x ∈ t.gbar, x.1 ≠ b)
    ∧ (∀ die k v, die < 4 → k < 4096 → Tab.wf Timeline.reset s.tl = true → let key := 4096 * die + k
        let t := s.timeline key
        ((t.out ≠ [] ∨ 4000 ≤ k) → exec (.tlValueWrite die k v) s = .next s)
          ∧ (t.out = [] → k < 4000 → ∃ w : State, exec (.tlValueWrite die k v) s = .next w
            ∧ w.timeline key = { t with value := v, issued := v } ∧ (∀ a, a ≠ key → w.timeline a = s.timeline a)
            ∧ ∀ p ∈ w.steps, p ∈ s.steps ∧ (p.ref.toNat = key → v.toNat < p.n.toNat ∧ s.ptime ≤ p.t.toNat))
          ∧ ∃ w : State, exec (.tlErrvWrite die k v) s = .next w ∧ w.timeline key = { t with errv := BitVec.allOnes 64 }
            ∧ ∀ a, a ≠ key → w.timeline a = s.timeline a)
    ∧ (∀ cl v, cl < 160 → cl < s.clusters.length → let n := v.toNat % 16
        ∃ w : State, exec (.clThrottleWrite cl v) s = .next w
          ∧ w.regFld (clOff cl + 0x20) 0 4 = (if n ≤ 12 then n else s.regFld (clOff cl + 0x20) 0 4)
          ∧ ∃ c, (w.cl cl).skipTo = some (w.regFld (clOff cl + 0x20) 0 4, c))
    ∧ (∀ asid : BitVec 10, s.asBusy = true → exec (.ascmdQuery asid) s = .next s ∧ exec (.ascmdActivate asid) s = .next s
        ∧ exec (.ascmdBump asid) s = .next s ∧ exec (.ascmdRetire asid) s = .next s)
    ∧ (∀ asid : BitVec 10, s.asBusy = false → Tab.wf Space.reset s.spaces = true → let x := s.space asid.toNat
        let answer (w : State) (op err busy : Nat) (g : Half) : Prop :=
          (w.reg 0x908).toNat = asid.toNat + op * 2 ^ 10 + g.toNat * 2 ^ 12 + err * 2 ^ 28 + busy * 2 ^ 31
            ∧ ∀ a, a ≠ asid.toNat → w.space a = s.space a
        (∃ w : State, exec (.ascmdQuery asid) s = .next w ∧ answer w 0 (if x.live then 0 else 1) 0 x.gen
            ∧ w.space asid.toNat = x)
          ∧ (∃ w : State, exec (.ascmdActivate asid) s = .next w
            ∧ (x.live = true → answer w 1 2 0 x.gen ∧ w.space asid.toNat = x)
            ∧ (x.live = false → s.lineWaits (s.asAt asid.toNat) = true → answer w 1 0 1 x.gen ∧ w.space asid.toNat = x)
            ∧ (x.live = false → s.lineWaits (s.asAt asid.toNat) = false → s.latent = [] → s.partials = [] →
                s.asEntry asid.toNat = none → answer w 1 3 0 x.gen ∧ w.space asid.toNat = x)
            ∧ (x.live = false → s.lineWaits (s.asAt asid.toNat) = false → s.latent = [] → s.partials = [] →
                ∀ r h a b, s.asEntry asid.toNat = some (r, h, a, b) →
                answer w 1 0 0 0 ∧ w.space asid.toNat = ⟨true, 0, r, h, a, b, false⟩))
          ∧ (∃ w : State, exec (.ascmdBump asid) s = .next w
            ∧ (x.live = false → answer w 2 1 0 x.gen ∧ w.space asid.toNat = x)
            ∧ (x.live = true → s.lineWaits (s.asAt asid.toNat) = true → answer w 2 0 1 x.gen ∧ w.space asid.toNat = x)
            ∧ (x.live = true → s.lineWaits (s.asAt asid.toNat) = false → s.latent = [] → s.partials = [] →
                s.asEntry asid.toNat = none → answer w 2 3 0 x.gen ∧ w.space asid.toNat = x)
            ∧ (x.live = true → s.lineWaits (s.asAt asid.toNat) = false → s.latent = [] → s.partials = [] →
                (∀ b ∈ s.bumps, b.1 ≠ asid.toNat) → ∀ r h a b, s.asEntry asid.toNat = some (r, h, a, b) →
                answer w 2 0 1 (x.gen + 1) ∧ w.bumps = s.bumps ++ [(asid.toNat, .ascmd)]
                ∧ w.space asid.toNat = ⟨true, x.gen + 1, r, h, a, b, x.retiring⟩))
          ∧ (∃ w : State, exec (.ascmdRetire asid) s = .next w
            ∧ (x.live = false → answer w 3 1 0 x.gen ∧ w.space asid.toNat = x)
            ∧ (x.live = true → answer w 3 0 1 x.gen ∧ w.space asid.toNat = { x with live := false, retiring := true })))
    ∧ (∀ v, s.notices = [] → ∃ w : State, exec (.rplDone v) s = .next w
        ∧ w.replays = s.replays.filter fun p => p != (fld v.toNat 48 10, fld v.toNat 12 36))
    ∧ (∀ v : Word, let n := v.toNat / 2 % 512 + 1
        let asid := s.regFld 0x940 48 10
        let vpn := s.regFld 0x940 12 36
        let frame := s.regFld 0x948 12 40 * 4096
        let leaf (i : Nat) : Option (Nat × Nat × Nat) := s.leafAt asid (4096 * (vpn + i))
        let free (i : Nat) : Prop := ∃ pa e, leaf i = some (12, pa, e) ∧ bitOf e 10 = false
        let ended (w : State) (err : Nat) : Prop := w.mig = none ∧ w.bumps = s.bumps ∧ w.regFld 0x950 28 4 = 4 + err
          ∧ w.msi = s.msi ++ [(false, v.toNat / 2 ^ 14 % 2 ^ 11)]
        let held := s.leavesWait asid (4096 * vpn) n
        (v.getLsbD 0 = false ∨ (s.reg 0x950).getLsbD 31 = true → ∃ w : State, exec (.migGo v) s = .next w ∧ w.mig = s.mig
            ∧ w.bumps = s.bumps ∧ w.msi = s.msi)
          ∧ (v.getLsbD 0 = true → (s.reg 0x950).getLsbD 31 = false → s.mig = none → ∃ w : State, exec (.migGo v) s = .next w
            ∧ ((s.space asid).live = false → ended w 3)
            ∧ ((s.space asid).live = true → held = true → w.mig = some ⟨asid, vpn, frame, n, false, false⟩ ∧ w.bumps = s.bumps)
            ∧ ((s.space asid).live = true → held = false → (∃ i, i < n ∧ ¬ free i) → ended w 1)
            ∧ ((s.space asid).live = true → held = false → (∀ i, i < n → free i) →
                (∃ i, i < n ∧ isLocal (frame + 4096 * i) = false) → ended w 2)
            ∧ ((s.space asid).live = true → held = false → (∀ i, i < n → free i ∧ isLocal (frame + 4096 * i) = true) →
                w.mig = some ⟨asid, vpn, frame, n, true, false⟩ ∧ w.bumps = s.bumps ++ [(asid, .migration)]
                  ∧ (w.reg 0x950).getLsbD 31 = true
                  ∧ (n = 1 → s.mem.wf = true → s.partials = [] → ∀ pa e, leaf 0 = some (12, pa, e) → s.lineWaits pa = false →
                    leVal (w.homeBytes pa 8) = e + 2 ^ 10))))
    ∧ (∀ v : Word, ∃ w : State, exec (.bootctlGo v) s = .next w
        ∧ (v.getLsbD 0 = false ∨ s.boot.waits = false → w.boot = s.boot ∧ w.regFld 0x228 16 16 = s.regFld 0x228 16 16)
        ∧ (v.getLsbD 0 = true → s.boot.waits = true → s.latent = [] → s.partials = [] → w.regFld 0x228 16 16 = 3
          ∧ w.boot = { s.boot with
            stage := 3, recov := true, waits := false
            cand := s.homeBytes 0 (min (64 + leVal ((s.homeBytes 0 64).drop 12 |>.take 4) + 384 + 29792) 0x4000000) }))
    ∧ (∀ v : Word, let buf := s.regFld 0x728 15 37 * 32768
        (v.getLsbD 0 = true → s.boot.att = none → isLocal buf = true → ∃ w : State, exec (.attgo v) s = .next w ∧ w.regs = s.regs
          ∧ ∃ nonce, w.boot.att = some (buf, nonce) ∧ nonce.length = 32)
        ∧ (v.getLsbD 0 = false ∨ s.boot.att ≠ none ∨ isLocal buf = false →
          ∃ w : State, exec (.attgo v) s = .next w ∧ w.boot = s.boot))
    ∧ (∀ v : Word, ∃ w : State, exec (.mcHbeat v) s = .next w ∧ w.core = { s.core with beat := s.ptime }
        ∧ (w.reg 0x220).toNat % 2 ^ 32 = v.toNat)
    ∧ (∀ v : DWord, let base := s.regFld 0x400 12 40 * 4096
        let c := 2 ^ (s.regFld 0x400 0 4 + 7)
        let t := (s.reg 0x408).toNat
        let full := (t + 2 ^ 32 - (s.reg 0x410).toNat % 2 ^ 32) % 2 ^ 32 = c
        ∃ w : State, exec (.errlogW3 v) s = .next w ∧ w.reg 0x438 = v
          ∧ (full ∨ isLocal base = false → w.reg 0x408 = s.reg 0x408 ∧ w.mem = s.mem
            ∧ (w.reg 0x418).toNat = min ((s.reg 0x418).toNat + 1) (2 ^ 32 - 1))
          ∧ (¬ full → isLocal base = true → w.reg 0x418 = s.reg 0x418 ∧ (w.reg 0x408).toNat = (t + 1) % 2 ^ 32
            ∧ (s.mem.wf = true → ∀ i b, ([s.ptime, (s.reg 0x428).toNat, (s.reg 0x430).toNat, v.toNat].map (leBytes 8)).flatten[i]? = some b →
                s.lineWaits (base + t % c * 32 + i) = false → w.homeByte (base + t % c * 32 + i) = b)))
    ∧ (∀ cl v, cl < 160 → v.getLsbD 2 = true → ∃ w : State, exec (.dbgBkResume cl v) s = .next w
        ∧ (∀ id h, s.cohort? cl id = some h → w.cohort? cl id = some (if h.hold = .bkpt then { h with hold := .resumed } else h))
        ∧ (w.reg (clOff cl + 0x188)).getLsbD 2 = false ∧ (w.reg (clOff cl + 0x188)).getLsbD 0 = v.getLsbD 0
        ∧ (w.reg (clOff cl + 0x188)).getLsbD 1 = ((s.reg (clOff cl + 0x188)).getLsbD 1 && !v.getLsbD 1))
    ∧ (s.linkUp false = true → ∀ v : DWord, (∃ w : State, exec (.registerWrite ⟨.bar2 .pf0, 0x208⟩ 4 v) s = .next w
          ∧ (∀ j, 1 ≤ j → j ≤ 6 → (w.reg 0x208).getLsbD j = v.getLsbD j) ∧ ∀ o, o ≠ 0x208 → w.reg o = s.reg o)
        ∧ (∃ w : State, exec (.registerWrite ⟨.bar2 .pf0, 0x200⟩ 4 v) s = .next w
          ∧ (∀ j, 1 ≤ j → j ≤ 6 → (w.reg 0x200).getLsbD j = ((s.reg 0x200).getLsbD j && !v.getLsbD j)))
        ∧ ((∃ x ∈ s.saved, x.die = 0) → exec (.registerWrite ⟨.bar2 .pf0, 0x1800⟩ 8 v) s = .next s)
        ∧ (∀ q, q < 16384 → Tab.wf Queue.reset s.queues = true → ∃ w : State,
          exec (.registerWrite ⟨.bar0 .pf0, 64 * q + 8⟩ 4 v) s = .next w ∧ (∀ r, r ≠ q → w.queue r = s.queue r)
            ∧ w.queue q = { s.queue q with dberr := (s.queue q).dberr && !v.getLsbD 2 })
        ∧ ∀ n e, 1 ≤ n → n ≤ 31 → e < 4096 →
          (s.vfRing n e = none → exec (.registerWrite ⟨.bar2 (.vf n), 16 * e⟩ 4 v) s = .next s)
          ∧ ∀ r, s.vfRing n e = some r → exec (.registerWrite ⟨.bar2 (.vf n), 16 * e⟩ 4 v) s
            = .next (s.regStore (0x100000 + 16 * r) 4 (v.toNat % 2 ^ 32)))
    ∧ (∀ (place : RegPlace) size (v : DWord), size = 0 ∨ 8 < size ∨ 0x4000000 < place.off + size ∨ s.pcie = [false, false] →
        exec (.registerWrite place size v) s = .next s)

/-! ### Barriers of the package, spaces, memory and the fabric -/

/-- R27, R28, R29, R54, R107, R108, R113, R121, R136, R145, R160, R198, R199, R23: a die's sum goes to D0, D0 counts it, a die
is released; a bump ends with the space's dirty bytes written home; a retired space is empty; a walk fills a TLB; a
migration is done; a REPL update is applied; a scrubbed sector is logged; writes from outside and reductions reach their
bytes alone. A reduction whose NELEM is 0 or above 16 does nothing and one
to a window of NCONTRIB 0 is discarded, which R28 does not say (log entry 24). The model's other choices in it: log entries 87,
88, 89, 96, 97, 99, 113 and 121. -/
def Obligations.MemoryAndFabricEvents : Prop := ∀ (s : State), s.mem.wf = true → regsWf s.regs = true →
  (∀ die b, die < 4 → b < 256 → Tab.wf GBar.reset s.gbars = true → let g := s.gbar b
      g.sums.length = 4 → g.flight.length = 4 → g.dphase.length = 4 →
      (atD g.sums die 0 ≠ 0 → ∃ (w : State) (x y : List Nat), exec (.gbarDieForward die b) s = .next w
          ∧ w.gbar b = { g with sums := x, flight := y } ∧ atD x die 0 = 0 ∧ atD y die 0 = atD g.flight die 0 + atD g.sums die 0
          ∧ ∀ d, d ≠ die → atD x d 0 = atD g.sums d 0 ∧ atD y d 0 = atD g.flight d 0)
        ∧ (atD g.flight die 0 ≠ 0 → g.expect ≠ 0 → ∃ (w : State) (y : List Nat), exec (.gbarD0Arrival die b) s = .next w
          ∧ let c := g.count.toNat + atD g.flight die 0
            let e := g.expect.toNat
            w.gbar b = { g with flight := y, count := BitVec.ofNat 16 (c % e), phase := g.phase + BitVec.ofNat 16 (c / e) }
              ∧ atD y die 0 = 0)
        ∧ (atD g.dphase die 0 ≠ g.phase → ∃ (w : State) (y : List Half), exec (.gbarRelease die b) s = .next w
          ∧ w.gbar b = { g with dphase := y } ∧ atD y die 0 = atD g.dphase die 0 + 1 ∧ w.mem = s.mem
          ∧ ∀ c slot m f v, s.team? c slot = some m → s.dieOf c = die → (m.fibre f).live = true → (m.fibre f).wait = .gbar b v →
              1 ≤ (atD g.dphase die 0 + 1 - v).toNat → (atD g.dphase die 0 + 1 - v).toNat ≤ 32767 →
              (w.fibre c slot f).wait = .none ∧ (w.fibre c slot f).pc = (m.fibre f).pc))
    ∧ (∀ k asid, s.bumps[k]? = some (asid, .ascmd) → (∀ b ∈ s.bumps.take k, b.1 ≠ asid) → s.notices = [] →
        (∀ c, c < 161 → s.unflushed c (fun _ a => a == asid) = false) → s.partialsHeld (· == asid) = false →
        ∃ w : State, exec (.bumpComplete k) s = .next w ∧ w.bumps = s.bumps.eraseIdx k ∧ (w.reg 0x908).getLsbD 31 = false
          ∧ (∀ p ∈ w.partials, asid ∉ p.asids)
          ∧ ∀ c, c ≤ 160 → ∀ a b, Tab.get none (w.cl c).dirty a = some b → b.asid ≠ asid)
    ∧ (∀ asid, asid = s.regFld 0x908 0 10 → Tab.wf Space.reset s.spaces = true → (s.space asid).retiring = true →
        (∀ t ∈ s.tasks, t.asid = asid → t.open = false) → (∀ k ∈ s.clusters, ∀ t ∈ k.teams, t.mc = false → t.asid ≠ asid) →
        (∀ x ∈ s.xfers, x.asid ≠ asid) → (∀ v ∈ s.saved, v.team.asid ≠ asid) → (∀ m ∈ s.memattr, m.asid ≠ asid) →
        (∀ b ∈ s.bumps, b.1 ≠ asid) → (∀ n ∈ s.notices, n.back = true → n.asid ≠ asid) → s.prefOf asid = false →
        ∃ w : State, exec .retireComplete s = .next w ∧ w.space asid = Space.reset
          ∧ (∀ e ∈ w.tlb, e.asid ≠ asid) ∧ (w.reg 0x908).getLsbD 31 = false)
    ∧ (∀ agent asid vpn, agent < 165 → s.wantsPage agent asid vpn = true →
        exec (.pageWalkComplete agent asid vpn) s = .next (s.xlate agent asid (4096 * vpn) 0).2)
    ∧ (∀ m, s.mig = some m → m.second = true → m.count = 0 → ∃ w : State, exec .migrationComplete s = .next w ∧ w.mig = none
        ∧ w.regFld 0x950 28 4 = 4 ∧ w.msi = s.msi ++ [(false, s.regFld 0x950 14 11)])
    ∧ (∀ die, die < 4 → s.repl.applied.length = 4 → atD s.repl.applied die 0 + 1 < s.repl.next →
        ∃ w : State, exec (.replUpdateApply die) s = .next w ∧ atD w.repl.applied die 0 = atD s.repl.applied die 0 + 1
          ∧ (∀ d, d ≠ die → atD w.repl.applied d 0 = atD s.repl.applied d 0) ∧ w.repl.next = s.repl.next)
    ∧ (∀ sector, isLocal (64 * sector) = true → (s.latent.lookup sector = none → exec (.patrolScrub sector .clean) s = .next s)
        ∧ (s.latent.lookup sector = some 0 → ∃ w : State, exec (.patrolScrub sector .clean) s = .next w
          ∧ (w.reg 0x200).getLsbD 6 = true ∧ w.latent.lookup sector = none)
        ∧ (s.latent.lookup sector = some 1 → s.l2At sector = 0 → ∃ w : State, exec (.patrolScrub sector .clean) s = .next w
          ∧ w.poisoned (64 * sector) = true ∧ (w.reg 0x200).getLsbD 1 = true ∧ w.latent.lookup sector = none)
        ∧ exec (.patrolScrub sector .corrected) s
          = .next (s.errCorrected (homeDie (64 * sector)) 2 (hbmChannel (64 * sector)) (64 * sector) 0)
        ∧ (s.poisoned (64 * sector) = false → ∃ w : State, exec (.patrolScrub sector .uncorrectable) s = .next w
          ∧ (s.l2At sector = 0 → w.poisoned (64 * sector) = true) ∧ (w.reg 0x200).getLsbD 1 = true))
    ∧ (∀ pa bytes, ∃ w : State, exec (.peerWriteArrival pa bytes) s = .next w
        ∧ (∀ i b, bytes[i]? = some b → isLocal (pa + i) = true → if s.lineWaits (pa + i) then ∃ x ∈ w.stalled, x.fn = none ∧ x.pa = pa + i ∧ x.b = b
          else w.homeByte (pa + i) = b)
        ∧ (s.partials = [] → ∀ a, a < pa ∨ pa + bytes.length ≤ a ∨ isLocal a = false ∨ s.lineWaits a = true →
            ∀ d, w.viewByte d a = s.viewByte d a))
    ∧ (∀ fn pa bytes, let hold := s.regFld 0x228 16 16 = 3
        let goes (a : Nat) : Prop := isLocal a = true ∧ ¬(hold ∧ a < 0x4000000)
        let waits := (∃ i, i < bytes.length ∧ goes (pa + i) ∧ s.lineWaits (pa + i) = true) ∨ ∃ x ∈ s.stalled, x.fn = some fn
        (s.linkUp fn = false → exec (.bar4Write fn pa bytes) s = .next s)
        ∧ (s.linkUp fn = true → ∃ w : State, exec (.bar4Write fn pa bytes) s = .next w
          ∧ (waits → w.mem = s.mem ∧ ∀ i b, bytes[i]? = some b → goes (pa + i) →
              ∃ x ∈ w.stalled, x.fn = some fn ∧ x.pa = pa + i ∧ x.b = b)
          ∧ (¬ waits → w.stalled = s.stalled ∧ ∀ i b, bytes[i]? = some b → goes (pa + i) → w.homeByte (pa + i) = b)
          ∧ (s.partials = [] → ∀ a, a < pa ∨ pa + bytes.length ≤ a ∨ ¬ goes a → ∀ d, w.viewByte d a = s.viewByte d a)))
    ∧ (∀ tx : RedTx, let r := 0x1400 + 32 * tx.win.toNat
        let off := tx.offset.toNat
        let pa := s.regFld r 8 44 * 256 + 4 * off
        let bad := s.regFld (r + 16) 48 16 ≠ tx.epoch.toNat ∨ s.regFld (r + 16) 7 1 = 0 ∨ s.regFld (r + 16) 24 12 = 0
          ∨ 7 < tx.op.toNat ∨ s.regFld (r + 8) 0 23 * 64 < off + tx.data.length
        (s.fabricWaits tx = true ∨ tx.data = [] ∨ 16 < tx.data.length → exec (.fabricReductionArrival tx) s = .next s)
          ∧ (s.fabricWaits tx = false → 1 ≤ tx.data.length → tx.data.length ≤ 16 → bad → exec (.fabricReductionArrival tx) s
            = .next ((s.frwDrop tx.win.toNat 1).errLog 3 0 5 tx.win.toNat 1 0 0))
          ∧ (∀ v, tx.data = [v] → tx.op = 0 → ¬ bad → s.fabricWaits tx = false → s.partials = [] → s.latent = [] →
            s.stalled = [] → s.steps = [] → s.poisoned pa = false →
            Tab.wf 0 s.fabric = true → ∃ w : State, exec (.fabricReductionArrival tx) s = .next w
              ∧ leVal (w.homeBytes pa 4) = (leVal (s.homeBytes pa 4) + v.toNat) % 2 ^ 32
              ∧ Tab.get 0 w.fabric (tx.win.toNat * 2 ^ 28 + off)
                = Tab.get 0 s.fabric (tx.win.toNat * 2 ^ 28 + off) + tx.ccount.toNat
              ∧ ∀ a, a < pa ∨ pa + 4 ≤ a → ∀ d, w.viewByte d a = s.viewByte d a))
    ∧ (∀ port vc crc slots,
        (atD s.ports port .down = .down ∨ crc = false ∨ vc ≠ 2 → exec (.ryndiFlitReceive port vc crc slots) s = .next s)
          ∧ (∀ b, atD s.ports port .down ≠ .down → b.length = 80 →
            exec (.ryndiFlitReceive port 2 true [b]) s = exec (.fabricReductionArrival (redTxOf b)) s
              ∧ ∃ w : State, exec (.ryndiFlitReceive port 2 true [b]) s = .next w))

/-! ### The governor, sparing, links, boot and the management core -/

/-- R10, R15 to R18, R21, R22, R24, R47, R48, R51, R52, R54, R56, R84, R85, R88, R91, R93, R95, R98, R101: a clock switch, a
ratio, a sample, a refill, a missed step and an interval boundary; pairs, slices and channels change place; links change
state and report; package reset and boot; attestation; the core's interrupts, alerts and heartbeat. What the governor
chooses at a boundary comes with the event (log entry 1). PWR and PPWR are rounded down, which R88 and R89 do not say (log entry
16). The model's other choices in it: log entries 90, 91, 94, 95, 98, 109 and 114. -/
def Obligations.GovernorAndDeviceEvents : Prop := ∀ (s : State), regsWf s.regs = true →
  let cool (w : State) (die : Nat) : Prop := ∀ k, k < 16 → let v := w.reg (dieOff die + 0x300 + 4 * k)
    v.getLsbD 31 = true →
      (BitVec.ofNat 16 v.toNat : Half).toInt < (BitVec.ofNat 16 (w.regFld (dieOff die + 0x340) 16 16) : Half).toInt
  (∀ cl v f, cl < 160 → cl < s.clusters.length → (s.cl cl).vfNext = some (v, f) → v < 128 → f < 128 →
      ∃ w : State, exec (.clockSwitch cl) s = .next w ∧ w.regFld (clOff cl) 0 7 = f ∧ w.regFld (clOff cl) 16 7 = v
        ∧ (w.cl cl).vfNext = none)
    ∧ (∀ cl j r, cl < 160 → j < 6 → atD (s.cl cl).ratioTo j none ≠ some r → exec (.sliceRatioChange cl j r) s = .next s)
    ∧ (∀ cl j r, cl < 160 → j < 6 → 2 ≤ r → r ≤ 8 → atD (s.cl cl).ratioTo j none = some r → ∃ w : State, exec (.sliceRatioChange cl j r) s = .next w
        ∧ w.regFld (clOff cl + 8) (4 * j) 4 = r
        ∧ ∀ i, i < 6 → i ≠ j → w.regFld (clOff cl + 8) (4 * i) 4 = s.regFld (clOff cl + 8) (4 * i) 4)
    ∧ (∀ d k cur, s.ptime < ((s.cl (40 * d + k)).sampled + 1) * 1000 → exec (.currentSample d k cur) s = .next s)
    ∧ (∀ d k (cur : Half), d < 4 → k < 40 → let cl := 40 * d + k
        ((s.cl cl).sampled + 1) * 1000 ≤ s.ptime → let o := clOff cl + 0x10
        let pwr := min (cur.toNat * (550 + 5 * s.regFld (clOff cl) 16 7) / 1000) 0xFFFF
        ∃ w : State, exec (.currentSample d k cur) s = .next w ∧ w.regFld o 0 16 = (s.regFld o 0 16 + 1) % 2 ^ 16
          ∧ w.regFld o 16 16 = cur.toNat ∧ w.regFld o 32 16 = pwr ∧ w.regFld o 48 16 = s.regFld o 48 16)
    ∧ (∀ cl, s.ptime < ((s.cl cl).refill + 1) * 1000 → exec (.budgetRefill cl) s = .next s)
    ∧ (∀ cl, cl < 160 → cl % 2 = 0 → ((s.cl cl).refill + 1) * 1000 ≤ s.ptime → let o := clOff cl + 0x28
        let up : Int := s.mbLevel cl + s.regFld o 16 16
        ∃ w : State, exec (.budgetRefill cl) s = .next w
          ∧ w.regFld o 40 24 = wrap 24 (if up < s.regFld o 0 16 then up else s.regFld o 0 16)
          ∧ w.regFld o 0 40 = s.regFld o 0 40)
    ∧ (∀ n, (∀ p ∈ s.steps, p.slot = n → s.ptime ≤ p.t.toNat) → exec (.stepDeadline n) s = .next s)
    ∧ (∀ n p, (s.steps.filter fun p => p.slot == n) = [p] → let v := (s.timeline p.ref.toNat).value
        p.t.toNat < s.ptime → ∃ w : State, exec (.stepDeadline n) s = .next w ∧ w = s.missStep p v.toNat ∧ ∀ x ∈ w.steps, x ∈ s.steps ∧ x.slot ≠ n)
    ∧ (∀ g, (s.ptime < s.lastInt + 20000 → exec (.intervalBoundary g) s = .next s)
        ∧ (s.lastInt + 20000 ≤ s.ptime → s.steps = [] → s.clusters.length = 161 → let mean := s.meanPower g.uncore
          ∃ w : State, exec (.intervalBoundary g) s = .next w ∧ w.lastInt = s.lastInt + 20000 ∧ w.steps = []
            ∧ w.regFld 0x810 48 16 = min mean 0xFFFF ∧ w.regFld 0x810 9 1 = (if s.plim * 97 < mean * 100 then 1 else 0)
            ∧ (s.regFld 0x808 0 1 = 0 → ∀ cl, cl < 160 → s.online cl = true →
                w.aimed cl = ((Config.minVcode cl s.deff).toNat, s.deff))
            ∧ ∀ c, (w.cl c).teams = (s.cl c).teams))
    ∧ (∀ t p, s.regFld 0x818 0 48 = 0 → p ∈ s.steps →
        let proj := s.project t p
        let none' := proj = BitVec.allOnes 64
        ∃ q ∈ (s.boundaryStep t p).steps, q.slot = p.slot ∧ q.proj = proj
          ∧ (p.t.toNat ≤ t → q.risk = p.risk)
          ∧ (t < p.t.toNat → p.risk = false → (q.risk = true ↔ s.regFld 0x808 0 1 = 1 ∧ ¬ none' ∧ p.t.toNat < proj.toNat))
          ∧ (t < p.t.toNat → p.risk = true → (q.risk = false ↔ none' ∨ proj.toNat + s.regFld 0x808 8 8 * 1000 ≤ p.t.toNat)))
    ∧ (∀ die loc, die < 4 → loc < 40 → s.core.running = true → loc / 2 ∉ (s.spare die).offline → s.spares.length = 4 →
        let c := die * 40 + 2 * (loc / 2)
        (s.cl c).teams = [] → (s.cl (c + 1)).teams = [] → (∀ v ∈ s.saved, v.leader = c → v.accSaved = true) →
        ∃ w : State, exec (.clusterRetire die loc) s = .next w ∧ (w.reg 0x200).getLsbD 6 = true
          ∧ ((s.spare die).pair = none → w.spare die = { s.spare die with pair := some (loc / 2) })
          ∧ ((s.spare die).pair ≠ none → (w.spare die).pair = (s.spare die).pair ∧ loc / 2 ∈ (w.spare die).offline))
    ∧ (∀ die n, die < 4 → n < 24 → s.spares.length = 4 → (s.spare die).slices.length = 24 →
        (s.core.running = true → n ∉ (s.spare die).draining → ∃ w : State, exec (.l2SliceRetire die n) s = .next w
            ∧ n ∈ (w.spare die).draining ∧ (w.spare die).slices = (s.spare die).slices)
          ∧ (n ∈ (s.spare die).draining → (∀ p ∈ s.pins, ofSlice die n (4 * p.line) = false) →
          ∃ w : State, exec (.l2SliceRemap die n) s = .next w
            ∧ n ∉ (w.spare die).draining ∧ (w.reg 0x200).getLsbD 6 = true
            ∧ atD (w.spare die).slices n 0 = (if (s.spare die).used then atD (s.spare die).slices ((n + 1) % 24) 0 else 24)
            ∧ ∀ k, k ≠ n → atD (w.spare die).slices k 0 = atD (s.spare die).slices k 0))
    ∧ (∀ die n, die < 4 → n < 64 → s.spares.length = 4 →
        (s.core.running = true → (∀ k ∈ (s.spare die).spared ++ (s.spare die).copying, k / 32 ≠ n / 32) →
          ∃ w : State, exec (.hbmChannelSpare die n) s = .next w ∧ n ∈ (w.spare die).copying)
          ∧ (n ∈ (s.spare die).copying → ∃ w : State, exec (.hbmChannelSpareComplete die n) s = .next w
            ∧ n ∉ (w.spare die).copying ∧ n ∈ (w.spare die).spared ∧ (w.reg 0x200).getLsbD 6 = true))
    ∧ (∀ e, e < 4 → s.edges.length = 4 → exec (.meshFlitRetry e) s = .next s
        ∧ (atD s.edges e .down = .full → ∃ w : State, exec (.meshEdgeLaneLoss e) s = .next w
          ∧ w.edges = modAt s.edges e (fun _ => .half) ∧ (w.reg 0x200).getLsbD 6 = true)
        ∧ (atD s.edges e .down ≠ .down → ∃ w : State, exec (.meshEdgeFailure e) s = .next w
          ∧ w.edges = modAt s.edges e (fun _ => .down) ∧ (w.reg 0x200).getLsbD 6 = true ∧ (w.reg 0x200).getLsbD 4 = true))
    ∧ (∀ fn, s.pcie.length = 2 → (∃ w : State, exec (.pcieLinkUp fn) s = .next w
            ∧ w.linkUp fn = (s.linksTrained || s.linkUp fn) ∧ w.linkUp (!fn) = s.linkUp (!fn))
        ∧ (s.linkUp fn = true → ∃ w : State, exec (.pcieLinkDown fn) s = .next w ∧ w.linkUp fn = false
          ∧ w.linkUp (!fn) = s.linkUp (!fn) ∧ (w.reg 0x200).getLsbD 4 = true
          ∧ (fn = false → s.core.running = true → w.msi = s.msi ++ [(true, Config.linkDownVector)])))
    ∧ (∀ p, p < s.ports.length → (atD s.ports p .down = .full → ∃ w : State, exec (.ryndiPortLaneLoss p) s = .next w
          ∧ w.ports = modAt s.ports p (fun _ => .half) ∧ (w.reg 0x200).getLsbD 6 = true)
        ∧ (atD s.ports p .down ≠ .down → ∃ w : State, exec (.ryndiPortLinkDown p) s = .next w
          ∧ w.ports = modAt s.ports p (fun _ => .down) ∧ (w.reg 0x200).getLsbD 4 = true)
        ∧ exec (.ryndiPortReturnToService p) s = .next (if s.portsTrained then { s with ports := modAt s.ports p fun _ => .full } else s))
    ∧ (∀ b : BootInput, ∃ w : State, exec (.packageReset b) s = .next w ∧ w.ptime = 0 ∧ w.tasks = [] ∧ w.queues = []
        ∧ w.core.running = false ∧ w.boot.stage = 1 ∧ w.boot.trained = b.trained ∧ w.regFld 0x228 16 16 = 1
        ∧ (∀ fn, w.linkUp fn = false) ∧ (∀ p, atD w.ports p .down = .down)
        ∧ ∀ a, isHost a = true ∨ isPeer a = true → w.mem.byte a = s.mem.byte a)
    ∧ (let w := s.bootTick;
        (s.boot.stage = 0 → w = s) ∧ (s.boot.stage = 1 → w.boot.stage = 2 ∧ w.spares = s.boot.record)
          ∧ (s.boot.stage = 2 → s.boot.trained = false → w.boot.stage = 0 ∧ w.regFld 0x228 16 16 = 0x8002)
          ∧ (s.boot.stage = 2 → s.boot.trained = true → w.boot.stage = 3 ∧ w.boot.cand = s.boot.flash.getD []
            ∧ ∀ fn, w.linkUp fn = true)
          ∧ (s.boot.stage = 3 → imageOk s.boot.cand = false → w.boot.stage = 0 ∧ w.boot.waits = true
            ∧ w.regFld 0x228 16 16 = 0x8003 ∧ w.core = s.core)
          ∧ (s.boot.stage = 3 → imageOk s.boot.cand = true → w.boot.stage = 4
            ∧ w.boot.flash = if s.boot.recov then some s.boot.cand else s.boot.flash)
          ∧ (s.boot.stage = 4 → s.clusters.length = 161 → w.boot.stage = 0 ∧ w.core.running = true ∧ w.core.d1 = false
            ∧ w.regFld 0x228 16 16 = 0x0010 ∧ w.ports = List.replicate 12 .full
            ∧ (w.fibre mcCluster 0 0).pc = BitVec.ofNat 48 (leVal ((s.boot.cand.drop 16).take 4))))
    ∧ (∀ img, leVal ((img.drop 8).take 4) < Config.minSvn → imageOk img = false)
    ∧ (∀ buf nonce, s.boot.att = some (buf, nonce) → s.mem.wf = true → ∃ w : State, exec .attestationComplete s = .next w
        ∧ w.boot = { s.boot with att := none } ∧ ∀ i b, (s.reportHead nonce)[i]? = some b →
          s.lineWaits (buf + i) = false → w.homeByte (buf + i) = b)
    ∧ (∃ w : State, exec .certData s = .next w ∧ w.regFld 0x600 3 29 = (s.regFld 0x600 3 29 + 1) % 2 ^ 29
        ∧ w.regFld 0x600 0 1 = s.regFld 0x600 0 1)
    ∧ (∀ n, s.mcTake = some n → exec .mcInterruptEntry s = .next (s.mcEnter n (s.fibre mcCluster 0 0).pc false))
    ∧ (∀ die n (temp : Half), die < 4 → n < 16 → s.alerts.length = 4 →
        let hot := (BitVec.ofNat 16 (s.regFld (dieOff die + 0x340) 0 16) : Half).toInt ≤ temp.toInt
        ∃ w : State, exec (.thermalAlert die n temp) s = .next w ∧ (w.reg (dieOff die + 0x300 + 4 * n)).toNat = 2 ^ 31 + temp.toNat
          ∧ (hot → atD s.alerts die false = true → (w.reg 0x200).getLsbD 2 = true)
          ∧ (¬(hot ∧ atD s.alerts die false = true) → w.reg 0x200 = s.reg 0x200)
          ∧ (cool w die → atD w.alerts die false = true)
          ∧ (¬ cool w die → (atD w.alerts die false = true ↔ atD s.alerts die false = true ∧ ¬ hot))
          ∧ (∀ d, d ≠ die → atD w.alerts d false = atD s.alerts d false)
          ∧ exec (.tempFallBelowLo die [(n, some temp)]) s = exec (.thermalAlert die n temp) s)
    ∧ (∀ die n, die < 4 → n < 16 → s.alerts.length = 4 → ∃ w : State, exec (.tempFallBelowLo die [(n, none)]) s = .next w
        ∧ w.reg (dieOff die + 0x300 + 4 * n) = 0 ∧ w.reg 0x200 = s.reg 0x200
        ∧ (atD w.alerts die false = true ↔ cool w die ∨ atD s.alerts die false = true))
    ∧ (∀ die x l w, exec (.tempFallBelowLo die [x]) s = .next w →
        exec (.tempFallBelowLo die (x :: l)) s = exec (.tempFallBelowLo die l) w)
    ∧ ((s.core.running = true → s.core.beat + s.regFld 0x230 0 16 * 1000 ≤ s.ptime → ∃ w : State,
          exec .heartbeatExpiry s = .next w ∧ (s.core.d1 = true → w.core.running = false)
          ∧ (s.core.d1 = false → s.clusters.length = 161 → w.core.running = true ∧ w.core.d1 = true ∧ w.core.raise = true
            ∧ (w.reg 0x428).toNat = 0 ∧ (w.reg 0x430).toNat = 0 ∧ (w.reg 0x438).toNat = 0
            ∧ (w.fibre mcCluster 0 0).pc = BitVec.ofNat 48 (leVal ((s.boot.image.drop 16).take 4))))
        ∧ (s.core.running = false ∨ s.ptime < s.core.beat + s.regFld 0x230 0 16 * 1000 → exec .heartbeatExpiry s = .next s))
end

