-- ==== Sys2Proof/Laws/State.lean ====
section
/-!
SUPPORT. Laws/State.lean: what each named update leaves of the state, field by field, and reads after updates.
-/
namespace Sys2Proof.Machine

/-! ### modCl -/

@[simp] theorem State.modCl_ptime (s : State) (c : Nat) (g : Cluster → Cluster) : (s.modCl c g).ptime = s.ptime := rfl
@[simp] theorem State.modCl_agenda (s : State) (c : Nat) (g : Cluster → Cluster) : (s.modCl c g).agenda = s.agenda := rfl
@[simp] theorem State.modCl_cur (s : State) (c : Nat) (g : Cluster → Cluster) : (s.modCl c g).cur = s.cur := rfl
@[simp] theorem State.modCl_free (s : State) (c : Nat) (g : Cluster → Cluster) : (s.modCl c g).free = s.free := rfl
@[simp] theorem State.modCl_mem (s : State) (c : Nat) (g : Cluster → Cluster) : (s.modCl c g).mem = s.mem := rfl
@[simp] theorem State.modCl_pois (s : State) (c : Nat) (g : Cluster → Cluster) : (s.modCl c g).pois = s.pois := rfl
@[simp] theorem State.modCl_regs (s : State) (c : Nat) (g : Cluster → Cluster) : (s.modCl c g).regs = s.regs := rfl
@[simp] theorem State.modCl_tl (s : State) (c : Nat) (g : Cluster → Cluster) : (s.modCl c g).tl = s.tl := rfl
@[simp] theorem State.modCl_queues (s : State) (c : Nat) (g : Cluster → Cluster) : (s.modCl c g).queues = s.queues := rfl
@[simp] theorem State.modCl_pkts (s : State) (c : Nat) (g : Cluster → Cluster) : (s.modCl c g).pkts = s.pkts := rfl
@[simp] theorem State.modCl_pktNext (s : State) (c : Nat) (g : Cluster → Cluster) : (s.modCl c g).pktNext = s.pktNext := rfl
@[simp] theorem State.modCl_tasks (s : State) (c : Nat) (g : Cluster → Cluster) : (s.modCl c g).tasks = s.tasks := rfl
@[simp] theorem State.modCl_seqNext (s : State) (c : Nat) (g : Cluster → Cluster) : (s.modCl c g).seqNext = s.seqNext := rfl
@[simp] theorem State.modCl_notices (s : State) (c : Nat) (g : Cluster → Cluster) : (s.modCl c g).notices = s.notices := rfl
@[simp] theorem State.modCl_placeNo (s : State) (c : Nat) (g : Cluster → Cluster) : (s.modCl c g).placeNo = s.placeNo := rfl
@[simp] theorem State.modCl_spaces (s : State) (c : Nat) (g : Cluster → Cluster) : (s.modCl c g).spaces = s.spaces := rfl
@[simp] theorem State.modCl_bumps (s : State) (c : Nat) (g : Cluster → Cluster) : (s.modCl c g).bumps = s.bumps := rfl
@[simp] theorem State.modCl_tlb (s : State) (c : Nat) (g : Cluster → Cluster) : (s.modCl c g).tlb = s.tlb := rfl
@[simp] theorem State.modCl_replays (s : State) (c : Nat) (g : Cluster → Cluster) : (s.modCl c g).replays = s.replays := rfl
@[simp] theorem State.modCl_mig (s : State) (c : Nat) (g : Cluster → Cluster) : (s.modCl c g).mig = s.mig := rfl
@[simp] theorem State.modCl_memattr (s : State) (c : Nat) (g : Cluster → Cluster) : (s.modCl c g).memattr = s.memattr := rfl
@[simp] theorem State.modCl_gbars (s : State) (c : Nat) (g : Cluster → Cluster) : (s.modCl c g).gbars = s.gbars := rfl
@[simp] theorem State.modCl_steps (s : State) (c : Nat) (g : Cluster → Cluster) : (s.modCl c g).steps = s.steps := rfl
@[simp] theorem State.modCl_over (s : State) (c : Nat) (g : Cluster → Cluster) : (s.modCl c g).limitRun = s.limitRun := rfl
@[simp] theorem State.modCl_lastInt (s : State) (c : Nat) (g : Cluster → Cluster) : (s.modCl c g).lastInt = s.lastInt := rfl
@[simp] theorem State.modCl_handlers (s : State) (c : Nat) (g : Cluster → Cluster) : (s.modCl c g).handlers = s.handlers := rfl
@[simp] theorem State.modCl_rrQueue (s : State) (c : Nat) (g : Cluster → Cluster) : (s.modCl c g).rrQueue = s.rrQueue := rfl
@[simp] theorem State.modCl_rdc (s : State) (c : Nat) (g : Cluster → Cluster) : (s.modCl c g).rdc = s.rdc := rfl
@[simp] theorem State.modCl_partials (s : State) (c : Nat) (g : Cluster → Cluster) : (s.modCl c g).partials = s.partials := rfl
@[simp] theorem State.modCl_repl (s : State) (c : Nat) (g : Cluster → Cluster) : (s.modCl c g).repl = s.repl := rfl
@[simp] theorem State.modCl_svt (s : State) (c : Nat) (g : Cluster → Cluster) : (s.modCl c g).svt = s.svt := rfl
@[simp] theorem State.modCl_dir (s : State) (c : Nat) (g : Cluster → Cluster) : (s.modCl c g).dir = s.dir := rfl
@[simp] theorem State.modCl_stalled (s : State) (c : Nat) (g : Cluster → Cluster) : (s.modCl c g).stalled = s.stalled := rfl
@[simp] theorem State.modCl_stallNo (s : State) (c : Nat) (g : Cluster → Cluster) : (s.modCl c g).stallNo = s.stallNo := rfl
@[simp] theorem State.modCl_l2 (s : State) (c : Nat) (g : Cluster → Cluster) : (s.modCl c g).l2 = s.l2 := rfl
@[simp] theorem State.modCl_pins (s : State) (c : Nat) (g : Cluster → Cluster) : (s.modCl c g).pins = s.pins := rfl
@[simp] theorem State.modCl_errs (s : State) (c : Nat) (g : Cluster → Cluster) : (s.modCl c g).errs = s.errs := rfl
@[simp] theorem State.modCl_sent (s : State) (c : Nat) (g : Cluster → Cluster) : (s.modCl c g).sent = s.sent := rfl
@[simp] theorem State.modCl_latent (s : State) (c : Nat) (g : Cluster → Cluster) : (s.modCl c g).latent = s.latent := rfl
@[simp] theorem State.modCl_hs (s : State) (c : Nat) (g : Cluster → Cluster) : (s.modCl c g).hs = s.hs := rfl
@[simp] theorem State.modCl_fabric (s : State) (c : Nat) (g : Cluster → Cluster) : (s.modCl c g).fabric = s.fabric := rfl
@[simp] theorem State.modCl_pcie (s : State) (c : Nat) (g : Cluster → Cluster) : (s.modCl c g).pcie = s.pcie := rfl
@[simp] theorem State.modCl_ports (s : State) (c : Nat) (g : Cluster → Cluster) : (s.modCl c g).ports = s.ports := rfl
@[simp] theorem State.modCl_edges (s : State) (c : Nat) (g : Cluster → Cluster) : (s.modCl c g).edges = s.edges := rfl
@[simp] theorem State.modCl_spares (s : State) (c : Nat) (g : Cluster → Cluster) : (s.modCl c g).spares = s.spares := rfl
@[simp] theorem State.modCl_saved (s : State) (c : Nat) (g : Cluster → Cluster) : (s.modCl c g).saved = s.saved := rfl
@[simp] theorem State.modCl_restoring (s : State) (c : Nat) (g : Cluster → Cluster) : (s.modCl c g).restoring = s.restoring := rfl
@[simp] theorem State.modCl_xfers (s : State) (c : Nat) (g : Cluster → Cluster) : (s.modCl c g).xfers = s.xfers := rfl
@[simp] theorem State.modCl_sigs (s : State) (c : Nat) (g : Cluster → Cluster) : (s.modCl c g).sigs = s.sigs := rfl
@[simp] theorem State.modCl_boot (s : State) (c : Nat) (g : Cluster → Cluster) : (s.modCl c g).boot = s.boot := rfl
@[simp] theorem State.modCl_core (s : State) (c : Nat) (g : Cluster → Cluster) : (s.modCl c g).core = s.core := rfl
@[simp] theorem State.modCl_msi (s : State) (c : Nat) (g : Cluster → Cluster) : (s.modCl c g).msi = s.msi := rfl
@[simp] theorem State.modCl_alerts (s : State) (c : Nat) (g : Cluster → Cluster) : (s.modCl c g).alerts = s.alerts := rfl

/-! ### modTeam -/

@[simp] theorem State.modTeam_ptime (s : State) (c k : Nat) (g : Team → Team) : (s.modTeam c k g).ptime = s.ptime := rfl
@[simp] theorem State.modTeam_agenda (s : State) (c k : Nat) (g : Team → Team) : (s.modTeam c k g).agenda = s.agenda := rfl
@[simp] theorem State.modTeam_cur (s : State) (c k : Nat) (g : Team → Team) : (s.modTeam c k g).cur = s.cur := rfl
@[simp] theorem State.modTeam_free (s : State) (c k : Nat) (g : Team → Team) : (s.modTeam c k g).free = s.free := rfl
@[simp] theorem State.modTeam_mem (s : State) (c k : Nat) (g : Team → Team) : (s.modTeam c k g).mem = s.mem := rfl
@[simp] theorem State.modTeam_pois (s : State) (c k : Nat) (g : Team → Team) : (s.modTeam c k g).pois = s.pois := rfl
@[simp] theorem State.modTeam_regs (s : State) (c k : Nat) (g : Team → Team) : (s.modTeam c k g).regs = s.regs := rfl
@[simp] theorem State.modTeam_tl (s : State) (c k : Nat) (g : Team → Team) : (s.modTeam c k g).tl = s.tl := rfl
@[simp] theorem State.modTeam_queues (s : State) (c k : Nat) (g : Team → Team) : (s.modTeam c k g).queues = s.queues := rfl
@[simp] theorem State.modTeam_pkts (s : State) (c k : Nat) (g : Team → Team) : (s.modTeam c k g).pkts = s.pkts := rfl
@[simp] theorem State.modTeam_pktNext (s : State) (c k : Nat) (g : Team → Team) : (s.modTeam c k g).pktNext = s.pktNext := rfl
@[simp] theorem State.modTeam_tasks (s : State) (c k : Nat) (g : Team → Team) : (s.modTeam c k g).tasks = s.tasks := rfl
@[simp] theorem State.modTeam_seqNext (s : State) (c k : Nat) (g : Team → Team) : (s.modTeam c k g).seqNext = s.seqNext := rfl
@[simp] theorem State.modTeam_notices (s : State) (c k : Nat) (g : Team → Team) : (s.modTeam c k g).notices = s.notices := rfl
@[simp] theorem State.modTeam_placeNo (s : State) (c k : Nat) (g : Team → Team) : (s.modTeam c k g).placeNo = s.placeNo := rfl
@[simp] theorem State.modTeam_spaces (s : State) (c k : Nat) (g : Team → Team) : (s.modTeam c k g).spaces = s.spaces := rfl
@[simp] theorem State.modTeam_bumps (s : State) (c k : Nat) (g : Team → Team) : (s.modTeam c k g).bumps = s.bumps := rfl
@[simp] theorem State.modTeam_tlb (s : State) (c k : Nat) (g : Team → Team) : (s.modTeam c k g).tlb = s.tlb := rfl
@[simp] theorem State.modTeam_replays (s : State) (c k : Nat) (g : Team → Team) : (s.modTeam c k g).replays = s.replays := rfl
@[simp] theorem State.modTeam_mig (s : State) (c k : Nat) (g : Team → Team) : (s.modTeam c k g).mig = s.mig := rfl
@[simp] theorem State.modTeam_memattr (s : State) (c k : Nat) (g : Team → Team) : (s.modTeam c k g).memattr = s.memattr := rfl
@[simp] theorem State.modTeam_gbars (s : State) (c k : Nat) (g : Team → Team) : (s.modTeam c k g).gbars = s.gbars := rfl
@[simp] theorem State.modTeam_steps (s : State) (c k : Nat) (g : Team → Team) : (s.modTeam c k g).steps = s.steps := rfl
@[simp] theorem State.modTeam_over (s : State) (c k : Nat) (g : Team → Team) : (s.modTeam c k g).limitRun = s.limitRun := rfl
@[simp] theorem State.modTeam_lastInt (s : State) (c k : Nat) (g : Team → Team) : (s.modTeam c k g).lastInt = s.lastInt := rfl
@[simp] theorem State.modTeam_handlers (s : State) (c k : Nat) (g : Team → Team) : (s.modTeam c k g).handlers = s.handlers := rfl
@[simp] theorem State.modTeam_rrQueue (s : State) (c k : Nat) (g : Team → Team) : (s.modTeam c k g).rrQueue = s.rrQueue := rfl
@[simp] theorem State.modTeam_rdc (s : State) (c k : Nat) (g : Team → Team) : (s.modTeam c k g).rdc = s.rdc := rfl
@[simp] theorem State.modTeam_partials (s : State) (c k : Nat) (g : Team → Team) : (s.modTeam c k g).partials = s.partials := rfl
@[simp] theorem State.modTeam_repl (s : State) (c k : Nat) (g : Team → Team) : (s.modTeam c k g).repl = s.repl := rfl
@[simp] theorem State.modTeam_svt (s : State) (c k : Nat) (g : Team → Team) : (s.modTeam c k g).svt = s.svt := rfl
@[simp] theorem State.modTeam_dir (s : State) (c k : Nat) (g : Team → Team) : (s.modTeam c k g).dir = s.dir := rfl
@[simp] theorem State.modTeam_stalled (s : State) (c k : Nat) (g : Team → Team) : (s.modTeam c k g).stalled = s.stalled := rfl
@[simp] theorem State.modTeam_stallNo (s : State) (c k : Nat) (g : Team → Team) : (s.modTeam c k g).stallNo = s.stallNo := rfl
@[simp] theorem State.modTeam_l2 (s : State) (c k : Nat) (g : Team → Team) : (s.modTeam c k g).l2 = s.l2 := rfl
@[simp] theorem State.modTeam_pins (s : State) (c k : Nat) (g : Team → Team) : (s.modTeam c k g).pins = s.pins := rfl
@[simp] theorem State.modTeam_errs (s : State) (c k : Nat) (g : Team → Team) : (s.modTeam c k g).errs = s.errs := rfl
@[simp] theorem State.modTeam_sent (s : State) (c k : Nat) (g : Team → Team) : (s.modTeam c k g).sent = s.sent := rfl
@[simp] theorem State.modTeam_latent (s : State) (c k : Nat) (g : Team → Team) : (s.modTeam c k g).latent = s.latent := rfl
@[simp] theorem State.modTeam_hs (s : State) (c k : Nat) (g : Team → Team) : (s.modTeam c k g).hs = s.hs := rfl
@[simp] theorem State.modTeam_fabric (s : State) (c k : Nat) (g : Team → Team) : (s.modTeam c k g).fabric = s.fabric := rfl
@[simp] theorem State.modTeam_pcie (s : State) (c k : Nat) (g : Team → Team) : (s.modTeam c k g).pcie = s.pcie := rfl
@[simp] theorem State.modTeam_ports (s : State) (c k : Nat) (g : Team → Team) : (s.modTeam c k g).ports = s.ports := rfl
@[simp] theorem State.modTeam_edges (s : State) (c k : Nat) (g : Team → Team) : (s.modTeam c k g).edges = s.edges := rfl
@[simp] theorem State.modTeam_spares (s : State) (c k : Nat) (g : Team → Team) : (s.modTeam c k g).spares = s.spares := rfl
@[simp] theorem State.modTeam_saved (s : State) (c k : Nat) (g : Team → Team) : (s.modTeam c k g).saved = s.saved := rfl
@[simp] theorem State.modTeam_restoring (s : State) (c k : Nat) (g : Team → Team) : (s.modTeam c k g).restoring = s.restoring := rfl
@[simp] theorem State.modTeam_xfers (s : State) (c k : Nat) (g : Team → Team) : (s.modTeam c k g).xfers = s.xfers := rfl
@[simp] theorem State.modTeam_sigs (s : State) (c k : Nat) (g : Team → Team) : (s.modTeam c k g).sigs = s.sigs := rfl
@[simp] theorem State.modTeam_boot (s : State) (c k : Nat) (g : Team → Team) : (s.modTeam c k g).boot = s.boot := rfl
@[simp] theorem State.modTeam_core (s : State) (c k : Nat) (g : Team → Team) : (s.modTeam c k g).core = s.core := rfl
@[simp] theorem State.modTeam_msi (s : State) (c k : Nat) (g : Team → Team) : (s.modTeam c k g).msi = s.msi := rfl
@[simp] theorem State.modTeam_alerts (s : State) (c k : Nat) (g : Team → Team) : (s.modTeam c k g).alerts = s.alerts := rfl

/-! ### modFibre -/

@[simp] theorem State.modFibre_ptime (s : State) (c k h : Nat) (g : Fibre → Fibre) : (s.modFibre c k h g).ptime = s.ptime := rfl
@[simp] theorem State.modFibre_agenda (s : State) (c k h : Nat) (g : Fibre → Fibre) : (s.modFibre c k h g).agenda = s.agenda := rfl
@[simp] theorem State.modFibre_cur (s : State) (c k h : Nat) (g : Fibre → Fibre) : (s.modFibre c k h g).cur = s.cur := rfl
@[simp] theorem State.modFibre_free (s : State) (c k h : Nat) (g : Fibre → Fibre) : (s.modFibre c k h g).free = s.free := rfl
@[simp] theorem State.modFibre_mem (s : State) (c k h : Nat) (g : Fibre → Fibre) : (s.modFibre c k h g).mem = s.mem := rfl
@[simp] theorem State.modFibre_pois (s : State) (c k h : Nat) (g : Fibre → Fibre) : (s.modFibre c k h g).pois = s.pois := rfl
@[simp] theorem State.modFibre_regs (s : State) (c k h : Nat) (g : Fibre → Fibre) : (s.modFibre c k h g).regs = s.regs := rfl
@[simp] theorem State.modFibre_tl (s : State) (c k h : Nat) (g : Fibre → Fibre) : (s.modFibre c k h g).tl = s.tl := rfl
@[simp] theorem State.modFibre_queues (s : State) (c k h : Nat) (g : Fibre → Fibre) : (s.modFibre c k h g).queues = s.queues := rfl
@[simp] theorem State.modFibre_pkts (s : State) (c k h : Nat) (g : Fibre → Fibre) : (s.modFibre c k h g).pkts = s.pkts := rfl
@[simp] theorem State.modFibre_pktNext (s : State) (c k h : Nat) (g : Fibre → Fibre) : (s.modFibre c k h g).pktNext = s.pktNext := rfl
@[simp] theorem State.modFibre_tasks (s : State) (c k h : Nat) (g : Fibre → Fibre) : (s.modFibre c k h g).tasks = s.tasks := rfl
@[simp] theorem State.modFibre_seqNext (s : State) (c k h : Nat) (g : Fibre → Fibre) : (s.modFibre c k h g).seqNext = s.seqNext := rfl
@[simp] theorem State.modFibre_notices (s : State) (c k h : Nat) (g : Fibre → Fibre) : (s.modFibre c k h g).notices = s.notices := rfl
@[simp] theorem State.modFibre_placeNo (s : State) (c k h : Nat) (g : Fibre → Fibre) : (s.modFibre c k h g).placeNo = s.placeNo := rfl
@[simp] theorem State.modFibre_spaces (s : State) (c k h : Nat) (g : Fibre → Fibre) : (s.modFibre c k h g).spaces = s.spaces := rfl
@[simp] theorem State.modFibre_bumps (s : State) (c k h : Nat) (g : Fibre → Fibre) : (s.modFibre c k h g).bumps = s.bumps := rfl
@[simp] theorem State.modFibre_tlb (s : State) (c k h : Nat) (g : Fibre → Fibre) : (s.modFibre c k h g).tlb = s.tlb := rfl
@[simp] theorem State.modFibre_replays (s : State) (c k h : Nat) (g : Fibre → Fibre) : (s.modFibre c k h g).replays = s.replays := rfl
@[simp] theorem State.modFibre_mig (s : State) (c k h : Nat) (g : Fibre → Fibre) : (s.modFibre c k h g).mig = s.mig := rfl
@[simp] theorem State.modFibre_memattr (s : State) (c k h : Nat) (g : Fibre → Fibre) : (s.modFibre c k h g).memattr = s.memattr := rfl
@[simp] theorem State.modFibre_gbars (s : State) (c k h : Nat) (g : Fibre → Fibre) : (s.modFibre c k h g).gbars = s.gbars := rfl
@[simp] theorem State.modFibre_steps (s : State) (c k h : Nat) (g : Fibre → Fibre) : (s.modFibre c k h g).steps = s.steps := rfl
@[simp] theorem State.modFibre_over (s : State) (c k h : Nat) (g : Fibre → Fibre) : (s.modFibre c k h g).limitRun = s.limitRun := rfl
@[simp] theorem State.modFibre_lastInt (s : State) (c k h : Nat) (g : Fibre → Fibre) : (s.modFibre c k h g).lastInt = s.lastInt := rfl
@[simp] theorem State.modFibre_handlers (s : State) (c k h : Nat) (g : Fibre → Fibre) : (s.modFibre c k h g).handlers = s.handlers := rfl
@[simp] theorem State.modFibre_rrQueue (s : State) (c k h : Nat) (g : Fibre → Fibre) : (s.modFibre c k h g).rrQueue = s.rrQueue := rfl
@[simp] theorem State.modFibre_rdc (s : State) (c k h : Nat) (g : Fibre → Fibre) : (s.modFibre c k h g).rdc = s.rdc := rfl
@[simp] theorem State.modFibre_partials (s : State) (c k h : Nat) (g : Fibre → Fibre) : (s.modFibre c k h g).partials = s.partials := rfl
@[simp] theorem State.modFibre_repl (s : State) (c k h : Nat) (g : Fibre → Fibre) : (s.modFibre c k h g).repl = s.repl := rfl
@[simp] theorem State.modFibre_svt (s : State) (c k h : Nat) (g : Fibre → Fibre) : (s.modFibre c k h g).svt = s.svt := rfl
@[simp] theorem State.modFibre_dir (s : State) (c k h : Nat) (g : Fibre → Fibre) : (s.modFibre c k h g).dir = s.dir := rfl
@[simp] theorem State.modFibre_stalled (s : State) (c k h : Nat) (g : Fibre → Fibre) : (s.modFibre c k h g).stalled = s.stalled := rfl
@[simp] theorem State.modFibre_stallNo (s : State) (c k h : Nat) (g : Fibre → Fibre) : (s.modFibre c k h g).stallNo = s.stallNo := rfl
@[simp] theorem State.modFibre_l2 (s : State) (c k h : Nat) (g : Fibre → Fibre) : (s.modFibre c k h g).l2 = s.l2 := rfl
@[simp] theorem State.modFibre_pins (s : State) (c k h : Nat) (g : Fibre → Fibre) : (s.modFibre c k h g).pins = s.pins := rfl
@[simp] theorem State.modFibre_errs (s : State) (c k h : Nat) (g : Fibre → Fibre) : (s.modFibre c k h g).errs = s.errs := rfl
@[simp] theorem State.modFibre_sent (s : State) (c k h : Nat) (g : Fibre → Fibre) : (s.modFibre c k h g).sent = s.sent := rfl
@[simp] theorem State.modFibre_latent (s : State) (c k h : Nat) (g : Fibre → Fibre) : (s.modFibre c k h g).latent = s.latent := rfl
@[simp] theorem State.modFibre_hs (s : State) (c k h : Nat) (g : Fibre → Fibre) : (s.modFibre c k h g).hs = s.hs := rfl
@[simp] theorem State.modFibre_fabric (s : State) (c k h : Nat) (g : Fibre → Fibre) : (s.modFibre c k h g).fabric = s.fabric := rfl
@[simp] theorem State.modFibre_pcie (s : State) (c k h : Nat) (g : Fibre → Fibre) : (s.modFibre c k h g).pcie = s.pcie := rfl
@[simp] theorem State.modFibre_ports (s : State) (c k h : Nat) (g : Fibre → Fibre) : (s.modFibre c k h g).ports = s.ports := rfl
@[simp] theorem State.modFibre_edges (s : State) (c k h : Nat) (g : Fibre → Fibre) : (s.modFibre c k h g).edges = s.edges := rfl
@[simp] theorem State.modFibre_spares (s : State) (c k h : Nat) (g : Fibre → Fibre) : (s.modFibre c k h g).spares = s.spares := rfl
@[simp] theorem State.modFibre_saved (s : State) (c k h : Nat) (g : Fibre → Fibre) : (s.modFibre c k h g).saved = s.saved := rfl
@[simp] theorem State.modFibre_restoring (s : State) (c k h : Nat) (g : Fibre → Fibre) : (s.modFibre c k h g).restoring = s.restoring := rfl
@[simp] theorem State.modFibre_xfers (s : State) (c k h : Nat) (g : Fibre → Fibre) : (s.modFibre c k h g).xfers = s.xfers := rfl
@[simp] theorem State.modFibre_sigs (s : State) (c k h : Nat) (g : Fibre → Fibre) : (s.modFibre c k h g).sigs = s.sigs := rfl
@[simp] theorem State.modFibre_boot (s : State) (c k h : Nat) (g : Fibre → Fibre) : (s.modFibre c k h g).boot = s.boot := rfl
@[simp] theorem State.modFibre_core (s : State) (c k h : Nat) (g : Fibre → Fibre) : (s.modFibre c k h g).core = s.core := rfl
@[simp] theorem State.modFibre_msi (s : State) (c k h : Nat) (g : Fibre → Fibre) : (s.modFibre c k h g).msi = s.msi := rfl
@[simp] theorem State.modFibre_alerts (s : State) (c k h : Nat) (g : Fibre → Fibre) : (s.modFibre c k h g).alerts = s.alerts := rfl

/-! ### modCohort -/

@[simp] theorem State.modCohort_ptime (s : State) (c k : Nat) (g : Cohort → Cohort) : (s.modCohort c k g).ptime = s.ptime := rfl
@[simp] theorem State.modCohort_agenda (s : State) (c k : Nat) (g : Cohort → Cohort) : (s.modCohort c k g).agenda = s.agenda := rfl
@[simp] theorem State.modCohort_cur (s : State) (c k : Nat) (g : Cohort → Cohort) : (s.modCohort c k g).cur = s.cur := rfl
@[simp] theorem State.modCohort_free (s : State) (c k : Nat) (g : Cohort → Cohort) : (s.modCohort c k g).free = s.free := rfl
@[simp] theorem State.modCohort_mem (s : State) (c k : Nat) (g : Cohort → Cohort) : (s.modCohort c k g).mem = s.mem := rfl
@[simp] theorem State.modCohort_pois (s : State) (c k : Nat) (g : Cohort → Cohort) : (s.modCohort c k g).pois = s.pois := rfl
@[simp] theorem State.modCohort_regs (s : State) (c k : Nat) (g : Cohort → Cohort) : (s.modCohort c k g).regs = s.regs := rfl
@[simp] theorem State.modCohort_tl (s : State) (c k : Nat) (g : Cohort → Cohort) : (s.modCohort c k g).tl = s.tl := rfl
@[simp] theorem State.modCohort_queues (s : State) (c k : Nat) (g : Cohort → Cohort) : (s.modCohort c k g).queues = s.queues := rfl
@[simp] theorem State.modCohort_pkts (s : State) (c k : Nat) (g : Cohort → Cohort) : (s.modCohort c k g).pkts = s.pkts := rfl
@[simp] theorem State.modCohort_pktNext (s : State) (c k : Nat) (g : Cohort → Cohort) : (s.modCohort c k g).pktNext = s.pktNext := rfl
@[simp] theorem State.modCohort_tasks (s : State) (c k : Nat) (g : Cohort → Cohort) : (s.modCohort c k g).tasks = s.tasks := rfl
@[simp] theorem State.modCohort_seqNext (s : State) (c k : Nat) (g : Cohort → Cohort) : (s.modCohort c k g).seqNext = s.seqNext := rfl
@[simp] theorem State.modCohort_notices (s : State) (c k : Nat) (g : Cohort → Cohort) : (s.modCohort c k g).notices = s.notices := rfl
@[simp] theorem State.modCohort_placeNo (s : State) (c k : Nat) (g : Cohort → Cohort) : (s.modCohort c k g).placeNo = s.placeNo := rfl
@[simp] theorem State.modCohort_spaces (s : State) (c k : Nat) (g : Cohort → Cohort) : (s.modCohort c k g).spaces = s.spaces := rfl
@[simp] theorem State.modCohort_bumps (s : State) (c k : Nat) (g : Cohort → Cohort) : (s.modCohort c k g).bumps = s.bumps := rfl
@[simp] theorem State.modCohort_tlb (s : State) (c k : Nat) (g : Cohort → Cohort) : (s.modCohort c k g).tlb = s.tlb := rfl
@[simp] theorem State.modCohort_replays (s : State) (c k : Nat) (g : Cohort → Cohort) : (s.modCohort c k g).replays = s.replays := rfl
@[simp] theorem State.modCohort_mig (s : State) (c k : Nat) (g : Cohort → Cohort) : (s.modCohort c k g).mig = s.mig := rfl
@[simp] theorem State.modCohort_memattr (s : State) (c k : Nat) (g : Cohort → Cohort) : (s.modCohort c k g).memattr = s.memattr := rfl
@[simp] theorem State.modCohort_gbars (s : State) (c k : Nat) (g : Cohort → Cohort) : (s.modCohort c k g).gbars = s.gbars := rfl
@[simp] theorem State.modCohort_steps (s : State) (c k : Nat) (g : Cohort → Cohort) : (s.modCohort c k g).steps = s.steps := rfl
@[simp] theorem State.modCohort_over (s : State) (c k : Nat) (g : Cohort → Cohort) : (s.modCohort c k g).limitRun = s.limitRun := rfl
@[simp] theorem State.modCohort_lastInt (s : State) (c k : Nat) (g : Cohort → Cohort) : (s.modCohort c k g).lastInt = s.lastInt := rfl
@[simp] theorem State.modCohort_handlers (s : State) (c k : Nat) (g : Cohort → Cohort) : (s.modCohort c k g).handlers = s.handlers := rfl
@[simp] theorem State.modCohort_rrQueue (s : State) (c k : Nat) (g : Cohort → Cohort) : (s.modCohort c k g).rrQueue = s.rrQueue := rfl
@[simp] theorem State.modCohort_rdc (s : State) (c k : Nat) (g : Cohort → Cohort) : (s.modCohort c k g).rdc = s.rdc := rfl
@[simp] theorem State.modCohort_partials (s : State) (c k : Nat) (g : Cohort → Cohort) : (s.modCohort c k g).partials = s.partials := rfl
@[simp] theorem State.modCohort_repl (s : State) (c k : Nat) (g : Cohort → Cohort) : (s.modCohort c k g).repl = s.repl := rfl
@[simp] theorem State.modCohort_svt (s : State) (c k : Nat) (g : Cohort → Cohort) : (s.modCohort c k g).svt = s.svt := rfl
@[simp] theorem State.modCohort_dir (s : State) (c k : Nat) (g : Cohort → Cohort) : (s.modCohort c k g).dir = s.dir := rfl
@[simp] theorem State.modCohort_stalled (s : State) (c k : Nat) (g : Cohort → Cohort) : (s.modCohort c k g).stalled = s.stalled := rfl
@[simp] theorem State.modCohort_stallNo (s : State) (c k : Nat) (g : Cohort → Cohort) : (s.modCohort c k g).stallNo = s.stallNo := rfl
@[simp] theorem State.modCohort_l2 (s : State) (c k : Nat) (g : Cohort → Cohort) : (s.modCohort c k g).l2 = s.l2 := rfl
@[simp] theorem State.modCohort_pins (s : State) (c k : Nat) (g : Cohort → Cohort) : (s.modCohort c k g).pins = s.pins := rfl
@[simp] theorem State.modCohort_errs (s : State) (c k : Nat) (g : Cohort → Cohort) : (s.modCohort c k g).errs = s.errs := rfl
@[simp] theorem State.modCohort_sent (s : State) (c k : Nat) (g : Cohort → Cohort) : (s.modCohort c k g).sent = s.sent := rfl
@[simp] theorem State.modCohort_latent (s : State) (c k : Nat) (g : Cohort → Cohort) : (s.modCohort c k g).latent = s.latent := rfl
@[simp] theorem State.modCohort_hs (s : State) (c k : Nat) (g : Cohort → Cohort) : (s.modCohort c k g).hs = s.hs := rfl
@[simp] theorem State.modCohort_fabric (s : State) (c k : Nat) (g : Cohort → Cohort) : (s.modCohort c k g).fabric = s.fabric := rfl
@[simp] theorem State.modCohort_pcie (s : State) (c k : Nat) (g : Cohort → Cohort) : (s.modCohort c k g).pcie = s.pcie := rfl
@[simp] theorem State.modCohort_ports (s : State) (c k : Nat) (g : Cohort → Cohort) : (s.modCohort c k g).ports = s.ports := rfl
@[simp] theorem State.modCohort_edges (s : State) (c k : Nat) (g : Cohort → Cohort) : (s.modCohort c k g).edges = s.edges := rfl
@[simp] theorem State.modCohort_spares (s : State) (c k : Nat) (g : Cohort → Cohort) : (s.modCohort c k g).spares = s.spares := rfl
@[simp] theorem State.modCohort_saved (s : State) (c k : Nat) (g : Cohort → Cohort) : (s.modCohort c k g).saved = s.saved := rfl
@[simp] theorem State.modCohort_restoring (s : State) (c k : Nat) (g : Cohort → Cohort) : (s.modCohort c k g).restoring = s.restoring := rfl
@[simp] theorem State.modCohort_xfers (s : State) (c k : Nat) (g : Cohort → Cohort) : (s.modCohort c k g).xfers = s.xfers := rfl
@[simp] theorem State.modCohort_sigs (s : State) (c k : Nat) (g : Cohort → Cohort) : (s.modCohort c k g).sigs = s.sigs := rfl
@[simp] theorem State.modCohort_boot (s : State) (c k : Nat) (g : Cohort → Cohort) : (s.modCohort c k g).boot = s.boot := rfl
@[simp] theorem State.modCohort_core (s : State) (c k : Nat) (g : Cohort → Cohort) : (s.modCohort c k g).core = s.core := rfl
@[simp] theorem State.modCohort_msi (s : State) (c k : Nat) (g : Cohort → Cohort) : (s.modCohort c k g).msi = s.msi := rfl
@[simp] theorem State.modCohort_alerts (s : State) (c k : Nat) (g : Cohort → Cohort) : (s.modCohort c k g).alerts = s.alerts := rfl

/-! ### dropCohort -/

@[simp] theorem State.dropCohort_ptime (s : State) (c k : Nat) : (s.dropCohort c k).ptime = s.ptime := rfl
@[simp] theorem State.dropCohort_agenda (s : State) (c k : Nat) : (s.dropCohort c k).agenda = s.agenda := rfl
@[simp] theorem State.dropCohort_cur (s : State) (c k : Nat) : (s.dropCohort c k).cur = s.cur := rfl
@[simp] theorem State.dropCohort_free (s : State) (c k : Nat) : (s.dropCohort c k).free = s.free := rfl
@[simp] theorem State.dropCohort_mem (s : State) (c k : Nat) : (s.dropCohort c k).mem = s.mem := rfl
@[simp] theorem State.dropCohort_pois (s : State) (c k : Nat) : (s.dropCohort c k).pois = s.pois := rfl
@[simp] theorem State.dropCohort_regs (s : State) (c k : Nat) : (s.dropCohort c k).regs = s.regs := rfl
@[simp] theorem State.dropCohort_tl (s : State) (c k : Nat) : (s.dropCohort c k).tl = s.tl := rfl
@[simp] theorem State.dropCohort_queues (s : State) (c k : Nat) : (s.dropCohort c k).queues = s.queues := rfl
@[simp] theorem State.dropCohort_pkts (s : State) (c k : Nat) : (s.dropCohort c k).pkts = s.pkts := rfl
@[simp] theorem State.dropCohort_pktNext (s : State) (c k : Nat) : (s.dropCohort c k).pktNext = s.pktNext := rfl
@[simp] theorem State.dropCohort_tasks (s : State) (c k : Nat) : (s.dropCohort c k).tasks = s.tasks := rfl
@[simp] theorem State.dropCohort_seqNext (s : State) (c k : Nat) : (s.dropCohort c k).seqNext = s.seqNext := rfl
@[simp] theorem State.dropCohort_notices (s : State) (c k : Nat) : (s.dropCohort c k).notices = s.notices := rfl
@[simp] theorem State.dropCohort_placeNo (s : State) (c k : Nat) : (s.dropCohort c k).placeNo = s.placeNo := rfl
@[simp] theorem State.dropCohort_spaces (s : State) (c k : Nat) : (s.dropCohort c k).spaces = s.spaces := rfl
@[simp] theorem State.dropCohort_bumps (s : State) (c k : Nat) : (s.dropCohort c k).bumps = s.bumps := rfl
@[simp] theorem State.dropCohort_tlb (s : State) (c k : Nat) : (s.dropCohort c k).tlb = s.tlb := rfl
@[simp] theorem State.dropCohort_replays (s : State) (c k : Nat) : (s.dropCohort c k).replays = s.replays := rfl
@[simp] theorem State.dropCohort_mig (s : State) (c k : Nat) : (s.dropCohort c k).mig = s.mig := rfl
@[simp] theorem State.dropCohort_memattr (s : State) (c k : Nat) : (s.dropCohort c k).memattr = s.memattr := rfl
@[simp] theorem State.dropCohort_gbars (s : State) (c k : Nat) : (s.dropCohort c k).gbars = s.gbars := rfl
@[simp] theorem State.dropCohort_steps (s : State) (c k : Nat) : (s.dropCohort c k).steps = s.steps := rfl
@[simp] theorem State.dropCohort_over (s : State) (c k : Nat) : (s.dropCohort c k).limitRun = s.limitRun := rfl
@[simp] theorem State.dropCohort_lastInt (s : State) (c k : Nat) : (s.dropCohort c k).lastInt = s.lastInt := rfl
@[simp] theorem State.dropCohort_handlers (s : State) (c k : Nat) : (s.dropCohort c k).handlers = s.handlers := rfl
@[simp] theorem State.dropCohort_rrQueue (s : State) (c k : Nat) : (s.dropCohort c k).rrQueue = s.rrQueue := rfl
@[simp] theorem State.dropCohort_rdc (s : State) (c k : Nat) : (s.dropCohort c k).rdc = s.rdc := rfl
@[simp] theorem State.dropCohort_partials (s : State) (c k : Nat) : (s.dropCohort c k).partials = s.partials := rfl
@[simp] theorem State.dropCohort_repl (s : State) (c k : Nat) : (s.dropCohort c k).repl = s.repl := rfl
@[simp] theorem State.dropCohort_svt (s : State) (c k : Nat) : (s.dropCohort c k).svt = s.svt := rfl
@[simp] theorem State.dropCohort_dir (s : State) (c k : Nat) : (s.dropCohort c k).dir = s.dir := rfl
@[simp] theorem State.dropCohort_stalled (s : State) (c k : Nat) : (s.dropCohort c k).stalled = s.stalled := rfl
@[simp] theorem State.dropCohort_stallNo (s : State) (c k : Nat) : (s.dropCohort c k).stallNo = s.stallNo := rfl
@[simp] theorem State.dropCohort_l2 (s : State) (c k : Nat) : (s.dropCohort c k).l2 = s.l2 := rfl
@[simp] theorem State.dropCohort_pins (s : State) (c k : Nat) : (s.dropCohort c k).pins = s.pins := rfl
@[simp] theorem State.dropCohort_errs (s : State) (c k : Nat) : (s.dropCohort c k).errs = s.errs := rfl
@[simp] theorem State.dropCohort_sent (s : State) (c k : Nat) : (s.dropCohort c k).sent = s.sent := rfl
@[simp] theorem State.dropCohort_latent (s : State) (c k : Nat) : (s.dropCohort c k).latent = s.latent := rfl
@[simp] theorem State.dropCohort_hs (s : State) (c k : Nat) : (s.dropCohort c k).hs = s.hs := rfl
@[simp] theorem State.dropCohort_fabric (s : State) (c k : Nat) : (s.dropCohort c k).fabric = s.fabric := rfl
@[simp] theorem State.dropCohort_pcie (s : State) (c k : Nat) : (s.dropCohort c k).pcie = s.pcie := rfl
@[simp] theorem State.dropCohort_ports (s : State) (c k : Nat) : (s.dropCohort c k).ports = s.ports := rfl
@[simp] theorem State.dropCohort_edges (s : State) (c k : Nat) : (s.dropCohort c k).edges = s.edges := rfl
@[simp] theorem State.dropCohort_spares (s : State) (c k : Nat) : (s.dropCohort c k).spares = s.spares := rfl
@[simp] theorem State.dropCohort_saved (s : State) (c k : Nat) : (s.dropCohort c k).saved = s.saved := rfl
@[simp] theorem State.dropCohort_restoring (s : State) (c k : Nat) : (s.dropCohort c k).restoring = s.restoring := rfl
@[simp] theorem State.dropCohort_xfers (s : State) (c k : Nat) : (s.dropCohort c k).xfers = s.xfers := rfl
@[simp] theorem State.dropCohort_sigs (s : State) (c k : Nat) : (s.dropCohort c k).sigs = s.sigs := rfl
@[simp] theorem State.dropCohort_boot (s : State) (c k : Nat) : (s.dropCohort c k).boot = s.boot := rfl
@[simp] theorem State.dropCohort_core (s : State) (c k : Nat) : (s.dropCohort c k).core = s.core := rfl
@[simp] theorem State.dropCohort_msi (s : State) (c k : Nat) : (s.dropCohort c k).msi = s.msi := rfl
@[simp] theorem State.dropCohort_alerts (s : State) (c k : Nat) : (s.dropCohort c k).alerts = s.alerts := rfl

/-! ### setReg -/

@[simp] theorem State.setReg_ptime (s : State) (o : Nat) (v : DWord) : (s.setReg o v).ptime = s.ptime := rfl
@[simp] theorem State.setReg_agenda (s : State) (o : Nat) (v : DWord) : (s.setReg o v).agenda = s.agenda := rfl
@[simp] theorem State.setReg_cur (s : State) (o : Nat) (v : DWord) : (s.setReg o v).cur = s.cur := rfl
@[simp] theorem State.setReg_free (s : State) (o : Nat) (v : DWord) : (s.setReg o v).free = s.free := rfl
@[simp] theorem State.setReg_mem (s : State) (o : Nat) (v : DWord) : (s.setReg o v).mem = s.mem := rfl
@[simp] theorem State.setReg_pois (s : State) (o : Nat) (v : DWord) : (s.setReg o v).pois = s.pois := rfl
@[simp] theorem State.setReg_tl (s : State) (o : Nat) (v : DWord) : (s.setReg o v).tl = s.tl := rfl
@[simp] theorem State.setReg_queues (s : State) (o : Nat) (v : DWord) : (s.setReg o v).queues = s.queues := rfl
@[simp] theorem State.setReg_pkts (s : State) (o : Nat) (v : DWord) : (s.setReg o v).pkts = s.pkts := rfl
@[simp] theorem State.setReg_pktNext (s : State) (o : Nat) (v : DWord) : (s.setReg o v).pktNext = s.pktNext := rfl
@[simp] theorem State.setReg_tasks (s : State) (o : Nat) (v : DWord) : (s.setReg o v).tasks = s.tasks := rfl
@[simp] theorem State.setReg_seqNext (s : State) (o : Nat) (v : DWord) : (s.setReg o v).seqNext = s.seqNext := rfl
@[simp] theorem State.setReg_notices (s : State) (o : Nat) (v : DWord) : (s.setReg o v).notices = s.notices := rfl
@[simp] theorem State.setReg_placeNo (s : State) (o : Nat) (v : DWord) : (s.setReg o v).placeNo = s.placeNo := rfl
@[simp] theorem State.setReg_spaces (s : State) (o : Nat) (v : DWord) : (s.setReg o v).spaces = s.spaces := rfl
@[simp] theorem State.setReg_bumps (s : State) (o : Nat) (v : DWord) : (s.setReg o v).bumps = s.bumps := rfl
@[simp] theorem State.setReg_tlb (s : State) (o : Nat) (v : DWord) : (s.setReg o v).tlb = s.tlb := rfl
@[simp] theorem State.setReg_replays (s : State) (o : Nat) (v : DWord) : (s.setReg o v).replays = s.replays := rfl
@[simp] theorem State.setReg_mig (s : State) (o : Nat) (v : DWord) : (s.setReg o v).mig = s.mig := rfl
@[simp] theorem State.setReg_memattr (s : State) (o : Nat) (v : DWord) : (s.setReg o v).memattr = s.memattr := rfl
@[simp] theorem State.setReg_gbars (s : State) (o : Nat) (v : DWord) : (s.setReg o v).gbars = s.gbars := rfl
@[simp] theorem State.setReg_steps (s : State) (o : Nat) (v : DWord) : (s.setReg o v).steps = s.steps := rfl
@[simp] theorem State.setReg_over (s : State) (o : Nat) (v : DWord) : (s.setReg o v).limitRun = s.limitRun := rfl
@[simp] theorem State.setReg_lastInt (s : State) (o : Nat) (v : DWord) : (s.setReg o v).lastInt = s.lastInt := rfl
@[simp] theorem State.setReg_handlers (s : State) (o : Nat) (v : DWord) : (s.setReg o v).handlers = s.handlers := rfl
@[simp] theorem State.setReg_rrQueue (s : State) (o : Nat) (v : DWord) : (s.setReg o v).rrQueue = s.rrQueue := rfl
@[simp] theorem State.setReg_rdc (s : State) (o : Nat) (v : DWord) : (s.setReg o v).rdc = s.rdc := rfl
@[simp] theorem State.setReg_partials (s : State) (o : Nat) (v : DWord) : (s.setReg o v).partials = s.partials := rfl
@[simp] theorem State.setReg_repl (s : State) (o : Nat) (v : DWord) : (s.setReg o v).repl = s.repl := rfl
@[simp] theorem State.setReg_svt (s : State) (o : Nat) (v : DWord) : (s.setReg o v).svt = s.svt := rfl
@[simp] theorem State.setReg_dir (s : State) (o : Nat) (v : DWord) : (s.setReg o v).dir = s.dir := rfl
@[simp] theorem State.setReg_stalled (s : State) (o : Nat) (v : DWord) : (s.setReg o v).stalled = s.stalled := rfl
@[simp] theorem State.setReg_stallNo (s : State) (o : Nat) (v : DWord) : (s.setReg o v).stallNo = s.stallNo := rfl
@[simp] theorem State.setReg_l2 (s : State) (o : Nat) (v : DWord) : (s.setReg o v).l2 = s.l2 := rfl
@[simp] theorem State.setReg_pins (s : State) (o : Nat) (v : DWord) : (s.setReg o v).pins = s.pins := rfl
@[simp] theorem State.setReg_errs (s : State) (o : Nat) (v : DWord) : (s.setReg o v).errs = s.errs := rfl
@[simp] theorem State.setReg_sent (s : State) (o : Nat) (v : DWord) : (s.setReg o v).sent = s.sent := rfl
@[simp] theorem State.setReg_latent (s : State) (o : Nat) (v : DWord) : (s.setReg o v).latent = s.latent := rfl
@[simp] theorem State.setReg_hs (s : State) (o : Nat) (v : DWord) : (s.setReg o v).hs = s.hs := rfl
@[simp] theorem State.setReg_fabric (s : State) (o : Nat) (v : DWord) : (s.setReg o v).fabric = s.fabric := rfl
@[simp] theorem State.setReg_pcie (s : State) (o : Nat) (v : DWord) : (s.setReg o v).pcie = s.pcie := rfl
@[simp] theorem State.setReg_ports (s : State) (o : Nat) (v : DWord) : (s.setReg o v).ports = s.ports := rfl
@[simp] theorem State.setReg_edges (s : State) (o : Nat) (v : DWord) : (s.setReg o v).edges = s.edges := rfl
@[simp] theorem State.setReg_spares (s : State) (o : Nat) (v : DWord) : (s.setReg o v).spares = s.spares := rfl
@[simp] theorem State.setReg_saved (s : State) (o : Nat) (v : DWord) : (s.setReg o v).saved = s.saved := rfl
@[simp] theorem State.setReg_restoring (s : State) (o : Nat) (v : DWord) : (s.setReg o v).restoring = s.restoring := rfl
@[simp] theorem State.setReg_xfers (s : State) (o : Nat) (v : DWord) : (s.setReg o v).xfers = s.xfers := rfl
@[simp] theorem State.setReg_sigs (s : State) (o : Nat) (v : DWord) : (s.setReg o v).sigs = s.sigs := rfl
@[simp] theorem State.setReg_clusters (s : State) (o : Nat) (v : DWord) : (s.setReg o v).clusters = s.clusters := rfl
@[simp] theorem State.setReg_boot (s : State) (o : Nat) (v : DWord) : (s.setReg o v).boot = s.boot := rfl
@[simp] theorem State.setReg_core (s : State) (o : Nat) (v : DWord) : (s.setReg o v).core = s.core := rfl
@[simp] theorem State.setReg_msi (s : State) (o : Nat) (v : DWord) : (s.setReg o v).msi = s.msi := rfl
@[simp] theorem State.setReg_alerts (s : State) (o : Nat) (v : DWord) : (s.setReg o v).alerts = s.alerts := rfl

/-! ### setTimeline -/

@[simp] theorem State.setTimeline_ptime (s : State) (k : Nat) (x : Timeline) : (s.setTimeline k x).ptime = s.ptime := rfl
@[simp] theorem State.setTimeline_agenda (s : State) (k : Nat) (x : Timeline) : (s.setTimeline k x).agenda = s.agenda := rfl
@[simp] theorem State.setTimeline_cur (s : State) (k : Nat) (x : Timeline) : (s.setTimeline k x).cur = s.cur := rfl
@[simp] theorem State.setTimeline_free (s : State) (k : Nat) (x : Timeline) : (s.setTimeline k x).free = s.free := rfl
@[simp] theorem State.setTimeline_mem (s : State) (k : Nat) (x : Timeline) : (s.setTimeline k x).mem = s.mem := rfl
@[simp] theorem State.setTimeline_pois (s : State) (k : Nat) (x : Timeline) : (s.setTimeline k x).pois = s.pois := rfl
@[simp] theorem State.setTimeline_regs (s : State) (k : Nat) (x : Timeline) : (s.setTimeline k x).regs = s.regs := rfl
@[simp] theorem State.setTimeline_queues (s : State) (k : Nat) (x : Timeline) : (s.setTimeline k x).queues = s.queues := rfl
@[simp] theorem State.setTimeline_pkts (s : State) (k : Nat) (x : Timeline) : (s.setTimeline k x).pkts = s.pkts := rfl
@[simp] theorem State.setTimeline_pktNext (s : State) (k : Nat) (x : Timeline) : (s.setTimeline k x).pktNext = s.pktNext := rfl
@[simp] theorem State.setTimeline_tasks (s : State) (k : Nat) (x : Timeline) : (s.setTimeline k x).tasks = s.tasks := rfl
@[simp] theorem State.setTimeline_seqNext (s : State) (k : Nat) (x : Timeline) : (s.setTimeline k x).seqNext = s.seqNext := rfl
@[simp] theorem State.setTimeline_notices (s : State) (k : Nat) (x : Timeline) : (s.setTimeline k x).notices = s.notices := rfl
@[simp] theorem State.setTimeline_placeNo (s : State) (k : Nat) (x : Timeline) : (s.setTimeline k x).placeNo = s.placeNo := rfl
@[simp] theorem State.setTimeline_spaces (s : State) (k : Nat) (x : Timeline) : (s.setTimeline k x).spaces = s.spaces := rfl
@[simp] theorem State.setTimeline_bumps (s : State) (k : Nat) (x : Timeline) : (s.setTimeline k x).bumps = s.bumps := rfl
@[simp] theorem State.setTimeline_tlb (s : State) (k : Nat) (x : Timeline) : (s.setTimeline k x).tlb = s.tlb := rfl
@[simp] theorem State.setTimeline_replays (s : State) (k : Nat) (x : Timeline) : (s.setTimeline k x).replays = s.replays := rfl
@[simp] theorem State.setTimeline_mig (s : State) (k : Nat) (x : Timeline) : (s.setTimeline k x).mig = s.mig := rfl
@[simp] theorem State.setTimeline_memattr (s : State) (k : Nat) (x : Timeline) : (s.setTimeline k x).memattr = s.memattr := rfl
@[simp] theorem State.setTimeline_gbars (s : State) (k : Nat) (x : Timeline) : (s.setTimeline k x).gbars = s.gbars := rfl
@[simp] theorem State.setTimeline_steps (s : State) (k : Nat) (x : Timeline) : (s.setTimeline k x).steps = s.steps := rfl
@[simp] theorem State.setTimeline_over (s : State) (k : Nat) (x : Timeline) : (s.setTimeline k x).limitRun = s.limitRun := rfl
@[simp] theorem State.setTimeline_lastInt (s : State) (k : Nat) (x : Timeline) : (s.setTimeline k x).lastInt = s.lastInt := rfl
@[simp] theorem State.setTimeline_handlers (s : State) (k : Nat) (x : Timeline) : (s.setTimeline k x).handlers = s.handlers := rfl
@[simp] theorem State.setTimeline_rrQueue (s : State) (k : Nat) (x : Timeline) : (s.setTimeline k x).rrQueue = s.rrQueue := rfl
@[simp] theorem State.setTimeline_rdc (s : State) (k : Nat) (x : Timeline) : (s.setTimeline k x).rdc = s.rdc := rfl
@[simp] theorem State.setTimeline_partials (s : State) (k : Nat) (x : Timeline) : (s.setTimeline k x).partials = s.partials := rfl
@[simp] theorem State.setTimeline_repl (s : State) (k : Nat) (x : Timeline) : (s.setTimeline k x).repl = s.repl := rfl
@[simp] theorem State.setTimeline_svt (s : State) (k : Nat) (x : Timeline) : (s.setTimeline k x).svt = s.svt := rfl
@[simp] theorem State.setTimeline_dir (s : State) (k : Nat) (x : Timeline) : (s.setTimeline k x).dir = s.dir := rfl
@[simp] theorem State.setTimeline_stalled (s : State) (k : Nat) (x : Timeline) : (s.setTimeline k x).stalled = s.stalled := rfl
@[simp] theorem State.setTimeline_stallNo (s : State) (k : Nat) (x : Timeline) : (s.setTimeline k x).stallNo = s.stallNo := rfl
@[simp] theorem State.setTimeline_l2 (s : State) (k : Nat) (x : Timeline) : (s.setTimeline k x).l2 = s.l2 := rfl
@[simp] theorem State.setTimeline_pins (s : State) (k : Nat) (x : Timeline) : (s.setTimeline k x).pins = s.pins := rfl
@[simp] theorem State.setTimeline_errs (s : State) (k : Nat) (x : Timeline) : (s.setTimeline k x).errs = s.errs := rfl
@[simp] theorem State.setTimeline_sent (s : State) (k : Nat) (x : Timeline) : (s.setTimeline k x).sent = s.sent := rfl
@[simp] theorem State.setTimeline_latent (s : State) (k : Nat) (x : Timeline) : (s.setTimeline k x).latent = s.latent := rfl
@[simp] theorem State.setTimeline_hs (s : State) (k : Nat) (x : Timeline) : (s.setTimeline k x).hs = s.hs := rfl
@[simp] theorem State.setTimeline_fabric (s : State) (k : Nat) (x : Timeline) : (s.setTimeline k x).fabric = s.fabric := rfl
@[simp] theorem State.setTimeline_pcie (s : State) (k : Nat) (x : Timeline) : (s.setTimeline k x).pcie = s.pcie := rfl
@[simp] theorem State.setTimeline_ports (s : State) (k : Nat) (x : Timeline) : (s.setTimeline k x).ports = s.ports := rfl
@[simp] theorem State.setTimeline_edges (s : State) (k : Nat) (x : Timeline) : (s.setTimeline k x).edges = s.edges := rfl
@[simp] theorem State.setTimeline_spares (s : State) (k : Nat) (x : Timeline) : (s.setTimeline k x).spares = s.spares := rfl
@[simp] theorem State.setTimeline_saved (s : State) (k : Nat) (x : Timeline) : (s.setTimeline k x).saved = s.saved := rfl
@[simp] theorem State.setTimeline_restoring (s : State) (k : Nat) (x : Timeline) : (s.setTimeline k x).restoring = s.restoring := rfl
@[simp] theorem State.setTimeline_xfers (s : State) (k : Nat) (x : Timeline) : (s.setTimeline k x).xfers = s.xfers := rfl
@[simp] theorem State.setTimeline_sigs (s : State) (k : Nat) (x : Timeline) : (s.setTimeline k x).sigs = s.sigs := rfl
@[simp] theorem State.setTimeline_clusters (s : State) (k : Nat) (x : Timeline) : (s.setTimeline k x).clusters = s.clusters := rfl
@[simp] theorem State.setTimeline_boot (s : State) (k : Nat) (x : Timeline) : (s.setTimeline k x).boot = s.boot := rfl
@[simp] theorem State.setTimeline_core (s : State) (k : Nat) (x : Timeline) : (s.setTimeline k x).core = s.core := rfl
@[simp] theorem State.setTimeline_msi (s : State) (k : Nat) (x : Timeline) : (s.setTimeline k x).msi = s.msi := rfl
@[simp] theorem State.setTimeline_alerts (s : State) (k : Nat) (x : Timeline) : (s.setTimeline k x).alerts = s.alerts := rfl

/-! ### setQueue -/

@[simp] theorem State.setQueue_ptime (s : State) (q : Nat) (x : Queue) : (s.setQueue q x).ptime = s.ptime := rfl
@[simp] theorem State.setQueue_agenda (s : State) (q : Nat) (x : Queue) : (s.setQueue q x).agenda = s.agenda := rfl
@[simp] theorem State.setQueue_cur (s : State) (q : Nat) (x : Queue) : (s.setQueue q x).cur = s.cur := rfl
@[simp] theorem State.setQueue_free (s : State) (q : Nat) (x : Queue) : (s.setQueue q x).free = s.free := rfl
@[simp] theorem State.setQueue_mem (s : State) (q : Nat) (x : Queue) : (s.setQueue q x).mem = s.mem := rfl
@[simp] theorem State.setQueue_pois (s : State) (q : Nat) (x : Queue) : (s.setQueue q x).pois = s.pois := rfl
@[simp] theorem State.setQueue_regs (s : State) (q : Nat) (x : Queue) : (s.setQueue q x).regs = s.regs := rfl
@[simp] theorem State.setQueue_tl (s : State) (q : Nat) (x : Queue) : (s.setQueue q x).tl = s.tl := rfl
@[simp] theorem State.setQueue_pkts (s : State) (q : Nat) (x : Queue) : (s.setQueue q x).pkts = s.pkts := rfl
@[simp] theorem State.setQueue_pktNext (s : State) (q : Nat) (x : Queue) : (s.setQueue q x).pktNext = s.pktNext := rfl
@[simp] theorem State.setQueue_tasks (s : State) (q : Nat) (x : Queue) : (s.setQueue q x).tasks = s.tasks := rfl
@[simp] theorem State.setQueue_seqNext (s : State) (q : Nat) (x : Queue) : (s.setQueue q x).seqNext = s.seqNext := rfl
@[simp] theorem State.setQueue_notices (s : State) (q : Nat) (x : Queue) : (s.setQueue q x).notices = s.notices := rfl
@[simp] theorem State.setQueue_placeNo (s : State) (q : Nat) (x : Queue) : (s.setQueue q x).placeNo = s.placeNo := rfl
@[simp] theorem State.setQueue_spaces (s : State) (q : Nat) (x : Queue) : (s.setQueue q x).spaces = s.spaces := rfl
@[simp] theorem State.setQueue_bumps (s : State) (q : Nat) (x : Queue) : (s.setQueue q x).bumps = s.bumps := rfl
@[simp] theorem State.setQueue_tlb (s : State) (q : Nat) (x : Queue) : (s.setQueue q x).tlb = s.tlb := rfl
@[simp] theorem State.setQueue_replays (s : State) (q : Nat) (x : Queue) : (s.setQueue q x).replays = s.replays := rfl
@[simp] theorem State.setQueue_mig (s : State) (q : Nat) (x : Queue) : (s.setQueue q x).mig = s.mig := rfl
@[simp] theorem State.setQueue_memattr (s : State) (q : Nat) (x : Queue) : (s.setQueue q x).memattr = s.memattr := rfl
@[simp] theorem State.setQueue_gbars (s : State) (q : Nat) (x : Queue) : (s.setQueue q x).gbars = s.gbars := rfl
@[simp] theorem State.setQueue_steps (s : State) (q : Nat) (x : Queue) : (s.setQueue q x).steps = s.steps := rfl
@[simp] theorem State.setQueue_over (s : State) (q : Nat) (x : Queue) : (s.setQueue q x).limitRun = s.limitRun := rfl
@[simp] theorem State.setQueue_lastInt (s : State) (q : Nat) (x : Queue) : (s.setQueue q x).lastInt = s.lastInt := rfl
@[simp] theorem State.setQueue_handlers (s : State) (q : Nat) (x : Queue) : (s.setQueue q x).handlers = s.handlers := rfl
@[simp] theorem State.setQueue_rrQueue (s : State) (q : Nat) (x : Queue) : (s.setQueue q x).rrQueue = s.rrQueue := rfl
@[simp] theorem State.setQueue_rdc (s : State) (q : Nat) (x : Queue) : (s.setQueue q x).rdc = s.rdc := rfl
@[simp] theorem State.setQueue_partials (s : State) (q : Nat) (x : Queue) : (s.setQueue q x).partials = s.partials := rfl
@[simp] theorem State.setQueue_repl (s : State) (q : Nat) (x : Queue) : (s.setQueue q x).repl = s.repl := rfl
@[simp] theorem State.setQueue_svt (s : State) (q : Nat) (x : Queue) : (s.setQueue q x).svt = s.svt := rfl
@[simp] theorem State.setQueue_dir (s : State) (q : Nat) (x : Queue) : (s.setQueue q x).dir = s.dir := rfl
@[simp] theorem State.setQueue_stalled (s : State) (q : Nat) (x : Queue) : (s.setQueue q x).stalled = s.stalled := rfl
@[simp] theorem State.setQueue_stallNo (s : State) (q : Nat) (x : Queue) : (s.setQueue q x).stallNo = s.stallNo := rfl
@[simp] theorem State.setQueue_l2 (s : State) (q : Nat) (x : Queue) : (s.setQueue q x).l2 = s.l2 := rfl
@[simp] theorem State.setQueue_pins (s : State) (q : Nat) (x : Queue) : (s.setQueue q x).pins = s.pins := rfl
@[simp] theorem State.setQueue_errs (s : State) (q : Nat) (x : Queue) : (s.setQueue q x).errs = s.errs := rfl
@[simp] theorem State.setQueue_sent (s : State) (q : Nat) (x : Queue) : (s.setQueue q x).sent = s.sent := rfl
@[simp] theorem State.setQueue_latent (s : State) (q : Nat) (x : Queue) : (s.setQueue q x).latent = s.latent := rfl
@[simp] theorem State.setQueue_hs (s : State) (q : Nat) (x : Queue) : (s.setQueue q x).hs = s.hs := rfl
@[simp] theorem State.setQueue_fabric (s : State) (q : Nat) (x : Queue) : (s.setQueue q x).fabric = s.fabric := rfl
@[simp] theorem State.setQueue_pcie (s : State) (q : Nat) (x : Queue) : (s.setQueue q x).pcie = s.pcie := rfl
@[simp] theorem State.setQueue_ports (s : State) (q : Nat) (x : Queue) : (s.setQueue q x).ports = s.ports := rfl
@[simp] theorem State.setQueue_edges (s : State) (q : Nat) (x : Queue) : (s.setQueue q x).edges = s.edges := rfl
@[simp] theorem State.setQueue_spares (s : State) (q : Nat) (x : Queue) : (s.setQueue q x).spares = s.spares := rfl
@[simp] theorem State.setQueue_saved (s : State) (q : Nat) (x : Queue) : (s.setQueue q x).saved = s.saved := rfl
@[simp] theorem State.setQueue_restoring (s : State) (q : Nat) (x : Queue) : (s.setQueue q x).restoring = s.restoring := rfl
@[simp] theorem State.setQueue_xfers (s : State) (q : Nat) (x : Queue) : (s.setQueue q x).xfers = s.xfers := rfl
@[simp] theorem State.setQueue_sigs (s : State) (q : Nat) (x : Queue) : (s.setQueue q x).sigs = s.sigs := rfl
@[simp] theorem State.setQueue_clusters (s : State) (q : Nat) (x : Queue) : (s.setQueue q x).clusters = s.clusters := rfl
@[simp] theorem State.setQueue_boot (s : State) (q : Nat) (x : Queue) : (s.setQueue q x).boot = s.boot := rfl
@[simp] theorem State.setQueue_core (s : State) (q : Nat) (x : Queue) : (s.setQueue q x).core = s.core := rfl
@[simp] theorem State.setQueue_msi (s : State) (q : Nat) (x : Queue) : (s.setQueue q x).msi = s.msi := rfl
@[simp] theorem State.setQueue_alerts (s : State) (q : Nat) (x : Queue) : (s.setQueue q x).alerts = s.alerts := rfl

end Sys2Proof.Machine
end

