-- ==== Sys2Proof/Laws/Access.lean ====
section
/-!
SUPPORT. Laws/Access.lean: reads of lists, tables, clusters, teams, fibres and cohorts after the named updates.
-/
namespace Sys2Proof.Machine

/-! ### Lists -/

@[simp] theorem length_modAt {α : Type} (l : List α) (i : Nat) (g : α → α) : (modAt l i g).length = l.length := by
  induction l generalizing i with
  | nil => rfl
  | cons a t ih => cases i <;> simp [modAt, ih]

theorem getElem?_modAt {α : Type} (l : List α) (i j : Nat) (g : α → α) :
    (modAt l i g)[j]? = if j = i then l[j]?.map g else l[j]? := by
  induction l generalizing i j with
  | nil => simp [modAt]
  | cons a t ih =>
    cases i <;> cases j <;> simp [modAt, ih]

theorem atD_modAt_self {α : Type} (l : List α) (i : Nat) (g : α → α) (d : α) (h : i < l.length) :
    atD (modAt l i g) i d = g (atD l i d) := by
  rw [atD, List.getD_eq_getElem?_getD, getElem?_modAt]
  simp [atD, h]

theorem atD_modAt_ne {α : Type} (l : List α) {i j : Nat} (g : α → α) (d : α) (h : j ≠ i) :
    atD (modAt l i g) j d = atD l j d := by
  simp [atD, List.getD_eq_getElem?_getD, getElem?_modAt, h]

theorem atD_of_ge {α : Type} (l : List α) (i : Nat) (d : α) (h : l.length ≤ i) : atD l i d = d := by
  simp [atD, List.getD_eq_getElem?_getD, h]

theorem modAt_of_ge {α : Type} (l : List α) (i : Nat) (g : α → α) (h : l.length ≤ i) : modAt l i g = l := by
  induction l generalizing i with
  | nil => rfl
  | cons a t ih => cases i <;> simp_all [modAt]

/-! ### Clusters -/

@[simp] theorem State.length_modCl (s : State) (c : Nat) (g : Cluster → Cluster) :
    (s.modCl c g).clusters.length = s.clusters.length := by simp [State.modCl]

theorem State.cl_modCl (s : State) (c : Nat) (g : Cluster → Cluster) (h : c < s.clusters.length) :
    (s.modCl c g).cl c = g (s.cl c) := atD_modAt_self _ _ _ _ h

theorem State.cl_modCl_ne (s : State) {c d : Nat} (g : Cluster → Cluster) (h : d ≠ c) : (s.modCl c g).cl d = s.cl d :=
  atD_modAt_ne _ _ _ h

theorem State.modCl_of_ge (s : State) (c : Nat) (g : Cluster → Cluster) (h : s.clusters.length ≤ c) : s.modCl c g = s := by
  simp [State.modCl, modAt_of_ge _ _ _ h]

/-- A cluster whose cohorts or teams can be found is one of the package's. -/
theorem State.cohort?_lt {s : State} {c id : Nat} {k : Cohort} (h : s.cohort? c id = some k) : c < s.clusters.length := by
  by_cases hc : c < s.clusters.length
  · exact hc
  · simp [State.cohort?, State.cl, atD_of_ge _ _ _ (Nat.le_of_not_lt hc), Cluster.reset] at h

theorem State.team?_lt {s : State} {c k : Nat} {t : Team} (h : s.team? c k = some t) : c < s.clusters.length := by
  by_cases hc : c < s.clusters.length
  · exact hc
  · simp [State.team?, State.cl, atD_of_ge _ _ _ (Nat.le_of_not_lt hc), Cluster.reset] at h

/-! ### Teams -/

theorem find?_map_slot (l : List Team) (k j : Nat) (g : Team → Team) (hg : ∀ t, (g t).slot = t.slot) :
    (l.map fun t => if t.slot = k then g t else t).find? (fun t => t.slot == j)
      = (l.find? fun t => t.slot == j).map fun t => if t.slot = k then g t else t := by
  rw [List.find?_map]
  congr 1
  congr 1
  funext t
  simp only [Function.comp]
  by_cases h : t.slot = k <;> simp [h, hg]

theorem State.team?_modCl (s : State) (c d j : Nat) (g : Cluster → Cluster) (hg : ∀ k, (g k).teams = k.teams) :
    (s.modCl c g).team? d j = s.team? d j := by
  by_cases hd : d = c
  · subst hd
    by_cases hc : d < s.clusters.length
    · simp [State.team?, State.cl_modCl _ _ _ hc, hg]
    · rw [State.modCl_of_ge _ _ _ (Nat.le_of_not_lt hc)]
  · simp [State.team?, State.cl_modCl_ne _ _ hd]

theorem State.team?_modTeam (s : State) (c k j : Nat) (g : Team → Team) (hg : ∀ t, (g t).slot = t.slot) :
    (s.modTeam c k g).team? c j = (s.team? c j).map fun t => if t.slot = k then g t else t := by
  by_cases hc : c < s.clusters.length
  · simp only [State.team?, State.modTeam, State.cl_modCl _ _ _ hc]
    exact find?_map_slot _ _ _ _ hg
  · rw [State.modTeam, State.modCl_of_ge _ _ _ (Nat.le_of_not_lt hc)]
    simp [State.team?, State.cl, atD_of_ge _ _ _ (Nat.le_of_not_lt hc), Cluster.reset]

theorem State.team?_modTeam_cl_ne (s : State) {c d : Nat} (k j : Nat) (g : Team → Team) (h : d ≠ c) :
    (s.modTeam c k g).team? d j = s.team? d j := by
  simp [State.team?, State.modTeam, State.cl_modCl_ne _ _ h]

theorem State.team?_slot {s : State} {c k : Nat} {t : Team} (h : s.team? c k = some t) : t.slot = k := by
  have := List.find?_some h
  simpa using this

theorem State.team?_modTeam_self (s : State) (c k : Nat) (g : Team → Team) (hg : ∀ t, (g t).slot = t.slot) :
    (s.modTeam c k g).team? c k = (s.team? c k).map g := by
  rw [State.team?_modTeam _ _ _ _ _ hg]
  cases h : s.team? c k with
  | none => rfl
  | some t => simp [State.team?_slot h]

theorem State.team?_modTeam_ne (s : State) (c : Nat) {k j : Nat} (g : Team → Team) (hg : ∀ t, (g t).slot = t.slot)
    (hj : j ≠ k) : (s.modTeam c k g).team? c j = s.team? c j := by
  rw [State.team?_modTeam _ _ _ _ _ hg]
  cases h : s.team? c j with
  | none => rfl
  | some t =>
    have : t.slot ≠ k := by rw [State.team?_slot h]; exact hj
    simp [this]

/-! ### Cohorts -/

theorem find?_map_id (l : List Cohort) (k j : Nat) (g : Cohort → Cohort) (hg : ∀ t, (g t).id = t.id) :
    (l.map fun t => if t.id = k then g t else t).find? (fun t => t.id == j)
      = (l.find? fun t => t.id == j).map fun t => if t.id = k then g t else t := by
  rw [List.find?_map]
  congr 1
  congr 1
  funext t
  simp only [Function.comp]
  by_cases h : t.id = k <;> simp [h, hg]

theorem State.cohort?_id {s : State} {c k : Nat} {t : Cohort} (h : s.cohort? c k = some t) : t.id = k := by
  have := List.find?_some h
  simpa using this

theorem State.cohort?_modCl (s : State) (c d j : Nat) (g : Cluster → Cluster) (hg : ∀ k, (g k).cohorts = k.cohorts) :
    (s.modCl c g).cohort? d j = s.cohort? d j := by
  by_cases hd : d = c
  · subst hd
    by_cases hc : d < s.clusters.length
    · simp [State.cohort?, State.cl_modCl _ _ _ hc, hg]
    · rw [State.modCl_of_ge _ _ _ (Nat.le_of_not_lt hc)]
  · simp [State.cohort?, State.cl_modCl_ne _ _ hd]

theorem State.cohort?_modCohort (s : State) (c k j : Nat) (g : Cohort → Cohort) (hg : ∀ t, (g t).id = t.id) :
    (s.modCohort c k g).cohort? c j = (s.cohort? c j).map fun t => if t.id = k then g t else t := by
  by_cases hc : c < s.clusters.length
  · simp only [State.cohort?, State.modCohort, State.cl_modCl _ _ _ hc]
    exact find?_map_id _ _ _ _ hg
  · rw [State.modCohort, State.modCl_of_ge _ _ _ (Nat.le_of_not_lt hc)]
    simp [State.cohort?, State.cl, atD_of_ge _ _ _ (Nat.le_of_not_lt hc), Cluster.reset]

theorem State.cohort?_modCohort_self (s : State) (c k : Nat) (g : Cohort → Cohort) (hg : ∀ t, (g t).id = t.id) :
    (s.modCohort c k g).cohort? c k = (s.cohort? c k).map g := by
  rw [State.cohort?_modCohort _ _ _ _ _ hg]
  cases h : s.cohort? c k with
  | none => rfl
  | some t => simp [State.cohort?_id h]

theorem State.cohort?_modCohort_ne (s : State) (c : Nat) {k j : Nat} (g : Cohort → Cohort) (hg : ∀ t, (g t).id = t.id)
    (hj : j ≠ k) : (s.modCohort c k g).cohort? c j = s.cohort? c j := by
  rw [State.cohort?_modCohort _ _ _ _ _ hg]
  cases h : s.cohort? c j with
  | none => rfl
  | some t =>
    have : t.id ≠ k := by rw [State.cohort?_id h]; exact hj
    simp [this]

@[simp] theorem State.cohort?_modTeam (s : State) (c k d j : Nat) (g : Team → Team) :
    (s.modTeam c k g).cohort? d j = s.cohort? d j := State.cohort?_modCl _ _ _ _ _ fun _ => rfl
@[simp] theorem State.cohort?_modFibre (s : State) (c k h d j : Nat) (g : Fibre → Fibre) :
    (s.modFibre c k h g).cohort? d j = s.cohort? d j := State.cohort?_modTeam _ _ _ _ _ _
@[simp] theorem State.team?_modCohort (s : State) (c k d j : Nat) (g : Cohort → Cohort) :
    (s.modCohort c k g).team? d j = s.team? d j := State.team?_modCl _ _ _ _ _ fun _ => rfl
@[simp] theorem State.fibre_modCohort (s : State) (c k d j h : Nat) (g : Cohort → Cohort) :
    (s.modCohort c k g).fibre d j h = s.fibre d j h := by simp [State.fibre]

/-! ### Fibres -/

theorem Team.fibre_modFibre_ne (t : Team) {h j : Nat} (g : Fibre → Fibre) (hj : j ≠ h) : (t.modFibre h g).fibre j = t.fibre j :=
  atD_modAt_ne _ _ _ hj

theorem Team.fibre_modFibre_self (t : Team) (h : Nat) (g : Fibre → Fibre) (hl : h < t.fibres.length) :
    (t.modFibre h g).fibre h = g (t.fibre h) := atD_modAt_self _ _ _ _ hl

/-- A live fibre is one of its team's. -/
theorem Team.fibre_live_lt {t : Team} {h : Nat} (hl : (t.fibre h).live = true) : h < t.fibres.length := by
  by_cases hc : h < t.fibres.length
  · exact hc
  · simp [Team.fibre, atD_of_ge _ _ _ (Nat.le_of_not_lt hc), Fibre.blank] at hl

theorem State.fibre_modFibre_self (s : State) (c k h : Nat) (g : Fibre → Fibre) (hl : (s.fibre c k h).live = true) :
    (s.modFibre c k h g).fibre c k h = g (s.fibre c k h) := by
  unfold State.fibre at *
  rw [State.modFibre, State.team?_modTeam_self _ _ _ _ (by simp [Team.modFibre])]
  cases ht : s.team? c k with
  | none => simp [ht, Fibre.blank] at hl
  | some t =>
    simp only [ht, Option.map_some] at hl ⊢
    exact Team.fibre_modFibre_self _ _ _ (Team.fibre_live_lt hl)

theorem State.fibre_modFibre_ne (s : State) {c k h d j i : Nat} (g : Fibre → Fibre) (hn : ¬(d = c ∧ j = k ∧ i = h)) :
    (s.modFibre c k h g).fibre d j i = s.fibre d j i := by
  unfold State.fibre State.modFibre
  by_cases hd : d = c
  · subst hd
    by_cases hj : j = k
    · subst hj
      rw [State.team?_modTeam_self _ _ _ _ (by simp [Team.modFibre])]
      cases ht : s.team? d j with
      | none => rfl
      | some t => exact Team.fibre_modFibre_ne _ _ fun e => hn ⟨rfl, rfl, e⟩
    · rw [State.team?_modTeam_ne _ _ _ (by simp [Team.modFibre]) hj]
  · rw [State.team?_modTeam_cl_ne _ _ _ _ hd]

/-! ### Registers of a fibre -/

/-- vz reads as zero, full and unpoisoned (R203). -/
@[simp] theorem Fibre.reg_vz (f : Fibre) : f.reg 255 = VReg.of 0 := rfl
/-- p7 reads as true (R204). -/
@[simp] theorem Fibre.pred_p7 (f : Fibre) : f.pred 7 = ⟨true, none⟩ := rfl
@[simp] theorem Fibre.setReg_vz (f : Fibre) (r : VReg) : f.setReg 255 r = f := rfl
@[simp] theorem Fibre.setPred_p7 (f : Fibre) (r : Pred) : f.setPred 7 r = f := rfl

theorem Fibre.reg_setReg_ne (f : Fibre) {n m : Nat} (r : VReg) (h : m ≠ n) : (f.setReg n r).reg m = f.reg m := by
  unfold Fibre.setReg
  split
  · rfl
  · simp [Fibre.reg, atD_modAt_ne _ _ _ h]

theorem Fibre.reg_setReg_self (f : Fibre) (n : Nat) (r : VReg) (h : n < f.v.length) (hn : n ≠ 255) : (f.setReg n r).reg n = r := by
  simp [Fibre.setReg, Fibre.reg, hn, atD_modAt_self _ _ _ _ h]

end Sys2Proof.Machine
end

