-- ==== Sys2Proof/Laws/Arith.lean ====
section
/-!
SUPPORT. Laws/Arith.lean: the arithmetic helpers of the model in terms of bit vectors and integers.
-/
namespace Sys2Proof.Machine

theorem wrap_eq (w : Nat) (x : Int) : wrap w x = (BitVec.ofInt w x).toNat := by
  simp [wrap, BitVec.toNat_ofInt]

theorem sext_eq {w : Nat} (hw : 0 < w) (x : Nat) : sext w x = (BitVec.ofNat w x).toInt := by
  obtain ⟨k, rfl⟩ : ∃ k, w = k + 1 := ⟨w - 1, by omega⟩
  rw [sext, BitVec.toInt_eq_toNat_cond]
  simp only [BitVec.toNat_ofNat, Nat.add_sub_cancel]
  have h2 : 2 ^ (k + 1) = 2 * 2 ^ k := by rw [Nat.pow_succ]; omega
  have : (x % 2 ^ (k + 1) < 2 ^ k) ↔ (2 * (x % 2 ^ (k + 1)) < 2 ^ (k + 1)) := by omega
  simp only [this]
  split <;> simp

theorem asInt_eq {w : Nat} (hw : 0 < w) (u : Bool) (x : Nat) :
    asInt u w x = if u then ((BitVec.ofNat w x).toNat : Int) else (BitVec.ofNat w x).toInt := by
  cases u <;> simp [asInt, sext_eq hw]

/-- A signed or unsigned reading is congruent to the word modulo 2^w. -/
theorem ofInt_asInt {w : Nat} (hw : 0 < w) (u : Bool) (x : Nat) : BitVec.ofInt w (asInt u w x) = BitVec.ofNat w x := by
  rw [asInt_eq hw]
  cases u
  · simp
  · simp only [ite_true]
    rw [BitVec.ofInt_natCast, BitVec.ofNat_toNat]
    simp

theorem b2n_eq (b : Bool) : b2n b = b.toNat := by cases b <;> rfl

theorem fld_eq (x lo w : Nat) : fld x lo w = (x >>> lo) % 2 ^ w := by
  simp [fld, Nat.shiftRight_eq_div_pow]

theorem bitOf_eq (x i : Nat) : bitOf x i = x.testBit i := by
  simp [bitOf, Nat.testBit, Nat.shiftRight_eq_div_pow, Nat.one_and_eq_mod_two, bne, BEq.beq]
  rcases Nat.mod_two_eq_zero_or_one (x / 2 ^ i) with h | h <;> simp [h]

end Sys2Proof.Machine
end

