-- ==== Sys2Proof/Laws/Issue.lean ====
section
/-!
SUPPORT. Laws/Issue.lean: an attempt to issue, and the context it speaks of.
-/
namespace Sys2Proof.Machine

/-- An issue that nothing stands against is the instruction's own effect. -/
theorem State.issue_run {s t : State} {x : Ctx} {opc : Nat} {f : Fields} {e : Extra} (go : State → Iss → State)
    (hr : s.ready = some (t, x)) (hv : (t.iss x opc f e).verdict t e = .run) :
    s.issue opc f go e = .next (go t (t.iss x opc f e)) := by
  simp [State.issue, hr, hv]

/-- The instruction's own effect, from its arm. -/
theorem State.Issues.next {s t : State} {ins : Instr} {i : Iss} (h : s.Issues ins t i) {opc : Nat} {f : Fields}
    {go : State → Iss → State} (hp : ins.parts = some (opc, f)) (hx : exec ins s = s.issue opc f go (extraOf ins)) :
    exec ins s = .next (go t i) := by
  obtain ⟨⟨opc', f', x, hp', hr, rfl⟩, hv⟩ := h
  rw [hp] at hp'
  cases hp'
  rw [hx, State.issue_run go hr hv]

/-- The own effect of an instruction that computes each guarded fibre's result. -/
theorem State.Issues.alu {s t : State} {ins : Instr} {i : Iss} (h : s.Issues ins t i) {opc : Nat} {f : Fields}
    (hp : ins.parts = some (opc, f)) (res : Iss → Nat → Res) :
    s.alu opc f res (extraOf ins) = .next (t.gives i (res i)) := by
  obtain ⟨⟨opc', f', x, hp', hr, rfl⟩, hv⟩ := h
  rw [hp] at hp'
  cases hp'
  exact State.issue_run _ hr hv

/-! ### The context of an issue -/

theorem foldl_ind {α β : Type} (P : α → Prop) (g : α → β → α) (hg : ∀ a b, P a → P (g a b)) (l : List β) :
    ∀ a, P a → P (l.foldl g a) := by
  induction l with
  | nil => intro a h; exact h
  | cons b l ih => intro a h; exact ih _ (hg a b h)

theorem foldl_eq {α β γ : Type} (q : α → γ) (g : α → β → α) (hg : ∀ a b, q (g a b) = q a) (l : List β) (a : α) :
    q (l.foldl g a) = q a :=
  foldl_ind (fun x => q x = q a) g (fun x b h => by rw [hg, h]) l a rfl

@[simp] theorem Fibre.setReg_live (f : Fibre) (n : Nat) (r : VReg) : (f.setReg n r).live = f.live := by
  unfold Fibre.setReg; split <;> rfl
@[simp] theorem Fibre.setPred_live (f : Fibre) (n : Nat) (r : Pred) : (f.setPred n r).live = f.live := by
  unfold Fibre.setPred; split <;> rfl
@[simp] theorem Fibre.apply_live (f : Fibre) (d : Dst) : (f.apply d).live = f.live := by
  cases d <;> simp [Fibre.apply]

@[simp] theorem State.cohort?_unlatch (s : State) (c id d j : Nat) (rs : List Nat) :
    (s.unlatch c id rs).cohort? d j = s.cohort? d j := State.cohort?_modCl _ _ _ _ _ fun _ => rfl
@[simp] theorem State.team?_unlatch (s : State) (c id d j : Nat) (rs : List Nat) :
    (s.unlatch c id rs).team? d j = s.team? d j := State.team?_modCl _ _ _ _ _ fun _ => rfl

/-- The fields of a cohort that landing leaves. -/
theorem State.cohort?_land (s : State) (c id : Nat) (u : Option Nat) (k : Cohort) (h : s.cohort? c id = some k) :
    ∃ l, (s.land c id u).cohort? c id = some { k with late := l } := by
  cases u <;> simp only [State.land, h] <;> split
  all_goals first
    | exact ⟨k.late, h⟩
    | rw [State.cohort?_modCohort_self, State.cohort?_unlatch, State.cohort?_modTeam, foldl_eq (fun s : State => s.cohort? c id)]
      · exact ⟨_, by rw [h]; rfl⟩
      · intro a b; simp
      · intro t; rfl

theorem State.team?_modFibre_slot (s : State) (c k h j : Nat) (g : Fibre → Fibre) (t : Team)
    (ht : s.team? c j = some t) : ∃ fs, (s.modFibre c k h g).team? c j = some { t with fibres := fs } := by
  unfold State.modFibre
  rw [State.team?_modTeam _ _ _ _ _ (by simp [Team.modFibre]), ht]
  by_cases hk : t.slot = k
  · exact ⟨modAt t.fibres h g, by simp [hk, Team.modFibre]⟩
  · exact ⟨t.fibres, by simp [hk]⟩

@[simp] theorem Team.retag_slot (t : Team) (ws : List (Nat × Nat × VReg)) (g : Nat → Bool) : (t.retag ws g).slot = t.slot := rfl
@[simp] theorem Team.retag_fibres (t : Team) (ws : List (Nat × Nat × VReg)) (g : Nat → Bool) : (t.retag ws g).fibres = t.fibres := rfl

theorem State.team?_land (s : State) (c id : Nat) (u : Option Nat) (j : Nat) (t : Team) (h : s.team? c j = some t) :
    ∃ fs us, (s.land c id u).team? c j = some { t with fibres := fs, uni := us } := by
  cases hk : s.cohort? c id with
  | none => exact ⟨t.fibres, t.uni, by simp [State.land, hk, h]⟩
  | some k =>
    cases u <;> simp only [State.land, hk] <;> split
    all_goals first
    | exact ⟨t.fibres, t.uni, h⟩
    | rw [State.team?_modCohort, State.team?_unlatch, State.team?_modTeam _ _ _ _ _ (by simp)]
      rename_i hz
      generalize sortBy _ _ = l
      have hf := foldl_ind (fun a : State => ∃ fs, a.team? c j = some { t with fibres := fs })
        (fun s (l : Late) => s.modFibre c k.team l.fibre fun f => f.apply l.dst)
        (fun a b ⟨fs, ha⟩ => by
          obtain ⟨gs, hg⟩ := State.team?_modFibre_slot a c k.team b.fibre j (fun f => f.apply b.dst) _ ha
          exact ⟨gs, hg⟩) l s ⟨t.fibres, by simp [h]⟩
      obtain ⟨fs, hf⟩ := hf
      rw [hf]
      by_cases hs : t.slot = k.team
      · exact ⟨fs, _, by simp [hs, Team.retag]; rfl⟩
      · exact ⟨fs, t.uni, by simp [hs]⟩

theorem State.ready_of {s t : State} {x : Ctx} (h : s.ready = some (t, x)) :
    t.team? x.c x.co.team = some x.team ∧ t.cohort? x.c x.co.id = some x.co := by
  unfold State.ready State.ctx? State.ctxOf at h
  split at h
  · cases h
  · rename_i y hy
    simp only [Option.some.injEq, Prod.mk.injEq] at h
    obtain ⟨rfl, rfl⟩ := h
    split at hy
    · cases hy
    · rename_i p c id hcur
      split at hy
      · cases hy
      · rename_i co hco
        split at hy
        · cases hy
        · rename_i tm htm
          simp only at hy
          split at hy <;> split at hy
          all_goals first
            | (simp only [reduceCtorEq] at hy; done)
            | (cases hy
               have hid := State.cohort?_id hco
               obtain ⟨fs, us, hf⟩ := State.team?_land s c id (some co.dist) co.team tm htm
               obtain ⟨l, hl⟩ := State.cohort?_land s c id (some co.dist) co hco
               subst hid
               simp [Ctx.again, hf, hl])

theorem State.Attempts.of {s t : State} {ins : Instr} {i : Iss} (h : s.Attempts ins t i) : i.Of t := by
  obtain ⟨opc, f, x, _, hr, rfl⟩ := h
  exact ⟨(State.ready_of hr).1, (State.ready_of hr).2⟩

theorem State.Issues.of {s t : State} {ins : Instr} {i : Iss} (h : s.Issues ins t i) : i.Of t := h.1.of

end Sys2Proof.Machine
end

