-- ==== Sys2Proof/Laws/Exec.lean ====
section
/-!
SUPPORT. Laws/Exec.lean: every opcode's meaning is one attempt to issue under the common rules.
-/
namespace Sys2Proof.Machine

/-- The meaning of every opcode is its own effect behind the common rules of an issue. -/
theorem exec_issue (ins : Instr) (opc : Nat) (f : Fields) (h : ins.parts = some (opc, f)) :
    ∃ go, ∀ s, exec ins s = s.issue opc f go (extraOf ins) := by
  cases ins <;> first
    | cases h
      simp only [exec, extraOf, State.alu, State.aluVar,
      execIadd, execIsub, execImul, execImulh, execImad, execImadw, execIdiv, execIrem, execImin, execImax,
      execIabs, execIneg, execIaddc, execIsubb, execIset, execLea, execIdp4, execBop, execShl, execShr, execShra,
      execRot, execXtr, execIns, execOnes, execClz, execCtz, execFlip, execBsel, execFadd, execFmul, execFfma,
      execFmin, execFmax, execFset, execFclass, execFrnd, execFrcp, execFrsq, execFsqrt, execFdiv, execFexp2,
      execFlog2, execFsin, execFcos, execFtanh, execDadd, execDmul, execDfma, execDmin, execDmax, execDset,
      execDdiv, execDsqrt, execPkadd, execPkmul, execPkfma, execPkmin, execPkmax, execFdot2, execCvt, execMxq,
      execMxdq, execMov, execMovi, execSel, execS2v, execPset, execPlop, execP2v, execV2p, execVxld, execVxst,
      execBra, execBrx, execCall, execCallx, execRet, execLpad, execJmark, execJwait, execFork, execEnd, execYield,
      execSleep, execCsync, execJoin, execLeave, execBarArrive, execBarWait, execBarSync, execGbarArrive,
      execGbarWait, execShfl, execShflx, execBallot, execVote, execRedx, execScanx, execCdet, execSegred,
      execMatchx, execElect, execLd, execSt, execLdl, execPref, execAtom, execAtomc, execRed, execPhaseRel,
      execPhaseAcq, execPhaseFull, execPrivalias, execHclaim, execHfree, execHclr, execHins, execHprb, execHdel,
      execHacc, execHdrn, execHstat, execMma, execAccz, execAccld, execAccst, execTcopy, execTfill, execTlsig,
      execTlwait, execTlqry, execTspawn, execDlstep, execDlend, execDlqry, execNop, execSrd, execSwr, execTrap,
      execTret, execTabort, execPclr, execIcinv, execFencei, execBkpt, execWfi, execPerfrd]
      exact ⟨_, fun _ => rfl⟩
    | cases h

end Sys2Proof.Machine
end

