-- ==== Sys2Proof/Laws/Frame.lean ====
section
/-!
SUPPORT. Laws/Frame.lean: the frame of fixed-latency results is kept by each part of an issue and passes along a sequence.
-/
namespace Sys2Proof.Machine

theorem State.AluFrame.refl (s : State) (i : Iss) : s.AluFrame s i := by
  refine ⟨rfl, fun _ _ => rfl, ⟨fun _ _ => rfl, fun _ _ => rfl, fun _ _ => rfl⟩, rfl, fun u h => ⟨u, h, rfl⟩,
    fun k h => ⟨k, h, rfl, fun _ h => .inl h⟩, fun h => ⟨rfl, fun _ => rfl, fun _ => rfl, fun _ _ => rfl, fun _ _ _ => rfl,
    fun _ _ _ => rfl⟩⟩

theorem State.AluFrame.trans {s t u : State} {i : Iss} (h : s.AluFrame t i) (g : t.AluFrame u i) : s.AluFrame u i := by
  obtain ⟨h1, h2, ⟨h3, h4, h5⟩, h6, h7, h8, h9⟩ := h
  obtain ⟨g1, g2, ⟨g3, g4, g5⟩, g6, g7, g8, g9⟩ := g
  refine ⟨?_, fun o a => (g2 o a).trans (h2 o a), ⟨fun c hc => (g3 c hc).trans (h3 c hc),
    fun k hk => (g4 k hk).trans (h4 k hk), fun k hk => (g5 k hk).trans (h5 k hk)⟩, ?_, ?_, ?_, ?_⟩
  · unfold State.SameOutside at *
    rw [g1, h1]
  · unfold State.SameCluster at *
    rw [g6, h6]
  · intro a ha
    obtain ⟨b, hb, hb'⟩ := h7 a ha
    obtain ⟨c, hc, hc'⟩ := g7 b hb
    exact ⟨c, hc, by rw [hc', hb']⟩
  · intro a ha
    obtain ⟨b, hb, hb', hb''⟩ := h8 a ha
    obtain ⟨c, hc, hc', hc''⟩ := g8 b hb
    refine ⟨c, hc, by rw [hc', hb'], fun l hl => ?_⟩
    rcases hc'' l hl with hl | hl
    · exact hb'' l hl
    · exact .inr hl
  · intro x
    obtain ⟨a1, a2, a3, a4, a5, a6⟩ := h9 x
    obtain ⟨b1, b2, b3, b4, b5, b6⟩ := g9 x
    refine ⟨?_, fun h => (b2 h).trans (a2 h), fun h => ?_, fun n h => (b4 n h).trans (a4 n h),
      fun n h h' => (b5 n h h').trans (a5 n h h'), fun n h h' => (b6 n h h').trans (a6 n h h')⟩
    · rw [b1, a1]
    · rw [b3 h, a3 h]

theorem State.AluFrame.foldl {α : Type} {i : Iss} (g : State → α → State) (l : List α)
    (hg : ∀ a ∈ l, ∀ s : State, s.AluFrame (g s a) i) (s : State) : s.AluFrame (l.foldl g s) i := by
  induction l generalizing s with
  | nil => exact .refl _ _
  | cons a l ih =>
    exact (hg a (by simp) s).trans (ih (fun b hb => hg b (by simp [hb])) _)

/-! ### The parts -/

theorem State.fibre_modCl (s : State) (c d k h : Nat) (g : Cluster → Cluster) (hg : ∀ k, (g k).teams = k.teams) :
    (s.modCl c g).fibre d k h = s.fibre d k h := by
  simp [State.fibre, State.team?_modCl _ _ _ _ _ hg]

theorem State.SameFibre.of_eq {s t : State} {i : Iss} {h : Nat} (e : t.fibre i.cl i.slot h = s.fibre i.cl i.slot h) :
    s.SameFibre t i h := by
  simp [State.SameFibre, e]

/-- A cluster's own numbering and its slices' counts, latches and times. -/
theorem State.frame_modCl (s : State) (i : Iss) (n : Cluster → Nat) (u : Cluster → List Nat)
    (l : Cluster → List (List Latch)) (b : Cluster → List (Option Nat)) (y : Cluster → Option (Nat × Nat)) (z : Cluster → Nat) :
    s.AluFrame (s.modCl i.cl fun k => { k with nextId := n k, used := u k, latches := l k, busy := b k, turn := y k, xbar := z k }) i := by
  have ht : ∀ d j, State.team? (s.modCl i.cl fun k => { k with nextId := n k, used := u k, latches := l k, busy := b k, turn := y k, xbar := z k }) d j = s.team? d j :=
    fun d j => State.team?_modCl _ _ _ _ _ fun _ => rfl
  have hc : ∀ d j, State.cohort? (s.modCl i.cl fun k => { k with nextId := n k, used := u k, latches := l k, busy := b k, turn := y k, xbar := z k }) d j = s.cohort? d j :=
    fun d j => State.cohort?_modCl _ _ _ _ _ fun _ => rfl
  refine ⟨rfl, fun _ _ => rfl, ⟨fun c hc => State.cl_modCl_ne _ _ hc, fun _ _ => ht _ _, fun _ _ => hc _ _⟩, ?_,
    fun a ha => ⟨a, (ht _ _).trans ha, rfl⟩, fun a ha => ⟨a, (hc _ _).trans ha, rfl, fun _ h => .inl h⟩,
    fun h => .of_eq (State.fibre_modCl _ _ _ _ _ _ fun _ => rfl)⟩
  by_cases hl : i.cl < s.clusters.length
  · simp [State.SameCluster, State.cl_modCl _ _ _ hl]
  · rw [State.modCl_of_ge _ _ _ (Nat.le_of_not_lt hl)]
    rfl

/-- The issuing cohort's bookkeeping. -/
theorem State.frame_modCohort (s : State) (i : Iss) (g : Cohort → Cohort)
    (hg : ∀ k, g k = { k with
      issued := (g k).issued, late := (g k).late, dist := (g k).dist, rest := (g k).rest, blocked := (g k).blocked })
    (hl : ∀ k, ∀ l ∈ (g k).late, l ∈ k.late ∨ (l.fibre ∈ i.on ∧ l.dst.key ∈ i.destKeys l.fibre)) :
    s.AluFrame (s.modCohort i.cl i.x.co.id g) i := by
  have hid : ∀ k, (g k).id = k.id := fun k => by rw [hg]
  refine ⟨rfl, fun _ _ => rfl, ⟨fun c hc => State.cl_modCl_ne _ _ hc, fun _ _ => by simp,
    fun j hj => State.cohort?_modCohort_ne _ _ _ hid hj⟩, ?_, fun a ha => ⟨a, by simpa using ha, rfl⟩, ?_,
    fun h => .of_eq (by simp)⟩
  · by_cases hc : i.cl < s.clusters.length
    · simp [State.SameCluster, State.modCohort, State.cl_modCl _ _ _ hc]
    · rw [State.modCohort, State.modCl_of_ge _ _ _ (Nat.le_of_not_lt hc)]
      rfl
  · intro a ha
    exact ⟨g a, by rw [State.cohort?_modCohort_self _ _ _ _ hid, ha]; rfl, hg a, hl a⟩

/-- The issuing team's uniform tags and FPSTAT. -/
theorem State.frame_modTeam (s : State) (i : Iss) (g : Team → Team)
    (hg : ∀ t, g t = { t with uni := (g t).uni, fpstat := (g t).fpstat, fpset := (g t).fpset }) :
    s.AluFrame (s.modTeam i.cl i.slot g) i := by
  have hs : ∀ t, (g t).slot = t.slot := fun t => by rw [hg]
  have hf : ∀ t, (g t).fibres = t.fibres := fun t => by rw [hg]
  refine ⟨rfl, fun _ _ => rfl, ⟨fun c hc => State.cl_modCl_ne _ _ hc,
    fun j hj => State.team?_modTeam_ne _ _ _ hs hj, fun _ _ => by simp⟩, ?_, ?_,
    fun a ha => ⟨a, by simpa using ha, rfl, fun _ h => .inl h⟩, fun h => .of_eq ?_⟩
  · by_cases hc : i.cl < s.clusters.length
    · simp [State.SameCluster, State.modTeam, State.cl_modCl _ _ _ hc]
    · rw [State.modTeam, State.modCl_of_ge _ _ _ (Nat.le_of_not_lt hc)]
      rfl
  · intro a ha
    refine ⟨g a, by rw [State.team?_modTeam_self _ _ _ _ hs, ha]; rfl, ?_⟩
    rw [hf]
    exact hg a
  · unfold State.fibre
    rw [State.team?_modTeam_self _ _ _ _ hs]
    cases s.team? i.cl i.slot with
    | none => rfl
    | some t => simp [Team.fibre, hf]

/-- A fibre of the issuing team. -/
theorem State.frame_modFibre (s : State) (i : Iss) (h : Nat) (g : Fibre → Fibre)
    (hg : ∀ t : State, t.fibre i.cl i.slot h = g (s.fibre i.cl i.slot h) → s.SameFibre t i h) :
    s.AluFrame (s.modFibre i.cl i.slot h g) i := by
  refine ⟨rfl, fun _ _ => rfl, ⟨fun c hc => State.cl_modCl_ne _ _ hc,
    fun j hj => State.team?_modTeam_ne _ _ _ (by simp [Team.modFibre]) hj, fun _ _ => by simp⟩, ?_, ?_,
    fun a ha => ⟨a, by simpa using ha, rfl, fun _ h => .inl h⟩, ?_⟩
  · by_cases hc : i.cl < s.clusters.length
    · simp [State.SameCluster, State.modFibre, State.modTeam, State.cl_modCl _ _ _ hc]
    · rw [State.modFibre, State.modTeam, State.modCl_of_ge _ _ _ (Nat.le_of_not_lt hc)]
      rfl
  · intro a ha
    obtain ⟨fs, hf⟩ := State.team?_modFibre_slot s i.cl i.slot h i.slot g a ha
    exact ⟨_, hf, rfl⟩
  · intro j
    by_cases hj : j = h
    · subst hj
      by_cases hx : ∃ u, s.team? i.cl i.slot = some u ∧ j < u.fibres.length
      · obtain ⟨u, hu, hl⟩ := hx
        apply hg
        unfold State.fibre State.modFibre
        rw [State.team?_modTeam_self _ _ _ _ (by simp [Team.modFibre]), hu]
        exact Team.fibre_modFibre_self _ _ _ hl
      · apply State.SameFibre.of_eq
        unfold State.fibre State.modFibre
        rw [State.team?_modTeam_self _ _ _ _ (by simp [Team.modFibre])]
        cases hu : s.team? i.cl i.slot with
        | none => rfl
        | some u =>
          have hl : u.fibres.length ≤ j := Nat.le_of_not_lt fun hlt => hx ⟨u, hu, hlt⟩
          simp [Team.fibre, Team.modFibre, modAt_of_ge _ _ _ hl]
    · exact .of_eq (State.fibre_modFibre_ne _ _ (by rintro ⟨_, _, e⟩; exact hj e))

/-- A former's counter. -/
theorem State.frame_setReg (s : State) (i : Iss) (o : Nat) (v : DWord)
    (ho : o = clOff i.cl + 0x150) (hg : ∀ o', o' ≠ o → (s.setReg o v).reg o' = s.reg o') :
    s.AluFrame (s.setReg o v) i := by
  refine ⟨rfl, fun o' h1 => hg o' ?_, ⟨fun _ _ => rfl, fun _ _ => rfl, fun _ _ => rfl⟩, rfl, fun a ha => ⟨a, ha, rfl⟩,
    fun a ha => ⟨a, ha, rfl, fun _ h => .inl h⟩, fun _ => .of_eq rfl⟩
  rintro rfl
  exact h1 ho

/-! ### Registers of the package -/

theorem Tab.get_set_ne {α : Type} [DecidableEq α] (d d' : α) (t : Tab α) (k j : Nat) (v : α) (h : j ≠ k) :
    Tab.get d' (Tab.set d t k v) j = Tab.get d' t j := by
  induction t with
  | nil => simp only [Tab.set]; split <;> simp [Tab.get, h]
  | cons a t ih =>
    obtain ⟨k', v'⟩ := a
    simp only [Tab.set]
    split
    · split <;> simp [Tab.get, h]
    · split
      · subst_vars
        split <;> simp [Tab.get, h]
      · simp [Tab.get, ih]

@[simp] theorem State.reg_setReg_ne (s : State) {o p : Nat} (v : DWord) (h : p ≠ o) : (s.setReg o v).reg p = s.reg p :=
  Tab.get_set_ne _ _ _ _ _ _ h

theorem State.frame_countCl (s : State) (i : Iss) (n : Nat) : s.AluFrame (s.countCl i.cl 0x150 n) i := by
  unfold State.countCl
  split
  · unfold State.count
    refine State.frame_setReg _ _ _ _ rfl fun o' h => ?_
    exact State.reg_setReg_ne _ _ h
  · exact .refl _ _

/-! ### The issue -/

theorem State.frame_account (s : State) (i : Iss) : s.AluFrame (s.account i) i := by
  have number : ∀ x : State, x.AluFrame (x.modCl i.cl fun k => { k with nextId := k.nextId + 1 }) i := fun x =>
    State.frame_modCl x i (fun k => k.nextId + 1) (fun k => k.used) (fun k => k.latches) (fun k => k.busy) (fun k => k.turn) fun k => k.xbar
  have cohort : ∀ (x : State) (n : Nat) (r : Nat × Nat),
      x.AluFrame (x.modCohort i.cl i.x.co.id fun k => { k with issued := n, rest := r }) i := fun x n r =>
    State.frame_modCohort x i _ (fun _ => rfl) fun _ _ h => .inl h
  have slice : ∀ (x : State) (u : Cluster → List Nat) (l : Cluster → List (List Latch)) (y : Cluster → Option (Nat × Nat))
      (b : Cluster → List (Option Nat)) (z : Cluster → Nat),
      x.AluFrame (x.modCl i.cl fun k => { k with used := u k, latches := l k, xbar := z k, turn := y k, busy := b k }) i :=
    fun x u l y b z => State.frame_modCl x i (fun k => k.nextId) u l b y z
  have counts : ∀ (x : State) (m : Nat), x.AluFrame (if i.x.isMc then x else x.countCl i.cl 0x150 m) i := by
    intro x m
    split
    · exact .refl _ _
    · exact State.frame_countCl _ _ _
  unfold State.account State.fresh
  simp only
  exact ((number s).trans (cohort _ _ _)).trans ((slice _ _ _ _ _ _).trans (counts _ _))

theorem State.frame_orFlags (s : State) (i : Iss) (fl : Flags) : s.AluFrame (s.orFlags i.cl i.slot fl) i := by
  unfold State.orFlags
  split
  · exact .refl _ _
  · exact State.frame_modTeam _ _ _ fun _ => rfl

/-- A result written in a guarded fibre, its destination being one of the instruction's. -/
theorem Fibre.apply_same (f : Fibre) (d : Dst) :
    f.apply d = { f with v := (f.apply d).v, p := (f.apply d).p, x := (f.apply d).x } := by
  cases d <;> simp only [Fibre.apply, Fibre.setReg, Fibre.setPred] <;> split <;> rfl

theorem Fibre.reg_setPred (f : Fibre) (n m : Nat) (r : Pred) : (f.setPred n r).reg m = f.reg m := by
  unfold Fibre.setPred; split <;> rfl

theorem Fibre.pred_setReg (f : Fibre) (n m : Nat) (r : VReg) : (f.setReg n r).pred m = f.pred m := by
  unfold Fibre.setReg; split <;> rfl

theorem Fibre.pred_setPred_ne (f : Fibre) {n m : Nat} (r : Pred) (h : m % 8 ≠ n % 8) : (f.setPred n r).pred m = f.pred m := by
  unfold Fibre.setPred
  split
  · rfl
  · simp [Fibre.pred, atD_modAt_ne _ _ _ h]

theorem Fibre.reg_apply_ne (f : Fibre) (d : Dst) {n : Nat} (h : n ≠ d.key) : (f.apply d).reg n = f.reg n := by
  cases d with
  | v m r => exact Fibre.reg_setReg_ne _ _ h
  | p m r => exact Fibre.reg_setPred _ _ _ _
  | x m r => rfl

theorem Fibre.pred_apply_ne (f : Fibre) (d : Dst) {n : Nat} (h8 : n < 8) (h : 256 + n ≠ d.key) :
    (f.apply d).pred n = f.pred n := by
  cases d with
  | v m r => exact Fibre.pred_setReg _ _ _ _
  | p m r =>
    refine Fibre.pred_setPred_ne _ _ ?_
    simp only [Dst.key] at h
    omega
  | x m r => rfl

theorem Fibre.x_apply_ne (f : Fibre) (d : Dst) {n : Nat} (h : 264 + n ≠ d.key) :
    atD (f.apply d).x n 0 = atD f.x n 0 := by
  cases d with
  | v m r => simp only [Fibre.apply, Fibre.setReg]; split <;> rfl
  | p m r => simp only [Fibre.apply, Fibre.setPred]; split <;> rfl
  | x m r =>
    simp only [Dst.key] at h
    exact atD_modAt_ne _ _ _ (by omega)

/-- A guarded fibre takes results of the instruction's destinations. -/
theorem State.SameFibre.of_dsts (s t : State) (i : Iss) (h : Nat) (ds : List Dst) (hh : h ∈ i.on)
    (hd : ∀ d ∈ ds, d.key ∈ i.destKeys h)
    (e : t.fibre i.cl i.slot h = ds.foldl Fibre.apply (s.fibre i.cl i.slot h)) : s.SameFibre t i h := by
  have hfs : h ∈ i.x.fs := (List.mem_filter.mp hh).1
  simp only [State.SameFibre, e]
  refine ⟨?_, fun x => absurd hfs x, fun x => absurd hh x, fun n hn => ?_, fun n h8 hn => ?_, fun n h4 hn => ?_⟩
  · clear e hd
    generalize s.fibre i.cl i.slot h = a
    induction ds generalizing a with
    | nil => rfl
    | cons d ds ih => rw [List.foldl_cons, ih, Fibre.apply_same]
  all_goals
    clear e
    generalize s.fibre i.cl i.slot h = a
    induction ds generalizing a with
    | nil => rfl
    | cons d ds ih =>
      rw [List.foldl_cons, ih fun x hx => hd x (by simp [hx])]
      have hk := hd d (by simp)
      first
        | exact Fibre.reg_apply_ne _ _ fun e => hn (e ▸ hk)
        | exact Fibre.pred_apply_ne _ _ h8 fun e => hn (e ▸ hk)
        | exact Fibre.x_apply_ne _ _ fun e => hn (e ▸ hk)

/-- The keys of a vector destination are its registers. -/
theorem vecDsts_keys {regs : List Nat} {v : Nat} {p : Option Half} {d : Dst} (h : d ∈ vecDsts regs v p) : d.key ∈ regs := by
  simp only [vecDsts, List.mem_map, Prod.exists] at h
  obtain ⟨k, r, hm, rfl⟩ := h
  exact (List.of_mem_zip hm).2

theorem Iss.vec_keys {i : Iss} {h v : Nat} {p : Option Half} {d : Dst} (hd : d ∈ i.vec 0 h v p) : d.key ∈ i.destKeys h := by
  unfold Iss.vec at hd
  split at hd
  · rename_i u hu
    simp [Iss.destKeys, Iss.regsAt, hu, vecDsts_keys hd]
  · cases hd

/-- Results of guarded fibres, named by the instruction's destinations. -/
def Iss.Owns (i : Iss) (rs : List Res) : Prop := ∀ r ∈ rs, r.h ∈ i.on ∧ ∀ d ∈ r.dsts, d.key ∈ i.destKeys r.h

theorem State.frame_produce (s : State) (i : Iss) (rs : List Res) (hr : i.Owns rs) : s.AluFrame (s.produce i rs) i := by
  have h1 : ∀ r ∈ rs, ∀ s : State, s.AluFrame (match r.gen with
      | some g => (s.orFlags i.cl i.slot r.flags).modFibre i.cl i.slot r.h fun f => { f with gen := g }
      | none => s.orFlags i.cl i.slot r.flags) i := by
    intro r hm s
    have ho := (hr r hm).1
    have hfs : r.h ∈ i.x.fs := (List.mem_filter.mp ho).1
    split
    · refine (State.frame_orFlags s i r.flags).trans (State.frame_modFibre _ _ _ _ fun t e => ?_)
      unfold State.SameFibre
      rw [e]
      exact ⟨rfl, fun x => absurd hfs x, fun x => absurd ho x, fun _ _ => rfl, fun _ _ _ => rfl, fun _ _ _ => rfl⟩
    · exact State.frame_orFlags s i r.flags
  unfold State.produce
  simp only
  split
  · exact ((State.AluFrame.foldl _ rs h1 s).trans (State.AluFrame.foldl _ rs (fun r hm s =>
      State.frame_modFibre _ _ _ _ fun t e => State.SameFibre.of_dsts _ _ _ _ r.dsts (hr r hm).1 (hr r hm).2 e) _)).trans
      (State.frame_modTeam _ _ _ fun _ => rfl)
  · refine (State.AluFrame.foldl _ rs h1 s).trans (State.frame_modCohort _ _ _ (fun _ => rfl) fun k l hl => ?_)
    simp only [List.mem_append, List.mem_flatMap, List.mem_map] at hl
    rcases hl with hl | ⟨r, hm, d, hd, rfl⟩
    · exact .inl hl
    · exact .inr ⟨(hr r hm).1, (hr r hm).2 d hd⟩

theorem State.frame_goOn (s : State) (i : Iss) (st : Nat) (next : Nat → Addr) : s.AluFrame (s.goOn i.x st next) i := by
  unfold State.goOn State.passed
  refine (State.AluFrame.foldl _ _ (fun h hm s => ?_) s).trans
    (State.frame_modCohort _ _ _ (fun _ => rfl) fun _ _ h => .inl h)
  refine State.frame_modFibre s i h _ fun t e => ?_
  unfold State.SameFibre
  rw [e]
  exact ⟨rfl, fun x => absurd hm x, fun _ => rfl, fun _ _ => rfl, fun _ _ _ => rfl, fun _ _ _ => rfl⟩

/-- The frame of an issue that completes with results of its destinations. -/
theorem State.frame_finish (s : State) (i : Iss) (rs : List Res) (hr : i.Owns rs) : s.AluFrame (s.finish i rs) i :=
  ((State.frame_account s i).trans (State.frame_produce _ _ _ hr)).trans (State.frame_goOn _ _ _ _)

end Sys2Proof.Machine
end

