-- ==== Sys2Proof/Laws/Memory.lean ====
section
/-!
SUPPORT. Laws/Memory.lean: tables and the byte memory keep their canonical form and read what was written; every memory
operation and every register write keeps the invariant of the package.
-/
namespace Sys2Proof.Machine

/-! ### Tables -/

theorem Tab.wfFrom_mono {α : Type} [DecidableEq α] {d : Nat → α} {t : Tab α} {a b : Nat} (h : a ≤ b)
    (hw : Tab.wfFrom d b t = true) : Tab.wfFrom d a t = true := by
  cases t with
  | nil => rfl
  | cons p t =>
    simp only [Tab.wfFrom, Bool.and_eq_true, decide_eq_true_eq] at hw ⊢
    exact ⟨⟨by omega, hw.1.2⟩, hw.2⟩

/-- A key below the bound reads the default. -/
theorem Tab.get_of_lt {α : Type} [DecidableEq α] {d : Nat → α} {t : Tab α} {lo k : Nat} (e : α)
    (hw : Tab.wfFrom d lo t = true) (h : k < lo) : Tab.get e t k = e := by
  induction t generalizing lo with
  | nil => rfl
  | cons p t ih =>
    obtain ⟨k', v'⟩ := p
    simp only [Tab.wfFrom, Bool.and_eq_true, decide_eq_true_eq] at hw
    have : k ≠ k' := by omega
    simp only [Tab.get, if_neg this]
    exact ih hw.2 (by omega)

theorem Tab.get_set_self {α : Type} [DecidableEq α] {d : Nat → α} {t : Tab α} {lo : Nat} (k : Nat) (v : α)
    (hw : Tab.wfFrom d lo t = true) : Tab.get (d k) (Tab.set (d k) t k v) k = v := by
  induction t generalizing lo with
  | nil => by_cases hv : v = d k <;> simp [Tab.set, Tab.get, hv]
  | cons p t ih =>
    obtain ⟨k', v'⟩ := p
    simp only [Tab.wfFrom, Bool.and_eq_true, decide_eq_true_eq] at hw
    simp only [Tab.set]
    split
    · rename_i hk
      split
      · rename_i hv
        simp only [Tab.get, if_neg (Nat.ne_of_lt hk)]
        rw [Tab.get_of_lt (d k) hw.2 (by omega), hv]
      · simp [Tab.get]
    · split
      · rename_i hk
        subst hk
        split
        · rename_i hv
          rw [Tab.get_of_lt (d k) hw.2 (by omega), hv]
        · simp [Tab.get]
      · rename_i h1 h2
        simp only [Tab.get, if_neg h2]
        exact ih hw.2

theorem Tab.wfFrom_set {α : Type} [DecidableEq α] {d : Nat → α} {t : Tab α} {lo k : Nat} (v : α)
    (hw : Tab.wfFrom d lo t = true) (h : lo ≤ k) : Tab.wfFrom d lo (Tab.set (d k) t k v) = true := by
  induction t generalizing lo with
  | nil => by_cases hv : v = d k <;> simp [Tab.set, Tab.wfFrom, hv, h]
  | cons p t ih =>
    obtain ⟨k', v'⟩ := p
    have hw' := hw
    simp only [Tab.wfFrom, Bool.and_eq_true, decide_eq_true_eq] at hw
    simp only [Tab.set]
    split
    · split
      · exact hw'
      · rename_i hk hv
        simp only [Tab.wfFrom, Bool.and_eq_true, decide_eq_true_eq]
        exact ⟨⟨h, hv⟩, ⟨by omega, hw.1.2⟩, hw.2⟩
    · split
      · rename_i hk
        subst hk
        split
        · exact Tab.wfFrom_mono (by omega) hw.2
        · rename_i hv
          simp only [Tab.wfFrom, Bool.and_eq_true, decide_eq_true_eq]
          exact ⟨⟨h, hv⟩, hw.2⟩
      · rename_i h1 h2
        simp only [Tab.wfFrom, Bool.and_eq_true, decide_eq_true_eq]
        exact ⟨hw.1, ih hw.2 (by omega)⟩

theorem Tab.wf_set {α : Type} [DecidableEq α] {d : α} {t : Tab α} (k : Nat) (v : α) (hw : Tab.wf d t = true) :
    Tab.wf d (Tab.set d t k v) = true := Tab.wfFrom_set (d := fun _ => d) v hw (Nat.zero_le _)

/-- Entries taken out keep the canonical form. -/
theorem Tab.wfFrom_filter {α : Type} [DecidableEq α] {d : Nat → α} (p : Nat × α → Bool) {t : Tab α} {lo : Nat}
    (hw : Tab.wfFrom d lo t = true) : Tab.wfFrom d lo (t.filter p) = true := by
  induction t generalizing lo with
  | nil => rfl
  | cons x t ih =>
    obtain ⟨k, v⟩ := x
    simp only [Tab.wfFrom, Bool.and_eq_true, decide_eq_true_eq] at hw
    simp only [List.filter]
    split
    · simp only [Tab.wfFrom, Bool.and_eq_true, decide_eq_true_eq]
      exact ⟨hw.1, ih hw.2⟩
    · exact Tab.wfFrom_mono (by omega) (ih hw.2)

/-- A written entry reads as written, in a table of one default. -/
theorem Tab.get_set {α : Type} [DecidableEq α] {d : α} {t : Tab α} (k : Nat) (v : α) (hw : Tab.wf d t = true) :
    Tab.get d (Tab.set d t k v) k = v := Tab.get_set_self (d := fun _ => d) k v hw

/-! ### The byte memory -/

theorem Memory.wf_put {m : Memory} (a : Nat) (b : Byte) (h : m.wf = true) : (m.put a b).wf = true := Tab.wf_set a b h

theorem Memory.wf_putBytes {m : Memory} (a : Nat) (bs : List Byte) (h : m.wf = true) : (m.putBytes a bs).wf = true := by
  induction bs generalizing m a with
  | nil => exact h
  | cons b bs ih => exact ih _ (Memory.wf_put _ _ h)

theorem Memory.byte_put_self {m : Memory} (a : Nat) (b : Byte) (h : m.wf = true) : (m.put a b).byte a = b := Tab.get_set a b h

theorem Memory.byte_put_ne (m : Memory) {a c : Nat} (b : Byte) (h : c ≠ a) : (m.put a b).byte c = m.byte c :=
  Tab.get_set_ne _ _ _ _ _ _ h

theorem Memory.wf_puts {m : Memory} (cells : List (Nat × Byte)) (h : m.wf = true) :
    (cells.foldl (fun m c => m.put c.1 c.2) m).wf = true :=
  foldl_ind (fun m : Memory => m.wf = true) _ (fun _ _ h => Memory.wf_put _ _ h) cells m h

/-- Bytes elsewhere stay. -/
theorem Memory.byte_puts_ne (m : Memory) (cells : List (Nat × Byte)) (a : Nat) (h : ∀ c ∈ cells, c.1 ≠ a) :
    (cells.foldl (fun m c => m.put c.1 c.2) m).byte a = m.byte a := by
  induction cells generalizing m with
  | nil => rfl
  | cons c l ih =>
    rw [List.foldl_cons, ih _ fun x hx => h x (by simp [hx])]
    exact Memory.byte_put_ne _ _ (h c (by simp)).symm

/-! ### The invariant, operation by operation -/

theorem State.Inv.of_eq {s t : State} (h : s.Inv) (hm : t.mem = s.mem) (hr : t.regs = s.regs) : t.Inv := by
  unfold State.Inv at *
  rw [hm, hr]; exact h

theorem State.Inv.foldl {α : Type} (g : State → α → State) (hg : ∀ a b, State.Inv a → (g a b).Inv) (l : List α) {s : State}
    (h : s.Inv) : (l.foldl g s).Inv := foldl_ind State.Inv g hg l s h

theorem State.Inv.setReg {s : State} (h : s.Inv) (off : Nat) (v : DWord) : (s.setReg off v).Inv :=
  ⟨h.1, Tab.wfFrom_set v h.2 (Nat.zero_le _)⟩

/-- A register written reads as written, and every other one as before. -/
theorem State.reg_setReg {s : State} (h : regsWf s.regs = true) (off : Nat) (v : DWord) : (s.setReg off v).reg off = v :=
  Tab.get_set_self off v h

theorem State.Inv.setRegFld {s : State} (h : s.Inv) (off lo w v : Nat) : (s.setRegFld off lo w v).Inv := h.setReg _ _
theorem State.Inv.count {s : State} (h : s.Inv) (off n : Nat) : (s.count off n).Inv := h.setReg _ _
theorem State.Inv.countSat {s : State} (h : s.Inv) (off n : Nat) : (s.countSat off n).Inv := h.setReg _ _
theorem State.Inv.countCl {s : State} (h : s.Inv) (c r n : Nat) : (s.countCl c r n).Inv := by
  unfold State.countCl; split; exact h.count _ _; exact h
theorem State.Inv.regWritePlain {s : State} (h : s.Inv) (off v wm : Nat) : (s.regWritePlain off v wm).Inv := by
  unfold State.regWritePlain; split; exact h; exact h.setReg _ _

theorem State.Inv.l2Drop {s : State} (h : s.Inv) (gone : Nat → Bool) : (s.l2Drop gone).Inv := by
  unfold State.l2Drop
  dsimp only
  split
  · exact h
  · exact h.of_eq rfl rfl
theorem State.Inv.l2Trim {s : State} (h : s.Inv) (line : Nat) : (s.l2Trim line).Inv := by
  unfold State.l2Trim
  dsimp only
  repeat' split
  all_goals first
    | exact h
    | exact h.l2Drop _
theorem State.Inv.hbmRead {s : State} (h : s.Inv) (n : Nat) : (s.hbmRead n).Inv := by
  unfold State.hbmRead
  dsimp only
  repeat' split
  all_goals first
    | exact h
    | exact h.of_eq rfl rfl
theorem State.Inv.l2Read {s : State} (h : s.Inv) (n : Nat) : (s.l2Read n).Inv := by
  unfold State.l2Read
  split
  · exact h
  · refine State.Inv.l2Trim ?_ _
    exact State.Inv.of_eq (s := s.hbmRead n) (h.hbmRead n) rfl rfl
theorem State.Inv.l2Write {s : State} (h : s.Inv) (n : Nat) (whole : Bool) : (s.l2Write n whole).Inv := by
  unfold State.l2Write
  split
  · exact h
  · have h2 : State.Inv (if whole = true then s else s.l2Read n) := by split; exact h; exact h.l2Read n
    revert h2
    generalize (if whole = true then s else s.l2Read n) = u
    intro h2
    refine State.Inv.l2Trim ?_ _
    exact State.Inv.of_eq (s := u) h2 rfl rfl
theorem State.Inv.l2Writes {s : State} (h : s.Inv) (l : List Nat) (w : Nat → Bool) :
    (l.foldl (fun s n => s.l2Write n (w n)) s).Inv := State.Inv.foldl _ (fun _ n h => h.l2Write n (w n)) _ h

theorem State.Inv.putRaw {s : State} (h : s.Inv) (cells : List (Nat × Byte)) : (s.putRaw cells).Inv := by
  have h2 := h.l2Writes (sectorsOf (cells.map (·.1))) (coversSector (cells.map (·.1)))
  unfold State.putRaw
  dsimp only
  revert h2
  generalize List.foldl _ s _ = u
  intro h2
  exact ⟨Memory.wf_puts cells h2.1, h2.2⟩
theorem State.Inv.mergeOne {s : State} (h : s.Inv) (p : Partial) : (s.mergeOne p).Inv := by
  unfold State.mergeOne
  have h := h.l2Read (p.pa / 64)
  revert h
  generalize s.l2Read (p.pa / 64) = s
  intro h
  dsimp only
  repeat' split
  all_goals first
    | exact h.putRaw _
    | exact h
theorem State.Inv.mergeLine {s : State} (h : s.Inv) (line : Nat) (die : Option Nat) : (s.mergeLine line die).Inv := by
  cases die <;> (
    unfold State.mergeLine
    dsimp only
    split
    · exact h
    · exact State.Inv.foldl _ (fun _ _ h => h.mergeOne _) _ (h.of_eq rfl rfl))
theorem State.Inv.touch {s : State} (h : s.Inv) (pas : List Nat) : (s.touch pas).Inv := by
  unfold State.touch
  split
  · exact h
  · exact State.Inv.foldl _ (fun _ _ h => h.mergeLine _ _) _ h
theorem State.Inv.homePut {s : State} (h : s.Inv) (cells : List (Nat × Byte)) : (s.homePut cells).Inv := (h.touch _).putRaw _
theorem State.Inv.homePutVal {s : State} (h : s.Inv) (pa n v : Nat) : (s.homePutVal pa n v).Inv := h.homePut _
theorem State.Inv.homeVal {s : State} (h : s.Inv) (pa n : Nat) : (s.homeVal pa n).2.Inv := h.touch _
theorem State.Inv.setPois {s : State} (h : s.Inv) (k : Nat) (p : Bool) : (s.setPois k p).Inv := h.of_eq rfl rfl

theorem State.Inv.setPoisAll {s : State} (h : s.Inv) (l : List Nat) : (l.foldl (fun s k => s.setPois k true) s).Inv :=
  State.Inv.foldl _ (fun _ k h => h.setPois k true) _ h

theorem State.Inv.replFold {s : State} (h : s.Inv) : s.replFold.Inv := by
  have h2 := fun l => h.l2Writes (sectorsOf l) (coversSector l)
  unfold State.replFold
  dsimp only
  generalize List.flatMap _ _ = l
  have h2 := h2 l
  revert h2
  generalize List.foldl _ s _ = u
  intro h2
  exact ⟨foldl_ind (fun m : Memory => m.wf = true) _ (fun _ _ h => Memory.wf_puts _ h) _ _ h2.1, h2.2⟩
theorem State.Inv.replApply {s : State} (h : s.Inv) (d n : Nat) : (s.replApply d n).Inv :=
  State.Inv.replFold (h.of_eq rfl rfl)
theorem State.Inv.replPut {s : State} (h : s.Inv) (d : Nat) (cells : List (Nat × Byte)) : (s.replPut d cells).2.Inv := by
  unfold State.replPut
  dsimp only
  refine State.Inv.replApply ?_ _ _
  exact State.Inv.of_eq (s := s) h rfl rfl
theorem State.Inv.replCatchUp {s : State} (h : s.Inv) (pa : Nat) : (s.replCatchUp pa).Inv := h.replApply _ _

theorem State.Inv.modCl {s : State} (h : s.Inv) (c : Nat) (g : Cluster → Cluster) : (s.modCl c g).Inv := h.of_eq rfl rfl
theorem State.Inv.modTeam {s : State} (h : s.Inv) (c k : Nat) (g : Team → Team) : (s.modTeam c k g).Inv := h.modCl _ _
theorem State.Inv.modFibre {s : State} (h : s.Inv) (c k f : Nat) (g : Fibre → Fibre) : (s.modFibre c k f g).Inv := h.modTeam _ _ _
theorem State.Inv.modCohort {s : State} (h : s.Inv) (c k : Nat) (g : Cohort → Cohort) : (s.modCohort c k g).Inv := h.modCl _ _
theorem State.Inv.dropCohort {s : State} (h : s.Inv) (c k : Nat) : (s.dropCohort c k).Inv := h.modCl _ _

theorem State.Inv.dropPref {s : State} (h : s.Inv) (c : Nat) (gone : Nat → Bool) : (s.dropPref c gone).Inv := by
  unfold State.dropPref
  dsimp only
  split
  · exact h
  · exact (h.countCl _ _ _).modCl _ _
theorem State.Inv.dropCopies {s : State} (h : s.Inv) (c : Nat) (l : List Nat) : (s.dropCopies c l).Inv := by
  have h2 := h.dropPref c l.contains
  unfold State.dropCopies
  revert h2
  generalize s.dropPref c l.contains = u
  intro h2
  exact h2.of_eq rfl rfl
theorem State.Inv.demand {s : State} (h : s.Inv) (c no : Nat) : (s.demand c no).Inv := by
  unfold State.demand
  split
  · exact ((h.countCl _ _ _).countCl _ _ _).modCl _ _
  · exact h
theorem State.Inv.recall {s : State} (h : s.Inv) (by' : Option Nat) (pas : List Nat) : (s.recall by' pas).Inv := by
  unfold State.recall
  split
  · exact h
  · dsimp only
    refine State.Inv.foldl _ (fun _ _ h => h.mergeLine _ _) _ ?_
    exact h.of_eq rfl rfl
theorem State.Inv.homePutBy {s : State} (h : s.Inv) (cells : List (Nat × Byte)) : (s.homePutBy cells).Inv :=
  (h.recall _ _).homePut _
theorem State.Inv.stall {s : State} (h : s.Inv) (fn : Option Bool) (cells : List (Nat × Byte)) : (s.stall fn cells).Inv :=
  h.of_eq rfl rfl
theorem State.Inv.touchBy {s : State} (h : s.Inv) (by' : Option Nat) (pas : List Nat) : (s.touchBy by' pas).Inv :=
  (h.recall _ _).touch _
theorem State.Inv.homeWrite {s : State} (h : s.Inv) (cells : List (Nat × Byte)) : (s.homeWrite cells).Inv := by
  unfold State.homeWrite
  dsimp only
  split
  · exact h.homePutBy _
  · exact (h.stall _ _).homePutBy _
theorem State.Inv.barWrite {s : State} (h : s.Inv) (fn : Bool) (cells : List (Nat × Byte)) : (s.barWrite fn cells).Inv := by
  unfold State.barWrite
  split
  · exact h.stall _ _
  · exact h.homePutBy _
theorem State.Inv.unstall {s : State} (h : s.Inv) : s.unstall.Inv := by
  unfold State.unstall
  split
  · exact h
  · refine State.Inv.homePutBy ?_ _
    exact State.Inv.of_eq (s := s) h rfl rfl
theorem State.Inv.replFill {s : State} (h : s.Inv) (d pa : Nat) (repl : Bool) : (s.replFill d pa repl).Inv := by
  unfold State.replFill; split; exact h.replApply _ _; exact h
theorem State.Inv.fillSector {s : State} (h : s.Inv) (c no : Nat) (repl : Bool) : (s.fillSector c no repl).Inv := by
  unfold State.fillSector
  split
  · exact h
  · dsimp only
    cases s.rdcCopy c no repl with
    | some x => exact h.modCl _ _
    | none =>
      have h2 := (h.touchBy (some c) ((List.range 64).map (no * 64 + ·))).replFill (s.dieOf c) (no * 64) repl
      revert h2
      generalize State.replFill _ _ _ _ = u
      intro h2
      refine State.Inv.modCl ?_ _ _
      dsimp only
      split
      · exact h2
      · exact State.Inv.of_eq (s := u) h2 rfl rfl
theorem State.Inv.flush {s : State} (h : s.Inv) (c : Nat) (p : Nat → Nat → Bool) : (s.flush c p).Inv := by
  unfold State.flush
  dsimp only
  split
  · exact h
  · refine State.Inv.modCl ?_ _ _
    refine State.Inv.dropCopies ?_ _ _
    exact State.Inv.setPoisAll ((h.recall _ _).homePut _) _
theorem State.Inv.evictLine {s : State} (h : s.Inv) (c line : Nat) : (s.evictLine c line).Inv := by
  have h2 := ((h.flush c fun a _ => a / 256 == line).dropPref c fun n => n / 4 == line).modCl c fun k =>
    { k with clean := k.clean.filter fun x => x.no / 4 != line }
  unfold State.evictLine
  dsimp only
  generalize State.modCl _ _ _ = u at h2 ⊢
  split
  · exact h2
  · exact h2.of_eq rfl rfl
theorem State.Inv.l1Trim1 {s : State} (h : s.Inv) (c line : Nat) : (s.l1Trim1 c line).Inv := by
  unfold State.l1Trim1
  dsimp only
  split
  · exact h.evictLine _ _
  · exact h
theorem State.Inv.l1Trim {s : State} (h : s.Inv) (c line : Nat) : (s.l1Trim c line).Inv := by
  unfold State.l1Trim
  split
  · exact h
  · exact State.Inv.foldl _ (fun _ _ h => h.l1Trim1 _ _) _ h
theorem State.Inv.evictRdc {s : State} (h : s.Inv) (d line : Nat) : (s.evictRdc d line).Inv := by
  unfold State.evictRdc
  dsimp only
  repeat' split
  all_goals first
    | exact h
    | exact State.Inv.of_eq (h.mergeLine _ _) rfl rfl
    | exact h.of_eq rfl rfl
theorem State.Inv.rdcTrim {s : State} (h : s.Inv) (d line : Nat) : (s.rdcTrim d line).Inv := by
  unfold State.rdcTrim
  dsimp only
  repeat' split
  all_goals first
    | exact h
    | exact h.evictRdc _ _
theorem State.Inv.fill {s : State} (h : s.Inv) (c no : Nat) (repl : Bool) : (s.fill c no repl).Inv :=
  ((h.fillSector _ _ _).rdcTrim _ _).l1Trim _ _
theorem State.Inv.writebackAll {s : State} (h : s.Inv) (p : Nat → Nat → Bool) (q : Nat → Bool) : (s.writebackAll p q).Inv :=
  foldl_ind (fun a : State × List Nat => a.1.Inv) _ (fun a c h => by
    dsimp only
    split
    · exact h
    · exact (State.Inv.flush h _ _).countSat _ _) _ (_, []) (State.Inv.foldl _ (fun _ _ h => h.mergeLine _ _) _ h)
theorem State.Inv.acquire {s : State} (h : s.Inv) (c : Nat) : (s.acquire c).Inv := (h.dropPref _ _).modCl _ _
theorem State.Inv.l1Put {s : State} (h : s.Inv) (c asid : Nat) (cells : List (Nat × Byte)) : (s.l1Put c asid cells).Inv :=
  h.modCl _ _
theorem State.Inv.redPartial {s : State} (h : s.Inv) (d asid pa op : Nat) (v : DWord) : (s.redPartial d asid pa op v).Inv := by
  unfold State.redPartial
  dsimp only
  repeat' split
  all_goals first
    | exact h.of_eq rfl rfl
    | exact State.Inv.of_eq (h.mergeLine (pa / 256) (some d)) rfl rfl

theorem State.Inv.mcRaise {s : State} (h : s.Inv) (n : Nat) : (s.mcRaise n).Inv := h.setReg _ _
theorem State.Inv.raiseMsi {s : State} (h : s.Inv) (fn : Bool) (v : Nat) : (s.raiseMsi fn v).Inv := h.of_eq rfl rfl
theorem State.Inv.ringPut {s : State} (h : s.Inv) (base size : Nat) (ok phase : Bool) (tail head lost : Nat) (w : List Nat) :
    (s.ringPut base size ok phase tail head lost w).2.Inv := by
  unfold State.ringPut
  dsimp only
  split
  · exact h.countSat _ _
  · exact (h.homeWrite _).setReg _ _
theorem State.Inv.errLog {s : State} (h : s.Inv) (cls die unit index count addr detail : Nat) :
    (s.errLog cls die unit index count addr detail).Inv := h.ringPut _ _ _ _ _ _ _ _
theorem State.Inv.homeWriteVal {s : State} (h : s.Inv) (pa n v : Nat) : (s.homeWriteVal pa n v).Inv := h.homeWrite _
theorem State.Inv.errMemory {s : State} (h : s.Inv) (pa detail : Nat) : (s.errMemory pa detail).Inv :=
  (h.errLog _ _ _ _ _ _ _).mcRaise _
theorem State.Inv.errCorrected {s : State} (h : s.Inv) (die unit index addr detail : Nat) :
    (s.errCorrected die unit index addr detail).Inv := by
  unfold State.errCorrected
  refine State.Inv.mcRaise ?_ _
  generalize List.find? _ _ = r
  cases r with
  | some i => exact State.Inv.homeWriteVal h _ _ _
  | none => exact State.Inv.errLog h _ _ _ _ _ _ _
theorem State.Inv.logErrs {s : State} (h : s.Inv) (mine : Nat → Bool) : (s.logErrs mine).Inv := by
  unfold State.logErrs
  split
  · exact h
  · refine State.Inv.foldl _ (fun a x h => ?_) _ (h.of_eq rfl rfl)
    dsimp only
    repeat' split
    all_goals first
      | exact h
      | exact h.errMemory _ _
      | exact h.errCorrected _ _ _ _ _
theorem State.Inv.demandRead {s : State} (h : s.Inv) (pas : List Nat) : (s.demandRead pas).2.Inv :=
  State.Inv.of_eq ((State.Inv.foldl _ (fun _ _ h => h.l2Read _) (sectorsOf pas) h).logErrs _) rfl rfl
theorem State.Inv.demandHome {s : State} (h : s.Inv) (pas : List Nat) : (s.demandHome pas).Inv :=
  State.Inv.foldl _ (fun _ _ h => h.errMemory _ _) _ (h.demandRead pas)
theorem State.Inv.postNow {s : State} (h : s.Inv) (q : Option Nat) (src code i0 i1 : Nat) (intr : Bool) :
    (s.postNow q src code i0 i1 intr).Inv := by
  unfold State.postNow
  split
  · exact h.errLog _ _ _ _ _ _ _
  · dsimp only
    have h2 := (((h.demandHome [s.ringAt ‹Nat›]).homeVal (s.ringAt ‹Nat›) 8).homeVal (s.ringAt ‹Nat› + 8) 8)
    split
    · exact (h2.ringPut _ _ _ _ _ _ _ _).raiseMsi _ _
    · exact h2.ringPut _ _ _ _ _ _ _ _
theorem State.Inv.postAfter {s : State} (h : s.Inv) (seqs : List Nat) (q : Option Nat) (src code i0 i1 : Nat) (intr : Bool) :
    (s.postAfter seqs q src code i0 i1 intr).Inv := by
  unfold State.postAfter
  split
  · exact h.of_eq rfl rfl
  · exact h.postNow _ _ _ _ _ _
theorem State.Inv.postEvent {s : State} (h : s.Inv) (q : Option Nat) (src code i0 i1 : Nat) (intr : Bool) :
    (s.postEvent q src code i0 i1 intr).Inv := h.postAfter _ _ _ _ _ _ _

/-- Memory after reset lists nothing. -/
theorem State.reset_mem_wf : State.reset.mem.wf = true := rfl

end Sys2Proof.Machine
end

