-- ==== Sys2Proof/Laws/PerInstr.lean ====
section
/-!
SUPPORT. Laws/PerInstr.lean: what holds of each instruction as syntax, one lemma per constructor.
`Row`: an instruction with an opcode has the row of R288 that its opcode names, and the opcode lies below group F.
-/
namespace Sys2Proof.Laws.Row

/-- The opcode of an instruction is assigned (R288), below group F, and its row builds the instruction again. -/
def Statement (i : Instr) : Prop :=
  ∀ opc f, i.parts = some (opc, f) → opc < 0x3C0 ∧ ∃ r, opRow opc = some r ∧ r.opc = opc ∧ r.con f = i

/-- An instruction with no opcode of R288 (an event, an extension opcode) meets it with nothing to show. -/
theorem of_none {i : Instr} (h : i.parts = none) : Statement i := fun _ _ e => nomatch h.symm.trans e

/-- The instruction of an assigned opcode meets it. -/
theorem of_row {i : Instr} {opc : Nat} {f : Fields} (r : OpRow) (h : i.parts = some (opc, f)) (hl : opc < 0x3C0)
    (hr : opRow opc = some r) (ho : r.opc = opc) (hc : r.con f = i) : Statement i := by
  intro o g e
  cases h.symm.trans e
  exact ⟨hl, r, hr, ho, hc⟩

theorem iadd (f : Fields) : Statement (.iadd f) := of_row _ rfl (by decide) rfl rfl rfl
theorem isub (f : Fields) : Statement (.isub f) := of_row _ rfl (by decide) rfl rfl rfl
theorem imul (f : Fields) : Statement (.imul f) := of_row _ rfl (by decide) rfl rfl rfl
theorem imulh (f : Fields) : Statement (.imulh f) := of_row _ rfl (by decide) rfl rfl rfl
theorem imad (f : Fields) : Statement (.imad f) := of_row _ rfl (by decide) rfl rfl rfl
theorem imadw (f : Fields) : Statement (.imadw f) := of_row _ rfl (by decide) rfl rfl rfl
theorem idiv (f : Fields) : Statement (.idiv f) := of_row _ rfl (by decide) rfl rfl rfl
theorem irem (f : Fields) : Statement (.irem f) := of_row _ rfl (by decide) rfl rfl rfl
theorem imin (f : Fields) : Statement (.imin f) := of_row _ rfl (by decide) rfl rfl rfl
theorem imax (f : Fields) : Statement (.imax f) := of_row _ rfl (by decide) rfl rfl rfl
theorem iabs (f : Fields) : Statement (.iabs f) := of_row _ rfl (by decide) rfl rfl rfl
theorem ineg (f : Fields) : Statement (.ineg f) := of_row _ rfl (by decide) rfl rfl rfl
theorem iaddc (f : Fields) : Statement (.iaddc f) := of_row _ rfl (by decide) rfl rfl rfl
theorem isubb (f : Fields) : Statement (.isubb f) := of_row _ rfl (by decide) rfl rfl rfl
theorem iset (f : Fields) : Statement (.iset f) := of_row _ rfl (by decide) rfl rfl rfl
theorem lea (f : Fields) : Statement (.lea f) := of_row _ rfl (by decide) rfl rfl rfl
theorem idp4 (f : Fields) : Statement (.idp4 f) := of_row _ rfl (by decide) rfl rfl rfl
theorem bop (f : Fields) : Statement (.bop f) := of_row _ rfl (by decide) rfl rfl rfl
theorem shl (f : Fields) : Statement (.shl f) := of_row _ rfl (by decide) rfl rfl rfl
theorem shr (f : Fields) : Statement (.shr f) := of_row _ rfl (by decide) rfl rfl rfl
theorem shra (f : Fields) : Statement (.shra f) := of_row _ rfl (by decide) rfl rfl rfl
theorem rot (f : Fields) : Statement (.rot f) := of_row _ rfl (by decide) rfl rfl rfl
theorem xtr (f : Fields) : Statement (.xtr f) := of_row _ rfl (by decide) rfl rfl rfl
theorem ins (f : Fields) : Statement (.ins f) := of_row _ rfl (by decide) rfl rfl rfl
theorem ones (f : Fields) : Statement (.ones f) := of_row _ rfl (by decide) rfl rfl rfl
theorem clz (f : Fields) : Statement (.clz f) := of_row _ rfl (by decide) rfl rfl rfl
theorem ctz (f : Fields) : Statement (.ctz f) := of_row _ rfl (by decide) rfl rfl rfl
theorem flip (f : Fields) : Statement (.flip f) := of_row _ rfl (by decide) rfl rfl rfl
theorem bsel (f : Fields) : Statement (.bsel f) := of_row _ rfl (by decide) rfl rfl rfl
theorem fadd (f : Fields) : Statement (.fadd f) := of_row _ rfl (by decide) rfl rfl rfl
theorem fmul (f : Fields) : Statement (.fmul f) := of_row _ rfl (by decide) rfl rfl rfl
theorem ffma (f : Fields) : Statement (.ffma f) := of_row _ rfl (by decide) rfl rfl rfl
theorem fmin (f : Fields) : Statement (.fmin f) := of_row _ rfl (by decide) rfl rfl rfl
theorem fmax (f : Fields) : Statement (.fmax f) := of_row _ rfl (by decide) rfl rfl rfl
theorem fset (f : Fields) : Statement (.fset f) := of_row _ rfl (by decide) rfl rfl rfl
theorem fclass (f : Fields) : Statement (.fclass f) := of_row _ rfl (by decide) rfl rfl rfl
theorem frnd (f : Fields) : Statement (.frnd f) := of_row _ rfl (by decide) rfl rfl rfl
theorem frcp (f : Fields) : Statement (.frcp f) := of_row _ rfl (by decide) rfl rfl rfl
theorem frsq (f : Fields) : Statement (.frsq f) := of_row _ rfl (by decide) rfl rfl rfl
theorem fsqrt (f : Fields) : Statement (.fsqrt f) := of_row _ rfl (by decide) rfl rfl rfl
theorem fdiv (f : Fields) : Statement (.fdiv f) := of_row _ rfl (by decide) rfl rfl rfl
theorem fexp2 (f : Fields) : Statement (.fexp2 f) := of_row _ rfl (by decide) rfl rfl rfl
theorem flog2 (f : Fields) : Statement (.flog2 f) := of_row _ rfl (by decide) rfl rfl rfl
theorem fsin (f : Fields) : Statement (.fsin f) := of_row _ rfl (by decide) rfl rfl rfl
theorem fcos (f : Fields) : Statement (.fcos f) := of_row _ rfl (by decide) rfl rfl rfl
theorem ftanh (f : Fields) : Statement (.ftanh f) := of_row _ rfl (by decide) rfl rfl rfl
theorem dadd (f : Fields) : Statement (.dadd f) := of_row _ rfl (by decide) rfl rfl rfl
theorem dmul (f : Fields) : Statement (.dmul f) := of_row _ rfl (by decide) rfl rfl rfl
theorem dfma (f : Fields) : Statement (.dfma f) := of_row _ rfl (by decide) rfl rfl rfl
theorem dmin (f : Fields) : Statement (.dmin f) := of_row _ rfl (by decide) rfl rfl rfl
theorem dmax (f : Fields) : Statement (.dmax f) := of_row _ rfl (by decide) rfl rfl rfl
theorem dset (f : Fields) : Statement (.dset f) := of_row _ rfl (by decide) rfl rfl rfl
theorem ddiv (f : Fields) : Statement (.ddiv f) := of_row _ rfl (by decide) rfl rfl rfl
theorem dsqrt (f : Fields) : Statement (.dsqrt f) := of_row _ rfl (by decide) rfl rfl rfl
theorem pkadd (f : Fields) : Statement (.pkadd f) := of_row _ rfl (by decide) rfl rfl rfl
theorem pkmul (f : Fields) : Statement (.pkmul f) := of_row _ rfl (by decide) rfl rfl rfl
theorem pkfma (f : Fields) : Statement (.pkfma f) := of_row _ rfl (by decide) rfl rfl rfl
theorem pkmin (f : Fields) : Statement (.pkmin f) := of_row _ rfl (by decide) rfl rfl rfl
theorem pkmax (f : Fields) : Statement (.pkmax f) := of_row _ rfl (by decide) rfl rfl rfl
theorem fdot2 (f : Fields) : Statement (.fdot2 f) := of_row _ rfl (by decide) rfl rfl rfl
theorem cvt (f : Fields) : Statement (.cvt f) := of_row _ rfl (by decide) rfl rfl rfl
theorem mxq (f : Fields) : Statement (.mxq f) := of_row _ rfl (by decide) rfl rfl rfl
theorem mxdq (f : Fields) : Statement (.mxdq f) := of_row _ rfl (by decide) rfl rfl rfl
theorem mov (f : Fields) : Statement (.mov f) := of_row _ rfl (by decide) rfl rfl rfl
theorem movi (f : Fields) : Statement (.movi f) := of_row _ rfl (by decide) rfl rfl rfl
theorem sel (f : Fields) : Statement (.sel f) := of_row _ rfl (by decide) rfl rfl rfl
theorem s2v (f : Fields) : Statement (.s2v f) := of_row _ rfl (by decide) rfl rfl rfl
theorem pset (f : Fields) : Statement (.pset f) := of_row _ rfl (by decide) rfl rfl rfl
theorem plop (f : Fields) : Statement (.plop f) := of_row _ rfl (by decide) rfl rfl rfl
theorem p2v (f : Fields) : Statement (.p2v f) := of_row _ rfl (by decide) rfl rfl rfl
theorem v2p (f : Fields) : Statement (.v2p f) := of_row _ rfl (by decide) rfl rfl rfl
theorem vxld (f : Fields) : Statement (.vxld f) := of_row _ rfl (by decide) rfl rfl rfl
theorem vxst (f : Fields) : Statement (.vxst f) := of_row _ rfl (by decide) rfl rfl rfl
theorem bra (f : Fields) : Statement (.bra f) := of_row _ rfl (by decide) rfl rfl rfl
theorem brx (f : Fields) : Statement (.brx f) := of_row _ rfl (by decide) rfl rfl rfl
theorem call (f : Fields) : Statement (.call f) := of_row _ rfl (by decide) rfl rfl rfl
theorem callx (f : Fields) : Statement (.callx f) := of_row _ rfl (by decide) rfl rfl rfl
theorem ret (f : Fields) : Statement (.ret f) := of_row _ rfl (by decide) rfl rfl rfl
theorem lpad (f : Fields) : Statement (.lpad f) := of_row _ rfl (by decide) rfl rfl rfl
theorem jmark (f : Fields) : Statement (.jmark f) := of_row _ rfl (by decide) rfl rfl rfl
theorem jwait (f : Fields) : Statement (.jwait f) := of_row _ rfl (by decide) rfl rfl rfl
theorem fork (f : Fields) : Statement (.fork f) := of_row _ rfl (by decide) rfl rfl rfl
theorem endf (f : Fields) : Statement (.endf f) := of_row _ rfl (by decide) rfl rfl rfl
theorem yieldc (f : Fields) : Statement (.yieldc f) := of_row _ rfl (by decide) rfl rfl rfl
theorem sleep (f : Fields) : Statement (.sleep f) := of_row _ rfl (by decide) rfl rfl rfl
theorem csync (f : Fields) : Statement (.csync f) := of_row _ rfl (by decide) rfl rfl rfl
theorem join (f : Fields) : Statement (.join f) := of_row _ rfl (by decide) rfl rfl rfl
theorem leave (f : Fields) : Statement (.leave f) := of_row _ rfl (by decide) rfl rfl rfl
theorem barArrive (f : Fields) : Statement (.barArrive f) := of_row _ rfl (by decide) rfl rfl rfl
theorem barWait (f : Fields) : Statement (.barWait f) := of_row _ rfl (by decide) rfl rfl rfl
theorem barSync (f : Fields) : Statement (.barSync f) := of_row _ rfl (by decide) rfl rfl rfl
theorem gbarArrive (f : Fields) : Statement (.gbarArrive f) := of_row _ rfl (by decide) rfl rfl rfl
theorem gbarWait (f : Fields) : Statement (.gbarWait f) := of_row _ rfl (by decide) rfl rfl rfl
theorem shfl (f : Fields) : Statement (.shfl f) := of_row _ rfl (by decide) rfl rfl rfl
theorem shflx (f : Fields) : Statement (.shflx f) := of_row _ rfl (by decide) rfl rfl rfl
theorem ballot (f : Fields) : Statement (.ballot f) := of_row _ rfl (by decide) rfl rfl rfl
theorem vote (f : Fields) : Statement (.vote f) := of_row _ rfl (by decide) rfl rfl rfl
theorem redx (f : Fields) : Statement (.redx f) := of_row _ rfl (by decide) rfl rfl rfl
theorem scanx (f : Fields) : Statement (.scanx f) := of_row _ rfl (by decide) rfl rfl rfl
theorem cdet (f : Fields) : Statement (.cdet f) := of_row _ rfl (by decide) rfl rfl rfl
theorem segred (f : Fields) : Statement (.segred f) := of_row _ rfl (by decide) rfl rfl rfl
theorem matchx (f : Fields) : Statement (.matchx f) := of_row _ rfl (by decide) rfl rfl rfl
theorem elect (f : Fields) : Statement (.elect f) := of_row _ rfl (by decide) rfl rfl rfl
theorem ld (f : Fields) : Statement (.ld f) := of_row _ rfl (by decide) rfl rfl rfl
theorem st (f : Fields) : Statement (.st f) := of_row _ rfl (by decide) rfl rfl rfl
theorem ldl (f : Fields) : Statement (.ldl f) := of_row _ rfl (by decide) rfl rfl rfl
theorem pref (f : Fields) : Statement (.pref f) := of_row _ rfl (by decide) rfl rfl rfl
theorem atom (f : Fields) : Statement (.atom f) := of_row _ rfl (by decide) rfl rfl rfl
theorem atomc (f : Fields) : Statement (.atomc f) := of_row _ rfl (by decide) rfl rfl rfl
theorem red (f : Fields) : Statement (.red f) := of_row _ rfl (by decide) rfl rfl rfl
theorem phaseRel (f : Fields) : Statement (.phaseRel f) := of_row _ rfl (by decide) rfl rfl rfl
theorem phaseAcq (f : Fields) : Statement (.phaseAcq f) := of_row _ rfl (by decide) rfl rfl rfl
theorem phaseFull (f : Fields) : Statement (.phaseFull f) := of_row _ rfl (by decide) rfl rfl rfl
theorem privalias (f : Fields) : Statement (.privalias f) := of_row _ rfl (by decide) rfl rfl rfl
theorem hclaim (f : Fields) : Statement (.hclaim f) := of_row _ rfl (by decide) rfl rfl rfl
theorem hfree (f : Fields) : Statement (.hfree f) := of_row _ rfl (by decide) rfl rfl rfl
theorem hclr (f : Fields) : Statement (.hclr f) := of_row _ rfl (by decide) rfl rfl rfl
theorem hins (f : Fields) : Statement (.hins f) := of_row _ rfl (by decide) rfl rfl rfl
theorem hprb (f : Fields) : Statement (.hprb f) := of_row _ rfl (by decide) rfl rfl rfl
theorem hdel (f : Fields) : Statement (.hdel f) := of_row _ rfl (by decide) rfl rfl rfl
theorem hacc (f : Fields) : Statement (.hacc f) := of_row _ rfl (by decide) rfl rfl rfl
theorem hdrn (f : Fields) : Statement (.hdrn f) := of_row _ rfl (by decide) rfl rfl rfl
theorem hstat (f : Fields) : Statement (.hstat f) := of_row _ rfl (by decide) rfl rfl rfl
theorem mma (f : Fields) : Statement (.mma f) := of_row _ rfl (by decide) rfl rfl rfl
theorem accz (f : Fields) : Statement (.accz f) := of_row _ rfl (by decide) rfl rfl rfl
theorem accld (f : Fields) : Statement (.accld f) := of_row _ rfl (by decide) rfl rfl rfl
theorem accst (f : Fields) : Statement (.accst f) := of_row _ rfl (by decide) rfl rfl rfl
theorem tcopy (f : Fields) : Statement (.tcopy f) := of_row _ rfl (by decide) rfl rfl rfl
theorem tfill (f : Fields) : Statement (.tfill f) := of_row _ rfl (by decide) rfl rfl rfl
theorem tlsig (f : Fields) : Statement (.tlsig f) := of_row _ rfl (by decide) rfl rfl rfl
theorem tlwait (f : Fields) : Statement (.tlwait f) := of_row _ rfl (by decide) rfl rfl rfl
theorem tlqry (f : Fields) : Statement (.tlqry f) := of_row _ rfl (by decide) rfl rfl rfl
theorem tspawn (f : Fields) : Statement (.tspawn f) := of_row _ rfl (by decide) rfl rfl rfl
theorem dlstep (f : Fields) : Statement (.dlstep f) := of_row _ rfl (by decide) rfl rfl rfl
theorem dlend (f : Fields) : Statement (.dlend f) := of_row _ rfl (by decide) rfl rfl rfl
theorem dlqry (f : Fields) : Statement (.dlqry f) := of_row _ rfl (by decide) rfl rfl rfl
theorem nop (f : Fields) : Statement (.nop f) := of_row _ rfl (by decide) rfl rfl rfl
theorem srd (f : Fields) : Statement (.srd f) := of_row _ rfl (by decide) rfl rfl rfl
theorem swr (f : Fields) : Statement (.swr f) := of_row _ rfl (by decide) rfl rfl rfl
theorem trap (f : Fields) : Statement (.trap f) := of_row _ rfl (by decide) rfl rfl rfl
theorem tret (f : Fields) : Statement (.tret f) := of_row _ rfl (by decide) rfl rfl rfl
theorem tabort (f : Fields) : Statement (.tabort f) := of_row _ rfl (by decide) rfl rfl rfl
theorem pclr (f : Fields) : Statement (.pclr f) := of_row _ rfl (by decide) rfl rfl rfl
theorem icinv (f : Fields) : Statement (.icinv f) := of_row _ rfl (by decide) rfl rfl rfl
theorem fencei (f : Fields) : Statement (.fencei f) := of_row _ rfl (by decide) rfl rfl rfl
theorem bkpt (f : Fields) : Statement (.bkpt f) := of_row _ rfl (by decide) rfl rfl rfl
theorem wfi (f : Fields) : Statement (.wfi f) := of_row _ rfl (by decide) rfl rfl rfl
theorem perfrd (f : Fields) : Statement (.perfrd f) := of_row _ rfl (by decide) rfl rfl rfl
theorem extensionOpcode (len : Len) (slot : BitVec 6) (rest : BitVec 116) : Statement (.extensionOpcode len slot rest) := of_none rfl
theorem packetNop (q : Nat) : Statement (.packetNop q) := of_none rfl
theorem packetSkip (q : Nat) : Statement (.packetSkip q) := of_none rfl
theorem fence (q : Nat) : Statement (.fence q) := of_none rfl
theorem launchTask (q : Nat) : Statement (.launchTask q) := of_none rfl
theorem graphSubmit (q : Nat) : Statement (.graphSubmit q) := of_none rfl
theorem taskCtrlResume (q : Nat) : Statement (.taskCtrlResume q) := of_none rfl
theorem taskCtrlRelease (q : Nat) : Statement (.taskCtrlRelease q) := of_none rfl
theorem taskCtrlCancelChain (q : Nat) : Statement (.taskCtrlCancelChain q) := of_none rfl
theorem copy (q : Nat) : Statement (.copy q) := of_none rfl
theorem tlSignal (q : Nat) : Statement (.tlSignal q) := of_none rfl
theorem tlWait (q : Nat) : Statement (.tlWait q) := of_none rfl
theorem stepDeclare (q : Nat) : Statement (.stepDeclare q) := of_none rfl
theorem memAttr (q : Nat) : Statement (.memAttr q) := of_none rfl
theorem fenceComplete (q : Nat) : Statement (.fenceComplete q) := of_none rfl
theorem tlWaitComplete (q : Nat) : Statement (.tlWaitComplete q) := of_none rfl
theorem tlSignalFire (q : Nat) : Statement (.tlSignalFire q) := of_none rfl
theorem memAttrComplete (q : Nat) : Statement (.memAttrComplete q) := of_none rfl
theorem qtail (d : DoorFn) (q : Nat) (v : Word) : Statement (.qtail d q v) := of_none rfl
theorem qctlEnable (d : DoorFn) (q : Nat) : Statement (.qctlEnable d q) := of_none rfl
theorem qctlDisable (d : DoorFn) (q : Nat) : Statement (.qctlDisable d q) := of_none rfl
theorem qctlReset (d : DoorFn) (q : Nat) (enable : Bool) : Statement (.qctlReset d q enable) := of_none rfl
theorem functionLevelReset (d : DoorFn) : Statement (.functionLevelReset d) := of_none rfl
theorem vfAssignWrite (n : Nat) (ev : Bool) (v : DWord) : Statement (.vfAssignWrite n ev v) := of_none rfl
theorem taskDone (seq : Nat) : Statement (.taskDone seq) := of_none rfl
theorem condEvaluate (seq : Nat) : Statement (.condEvaluate seq) := of_none rfl
theorem loopIteration (seq : Nat) : Statement (.loopIteration seq) := of_none rfl
theorem teamPlacement (latency : Bool) (cl : Nat) : Statement (.teamPlacement latency cl) := of_none rfl
theorem teamResourceRelease (cl : Nat) (slot : Nat) : Statement (.teamResourceRelease cl slot) := of_none rfl
theorem cohortFormation (cl : Nat) : Statement (.cohortFormation cl) := of_none rfl
theorem splitThresholdExpiry (cl : Nat) (id : Nat) : Statement (.splitThresholdExpiry cl id) := of_none rfl
theorem sleepWake (cl : Nat) (id : Nat) : Statement (.sleepWake cl id) := of_none rfl
theorem yieldRelease (cl : Nat) (id : Nat) : Statement (.yieldRelease cl id) := of_none rfl
theorem gbarDieForward (die : Nat) (b : Nat) : Statement (.gbarDieForward die b) := of_none rfl
theorem gbarD0Arrival (die : Nat) (b : Nat) : Statement (.gbarD0Arrival die b) := of_none rfl
theorem gbarRelease (die : Nat) (b : Nat) : Statement (.gbarRelease die b) := of_none rfl
theorem gbCtlWrite (b : Nat) (off : Nat) (size : Nat) (v : DWord) : Statement (.gbCtlWrite b off size v) := of_none rfl
theorem loadDataArrival (cl : Nat) (k : Nat) : Statement (.loadDataArrival cl k) := of_none rfl
theorem variableResultArrival (cl : Nat) (k : Nat) : Statement (.variableResultArrival cl k) := of_none rfl
theorem caddyResultArrival (cl : Nat) (k : Nat) : Statement (.caddyResultArrival cl k) := of_none rfl
theorem phaseCompletion (cl : Nat) (k : Nat) : Statement (.phaseCompletion cl k) := of_none rfl
theorem matrixOpStart (leader : Nat) : Statement (.matrixOpStart leader) := of_none rfl
theorem matrixOpRetire (leader : Nat) : Statement (.matrixOpRetire leader) := of_none rfl
theorem transferRetire (k : Nat) : Statement (.transferRetire k) := of_none rfl
theorem transferAbort (k : Nat) : Statement (.transferAbort k) := of_none rfl
theorem tlValueWrite (die : Nat) (k : Nat) (v : DWord) : Statement (.tlValueWrite die k v) := of_none rfl
theorem tlErrvWrite (die : Nat) (k : Nat) (v : DWord) : Statement (.tlErrvWrite die k v) := of_none rfl
theorem intervalBoundary (g : GovInput) : Statement (.intervalBoundary g) := of_none rfl
theorem stepDeadline (slot : Nat) : Statement (.stepDeadline slot) := of_none rfl
theorem clockSwitch (cl : Nat) : Statement (.clockSwitch cl) := of_none rfl
theorem sliceRatioChange (cl : Nat) (slice : Nat) (ratio : Nat) : Statement (.sliceRatioChange cl slice ratio) := of_none rfl
theorem currentSample (die cl : Nat) (cur : Half) : Statement (.currentSample die cl cur) := of_none rfl
theorem budgetRefill (leader : Nat) : Statement (.budgetRefill leader) := of_none rfl
theorem clThrottleWrite (cl : Nat) (v : Word) : Statement (.clThrottleWrite cl v) := of_none rfl
theorem ascmdQuery (asid : BitVec 10) : Statement (.ascmdQuery asid) := of_none rfl
theorem ascmdActivate (asid : BitVec 10) : Statement (.ascmdActivate asid) := of_none rfl
theorem ascmdBump (asid : BitVec 10) : Statement (.ascmdBump asid) := of_none rfl
theorem ascmdRetire (asid : BitVec 10) : Statement (.ascmdRetire asid) := of_none rfl
theorem bumpComplete (k : Nat) : Statement (.bumpComplete k) := of_none rfl
theorem retireComplete : Statement (.retireComplete ) := of_none rfl
theorem rplDone (v : DWord) : Statement (.rplDone v) := of_none rfl
theorem pageWalkComplete (agent : Nat) (asid : Nat) (vpn : Nat) : Statement (.pageWalkComplete agent asid vpn) := of_none rfl
theorem migGo (v : Word) : Statement (.migGo v) := of_none rfl
theorem migrationComplete : Statement (.migrationComplete ) := of_none rfl
theorem l1Eviction (cl : Nat) (line : Nat) : Statement (.l1Eviction cl line) := of_none rfl
theorem replUpdateApply (die : Nat) : Statement (.replUpdateApply die) := of_none rfl
theorem patrolScrub (sector : Nat) (found : SectorState) : Statement (.patrolScrub sector found) := of_none rfl
theorem preemptRequest (cl : Nat) (slots : List Nat) : Statement (.preemptRequest cl slots) := of_none rfl
theorem contextSave (cl : Nat) (slot : Nat) : Statement (.contextSave cl slot) := of_none rfl
theorem teamRestore (k : Nat) (cl : Nat) : Statement (.teamRestore k cl) := of_none rfl
theorem accTileSave (k : Nat) : Statement (.accTileSave k) := of_none rfl
theorem clusterRetire (die : Nat) (loc : Nat) : Statement (.clusterRetire die loc) := of_none rfl
theorem l2SliceRetire (die : Nat) (slice : Nat) : Statement (.l2SliceRetire die slice) := of_none rfl
theorem hbmChannelSpare (die : Nat) (channel : Nat) : Statement (.hbmChannelSpare die channel) := of_none rfl
theorem hbmChannelSpareComplete (die : Nat) (channel : Nat) : Statement (.hbmChannelSpareComplete die channel) := of_none rfl
theorem meshEdgeLaneLoss (edge : Nat) : Statement (.meshEdgeLaneLoss edge) := of_none rfl
theorem meshEdgeFailure (edge : Nat) : Statement (.meshEdgeFailure edge) := of_none rfl
theorem meshFlitRetry (edge : Nat) : Statement (.meshFlitRetry edge) := of_none rfl
theorem pcieLinkDown (fn : Bool) : Statement (.pcieLinkDown fn) := of_none rfl
theorem pcieLinkUp (fn : Bool) : Statement (.pcieLinkUp fn) := of_none rfl
theorem ryndiPortLaneLoss (port : Nat) : Statement (.ryndiPortLaneLoss port) := of_none rfl
theorem ryndiPortLinkDown (port : Nat) : Statement (.ryndiPortLinkDown port) := of_none rfl
theorem ryndiFlitReceive (port : Nat) (vc : Nat) (crcOk : Bool) (slots : List (List Byte)) : Statement (.ryndiFlitReceive port vc crcOk slots) := of_none rfl
theorem fabricReductionArrival (tx : RedTx) : Statement (.fabricReductionArrival tx) := of_none rfl
theorem peerWriteArrival (pa : Nat) (bytes : List Byte) : Statement (.peerWriteArrival pa bytes) := of_none rfl
theorem bar4Write (fn : Bool) (pa : Nat) (bytes : List Byte) : Statement (.bar4Write fn pa bytes) := of_none rfl
theorem packageReset (b : BootInput) : Statement (.packageReset b) := of_none rfl
theorem bootctlGo (v : Word) : Statement (.bootctlGo v) := of_none rfl
theorem attgo (v : Word) : Statement (.attgo v) := of_none rfl
theorem attestationComplete : Statement (.attestationComplete ) := of_none rfl
theorem certData : Statement (.certData ) := of_none rfl
theorem mcInterruptEntry : Statement (.mcInterruptEntry ) := of_none rfl
theorem thermalAlert (die : Nat) (n : Nat) (temp : Half) : Statement (.thermalAlert die n temp) := of_none rfl
theorem mcHbeat (v : Word) : Statement (.mcHbeat v) := of_none rfl
theorem heartbeatExpiry : Statement (.heartbeatExpiry ) := of_none rfl
theorem errlogW3 (v : DWord) : Statement (.errlogW3 v) := of_none rfl
theorem dbgBkResume (cl : Nat) (v : DWord) : Statement (.dbgBkResume cl v) := of_none rfl
theorem registerWrite (place : RegPlace) (size : Nat) (v : DWord) : Statement (.registerWrite place size v) := of_none rfl
theorem ryndiPortReturnToService (port : Nat) : Statement (.ryndiPortReturnToService port) := of_none rfl
theorem tempFallBelowLo (die : Nat) (temps : List (Nat × Option Half)) : Statement (.tempFallBelowLo die temps) := of_none rfl
theorem l2SliceRemap (die : Nat) (slice : Nat) : Statement (.l2SliceRemap die slice) := of_none rfl
theorem copyComplete (seq : Nat) : Statement (.copyComplete seq) := of_none rfl

end Sys2Proof.Laws.Row
end

