-- ==== Sys2Proof/Machine/Object.lean ====
section
/-!
DEFINITION. Machine/Object.lean: what the loader makes of an object file: its header, sections, symbols, team records and
relocations (R306 to R309), the code and data it places (R310), the interlock bit it sets (R298), and the TCB fields that the
runtime takes from a team record (R308).
-/
namespace Sys2Proof.Machine

/-! ### The file (R306 to R309) -/

/-- TYPE of a section. -/
inductive SectType where
  | text
  | data
  | symtab
  | strtab
  | reloc
  | teams
deriving DecidableEq, Repr

def sectType (n : Nat) : Option SectType :=
  match n with
  | 1 => some .text
  | 2 => some .data
  | 3 => some .symtab
  | 4 => some .strtab
  | 5 => some .reloc
  | 6 => some .teams
  | _ => none

/-- A section with its bytes. -/
structure Section where
  type  : SectType
  align : Nat
  link  : Nat
  bytes : List Byte
deriving DecidableEq, Repr

/-- Binding and kind of a symbol. -/
structure Symbol where
  name   : List Byte
  sect   : Nat
  global : Bool
  kind   : Nat            -- 0 data, 1 function, 2 entry
  value  : Nat
  size   : Nat
deriving DecidableEq, Repr

/-- A relocation with the section it applies to. -/
structure Reloc where
  sect   : Nat
  offset : Nat
  symbol : Nat
  type   : Nat
  addend : Int
deriving DecidableEq, Repr

/-- A team record (R308): the entry's symbol, ETAG, and the images of TCB bytes 48 to 55 and 56 to 63. -/
structure TeamRec where
  symbol : Nat
  etag   : Nat
  image0 : Nat
  image1 : Nat
deriving DecidableEq, Repr

/-- An object file. -/
structure ObjFile where
  stepping : Nat
  sections : List Section
  symbols  : List Symbol
  relocs   : List Reloc
  teams    : List TeamRec
deriving DecidableEq, Repr

/-- The n little-endian bytes at an offset as a number (R306). -/
def leAt (bs : List Byte) (off n : Nat) : Nat := leVal ((bs.drop off).take n)

/-- The bytes of a name, up to a zero byte (log entry 126). -/
def nameAt (bs : List Byte) (off : Nat) : List Byte := (bs.drop off).takeWhile (· != 0)

/-- The pieces of n bytes that a table holds. -/
def entries (bs : List Byte) (n : Nat) : List (List Byte) := (List.range (bs.length / n)).map fun i => (bs.drop (n * i)).take n

/-- A section header and the bytes it names. -/
def readSection (file : List Byte) (h : List Byte) : Option Section :=
  let a := leAt h 4 4
  let off := leAt h 8 8
  let n := leAt h 16 8
  match sectType (leAt h 0 4) with
  | some t =>
    if a = 2 ^ a.log2 ∧ off + n ≤ file.length ∧ (t = .text → 32 ≤ a) then some ⟨t, a, leAt h 24 8, (file.drop off).take n⟩
    else none
  | none => none

/-- A symbol entry. -/
def readSymbol (strs e : List Byte) : Symbol :=
  ⟨nameAt strs (leAt e 0 4), leAt e 4 2, leAt e 6 1 != 0, leAt e 7 1, leAt e 8 8, leAt e 16 8⟩

/-- A relocation entry of a RELOC section. -/
def readReloc (link : Nat) (e : List Byte) : Reloc := ⟨link, leAt e 0 8, leAt e 8 4, leAt e 12 4, sext 64 (leAt e 16 8)⟩

/-- A team record. -/
def readTeam (e : List Byte) : TeamRec := ⟨leAt e 0 4, leAt e 4 2, leAt e 8 8, leAt e 16 8⟩

/-- The sections of one type. -/
def ofType (l : List Section) (t : SectType) : List Section := l.filter fun s => s.type == t

/-- The object file that some bytes are, none where R306 or R307 is broken. -/
def readObject (file : List Byte) : Option ObjFile :=
  let hs := (List.range (leAt file 8 4)).map fun i => (file.drop (leAt file 16 8 + 32 * i)).take 32
  let sects := hs.filterMap (readSection file)
  let strs := (ofType sects .strtab).flatMap Section.bytes
  if 64 ≤ file.length ∧ leAt file 0 4 = 0x4F535350 ∧ leAt file 4 2 = 1 ∧ leAt file 12 4 = 0
      ∧ ((file.drop 24).take 40).all (· == 0) ∧ hs.all (fun h => h.length == 32) ∧ sects.length = hs.length then
    some { stepping := leAt file 6 2
           sections := sects
           symbols := (ofType sects .symtab).flatMap fun s => (entries s.bytes 24).map (readSymbol strs)
           relocs := (ofType sects .reloc).flatMap fun s => (entries s.bytes 24).map (readReloc s.link)
           teams := (ofType sects .teams).flatMap fun s => (entries s.bytes 32).map readTeam }
  else none

/-! ### Relocation (R309) -/

/-- What one relocation writes: bytes past its offset, width, and value; none where the result does not fit its field. `sum`
is S + A and `p` the address of the instruction. -/
def relocField (type : Nat) (sum p : Int) : Option (Nat × Nat × Nat) :=
  match type with
  | 1 => if 0 ≤ sum ∧ sum < 2 ^ 64 then some (0, 8, sum.toNat) else none
  | 2 => if 0 ≤ sum ∧ sum < 2 ^ 32 then some (0, 4, sum.toNat) else none
  | 3 => if -(2 ^ 31) ≤ sum - p ∧ sum - p < 2 ^ 31 then some (8, 4, wrap 32 (sum - p)) else none
  | 4 => if 0 ≤ sum ∧ sum < 2 ^ 48 then some (8, 4, sum.toNat % 2 ^ 32) else none
  | 5 => if 0 ≤ sum ∧ sum < 2 ^ 48 then some (8, 4, sum.toNat / 2 ^ 32) else none
  | _ => none

/-- Bytes written into a section at an offset. -/
def patch (bs : List Byte) (off : Nat) (new : List Byte) : List Byte := bs.take off ++ new ++ bs.drop (off + new.length)

/-- The address of a symbol when section k stands at `base k`; a symbol of no section is found by its name elsewhere (log
entry 126). -/
def ObjFile.addrOf (o : ObjFile) (base : List Nat) (outside : List (List Byte × Nat)) (n : Nat) : Option Nat :=
  match o.symbols[n]? with
  | none => none
  | some y => match base[y.sect]? with
    | some b => some (b + y.value)
    | none => outside.lookup y.name

/-- One relocation applied; none refuses the object. -/
def ObjFile.relocate (o : ObjFile) (base : List Nat) (outside : List (List Byte × Nat)) (r : Reloc) : Option ObjFile :=
  match o.addrOf base outside r.symbol, o.sections[r.sect]?, base[r.sect]? with
  | some a, some s, some b =>
    (match relocField r.type (a + r.addend) (b + r.offset) with
      | some (at', n, v) =>
        if r.offset + at' + n ≤ s.bytes.length then
          some { o with sections := modAt o.sections r.sect fun s => { s with bytes := patch s.bytes (r.offset + at') (leBytes n v) } }
        else none
      | none => none)
  | _, _, _ => none

/-- Every relocation applied, in order. -/
def ObjFile.link (o : ObjFile) (base : List Nat) (outside : List (List Byte × Nat)) : Option ObjFile :=
  o.relocs.foldl (fun acc r => acc.bind fun o => o.relocate base outside r) (some o)

/-! ### The interlock bit (R298) -/

/-- The stepping code of this part: Ouvcel 4, A, 2. -/
def thisStepping : Nat := 0x04A2

/-- Part, letter and number of a stepping code. -/
def steppingParts (n : Nat) : Nat × Nat × Nat := (fld n 8 8, fld n 4 4, fld n 0 4)

/-- A base word with IL set if it is an LPAD.t. -/
def setIl (w : Nat) : Nat := if fld w 0 2 = 0 ∧ fld w 2 10 = 0x185 ∧ fld w 58 3 = 2 then setFld w 63 1 1 else w

/-- IL set in every LPAD.t of some code; instructions follow one another, each as long as its LEN says. `n` bounds how many. -/
def interlockAll : Nat → List Byte → List Byte
  | 0, bs => bs
  | n + 1, bs =>
    let w := leVal (bs.take 8)
    match lenOf w with
    | none => bs
    | some len =>
      if bs.length < len.bytes then bs
      else leBytes 8 (setIl w) ++ (bs.take len.bytes).drop 8 ++ interlockAll n (bs.drop len.bytes)

/-- The object once its relocations are applied: IL set in its code when its stepping is another one or none. -/
def ObjFile.ready (o : ObjFile) : ObjFile :=
  if o.stepping = thisStepping then o
  else { o with sections := o.sections.map fun s =>
    if s.type = .text then { s with bytes := interlockAll s.bytes.length s.bytes } else s }

/-! ### Placing (R307, R310) -/

/-- Where the loader puts a section: its VA, its frames from one PA on, and the PA of the first of its level-3 entries. -/
structure Placing where
  va  : Nat
  pa  : Nat
  pte : Nat
deriving DecidableEq, Repr

/-- A level-3 entry of a section (R111, R307): V, RD, CLASS PHASE, and EX for TEXT or WR for DATA. -/
def sectPte (t : SectType) (pa : Nat) : Nat := pa + (if t = .text then 0xB else 0x7)

/-- Whether a placing suits a section: its alignment, and 4 KiB pages. -/
def Placing.ok (p : Placing) (s : Section) : Bool :=
  decide (p.va % s.align = 0 ∧ p.va % 4096 = p.pa % 4096 ∧ p.va + s.bytes.length ≤ 2 ^ 48 ∧ p.pte % 8 = 0)

/-- A section's pages mapped and its bytes written, as the host does through BAR4 (R160). -/
def State.placeSection (s : State) (p : Placing) (x : Section) : State :=
  if x.type = .text ∨ x.type = .data then
    let pages := (p.va % 4096 + x.bytes.length + 4095) / 4096
    let ptes := (List.range pages).flatMap fun k => leBytes 8 (sectPte x.type (p.pa / 4096 * 4096 + 4096 * k))
    (s.homeWrite (cellsAt p.pte ptes)).homeWrite (cellsAt p.pa x.bytes)
  else s

/-- The loader (R310): relocations, then IL, then the sections in memory; none refuses the object. -/
def State.loadObject (s : State) (file : List Byte) (at' : List Placing) (outside : List (List Byte × Nat)) : Option State :=
  match readObject file with
  | none => none
  | some o =>
    let pairs := at'.zip o.sections
    if at'.length ≠ o.sections.length ∨ !(pairs.all fun p => p.1.ok p.2) then none
    else (o.link (at'.map Placing.va) outside).map fun o =>
      (at'.zip o.ready.sections).foldl (fun s p => s.placeSection p.1 p.2) s

/-! ### The runtime (R308) -/

/-- The TCB of a team record: CODE the entry's address, ETAG, both images, TEAMS and STEP. The other words are the caller's. -/
def TeamRec.tcb (r : TeamRec) (code teams step : Nat) (words : List Nat) : List Byte :=
  let w (i : Nat) : Nat := atD words i 0
  [w 0 / 2 ^ 48 * 2 ^ 48 + code, w 1 % 2 ^ 48 + r.etag * 2 ^ 48, w 2, w 3, w 4, w 5, r.image0 + teams, r.image1 + step * 2 ^ 32].flatMap (leBytes 8)
    ++ (List.range 8).flatMap fun i => leBytes 8 (w (8 + i))

end Sys2Proof.Machine
end

