-- ==== Sys2Proof/Machine/Assemble.lean ====
section
/-!
DEFINITION. Machine/Assemble.lean: what ryas does by the rules of spec/15_assembly_and_abi.md: the parts of a source line
(R300), operands (R301), lengths and annotations (R302, R303), the fill between instructions (R280, R305), and team records
(R304). Which field an operand of a mnemonic goes to is its entry's Assembly column, which is not read here (log entry 126).
-/
namespace Sys2Proof.Machine

/-! ### Lines (R300) -/

/-- Text as a list of characters. -/
abbrev Text := List Char

/-- A blank. -/
def isBlank (c : Char) : Bool := c == ' ' || c == '\t'

/-- Text without blanks at either end. -/
def trimText (t : Text) : Text := ((t.dropWhile isBlank).reverse.dropWhile isBlank).reverse

/-- A character of a symbol, and one that may start it. -/
def symStart (c : Char) : Bool := c.isAlpha || c == '_' || c == '.'
def symChar (c : Char) : Bool := symStart c || c.isDigit

/-- A symbol. -/
def isSymbol (t : Text) : Bool :=
  match t with
  | [] => false
  | c :: r => symStart c && r.all symChar

/-- A line without its comment. -/
def noComment : Text → Text
  | [] => []
  | ';' :: _ => []
  | '/' :: '/' :: _ => []
  | c :: r => c :: noComment r

/-- The label of a line and what follows it: a symbol and one colon. -/
def splitLabel (t : Text) : Option Text × Text :=
  let t := trimText t
  let name := t.takeWhile symChar
  match t.drop name.length with
  | ':' :: ':' :: _ => (none, t)
  | ':' :: rest => if isSymbol name then (some name, trimText rest) else (none, t)
  | _ => (none, t)

/-- The body of a line and its annotations, parted by `::`. -/
def splitNotes : Text → Text × Text
  | [] => ([], [])
  | ':' :: ':' :: rest => ([], rest)
  | c :: rest => let (a, b) := splitNotes rest; (c :: a, b)

/-- Text parted at a character. -/
def splitAt (sep : Char) : Text → List Text
  | [] => [[]]
  | c :: rest =>
    match splitAt sep rest with
    | w :: ws => if c == sep then [] :: w :: ws else (c :: w) :: ws
    | [] => [[c]]

/-- Words parted by blanks. -/
def words (t : Text) : List Text := (splitAt ' ' (t.map fun c => if isBlank c then ' ' else c)).filter (!·.isEmpty)

/-- A decimal numeral. -/
def decNat (t : Text) : Option Nat :=
  if t.isEmpty || !t.all Char.isDigit then none else some (t.foldl (fun n c => 10 * n + (c.toNat - 48)) 0)

/-- A guard: `(pN)` or `(!pN)` with N from 0 to 6 or `pt`: GP and GN (R302). -/
def guardOf (t : Text) : Option (Nat × Bool) :=
  match t with
  | '(' :: '!' :: 'p' :: c :: [')'] => (predNo c).map (·, true)
  | '(' :: 'p' :: c :: [')'] => (predNo c).map (·, false)
  | _ => none
where
  /-- The predicate a character names: 0 to 6, or t. -/
  predNo (c : Char) : Option Nat := if c == 't' then some 7 else if c.isDigit && decide (c.toNat ≤ 54) then some (c.toNat - 48) else none

/-- A source line: its label, guard, mnemonic with modifiers (a directive's name starts with a dot), operands, annotations. -/
structure SrcLine where
  label : Option Text
  guard : Nat × Bool
  mnem  : List Text
  args  : List Text
  notes : List Text
deriving DecidableEq, Repr

/-- A source line read; none is an assembly error: an upper-case mnemonic or directive (R300), or a bad guard. An omitted guard
is GP 7, GN 0 (R302). -/
def readLine (t : Text) : Option SrcLine :=
  let (label, rest) := splitLabel (noComment t)
  let (body, notes) := splitNotes rest
  let body := trimText body
  let (guard, body) := match body with
    | '(' :: _ => (guardOf (body.takeWhile (!isBlank ·)), trimText (body.dropWhile (!isBlank ·)))
    | _ => (some (7, false), body)
  let name := body.takeWhile (!isBlank ·)
  let args := trimText (body.drop name.length)
  match guard with
  | none => none
  | some g =>
    if name.any Char.isUpper then none
    else some { label := label
                guard := g
                mnem := if name.isEmpty then [] else if name.head? == some '.' then [name] else splitAt '.' name
                args := if args.isEmpty then [] else (splitAt ',' args).map trimText
                notes := words notes }

/-! ### Operands (R301) -/

/-- An operand as written. -/
inductive AsmOpnd where
  | v (n : Nat)
  | vz
  | pred (n : Nat) (neg : Bool)
  | x (n : Nat)
  | indexed (n k : Nat)
  | mem (inner : List Text)
  | int (v : Int)
  | real (neg : Bool) (digits : Nat) (exp10 : Int)
  | sym (name : Text) (add : Int)
  | lo (name : Text) (add : Int)
  | hi (name : Text) (add : Int)
deriving DecidableEq, Repr

/-- A hexadecimal digit. -/
def hexDigit (c : Char) : Option Nat :=
  if c.isDigit then some (c.toNat - 48)
  else if 97 ≤ c.toNat ∧ c.toNat ≤ 102 then some (c.toNat - 87)
  else if 65 ≤ c.toNat ∧ c.toNat ≤ 70 then some (c.toNat - 55)
  else none

/-- A numeral without sign, underscores ignored. -/
def natOf (t : Text) : Option Nat :=
  match t.filter (· != '_') with
  | '0' :: 'x' :: h => if h.isEmpty then none else h.foldl (fun acc c => match acc, hexDigit c with
      | some n, some d => some (16 * n + d)
      | _, _ => none) (some 0)
  | d => decNat d

/-- An integer of any size. -/
def intOf (t : Text) : Option Int :=
  match t with
  | '-' :: r => (natOf r).map fun n => -(n : Int)
  | _ => (natOf t).map fun n => (n : Int)

/-- An integer immediate: from −2^31 to 2^32 − 1. -/
def immInt (t : Text) : Option Int := (intOf t).bind fun v => if -(2 ^ 31) ≤ v ∧ v < 2 ^ 32 then some v else none

/-- A floating-point immediate: sign, digits as one number, and the power of ten. -/
def realOf (t : Text) : Option (Bool × Nat × Int) :=
  let (neg, t) := match t with | '-' :: r => (true, r) | _ => (false, t)
  let mant := t.takeWhile (· != 'e')
  let exp := (t.drop mant.length).drop 1
  let whole := mant.takeWhile (· != '.')
  let part := (mant.drop whole.length).drop 1
  let e := if exp.isEmpty then some 0 else match exp with
    | '-' :: r => (decNat r).map fun n => -(n : Int)
    | _ => (decNat exp).map fun n => (n : Int)
  if !(mant.contains '.' || t.contains 'e') then none
  else match decNat (whole ++ part), e with
    | some d, some e => some (neg, d, e - part.length)
    | _, _ => none

/-- A symbol with an offset, `symbol+n`. -/
def symOff (t : Text) : Option (Text × Int) :=
  let name := t.takeWhile (· != '+')
  match t.drop name.length with
  | [] => if isSymbol name then some (name, 0) else none
  | _ :: n => if isSymbol name then (intOf n).map fun v => (name, v) else none

/-- A register name with a decimal number below a bound. -/
def regNo (t : Text) (bound : Nat) : Option Nat := (decNat t).bind fun n => if n < bound then some n else none

/-- The register of an indexed operand, `v[xN+k]`, from what stands in its brackets: N and k from 0 to 63. -/
def indexedOf (t : Text) : Option (Nat × Nat) :=
  match t with
  | 'x' :: c :: '+' :: k => (match regNo [c] 4, regNo k 64 with
      | some n, some k => some (n, k)
      | _, _ => none)
  | ['x', c] => (regNo [c] 4).map (·, 0)
  | _ => none

/-- The name between parentheses of `lo(…)` or `hi(…)`, with its offset. -/
def inParens (t : Text) : Option (Text × Int) := if t.getLast? == some ')' then symOff t.dropLast else none

/-- A written operand, with the REGS in force (255 with none): none is an assembly error. -/
def operandOf (regs : Nat) (t : Text) : Option AsmOpnd :=
  match t with
  | ['v', 'z'] => some .vz
  | ['s', 'p'] => some (.v (regs - 1))
  | ['f', 'p'] => some (.v (regs - 2))
  | ['p', 't'] => some (.pred 7 false)
  | ['!', 'p', 't'] => some (.pred 7 true)
  | 'v' :: '[' :: r => if r.getLast? == some ']' then (indexedOf r.dropLast).map fun p => .indexed p.1 p.2 else none
  | '[' :: r => if r.getLast? == some ']' then some (.mem ((splitAt '+' r.dropLast).map trimText)) else none
  | '!' :: 'p' :: r => (regNo r 7).map fun n => .pred n true
  | 'l' :: 'o' :: '(' :: r => (inParens r).map fun p => .lo p.1 p.2
  | 'h' :: 'i' :: '(' :: r => (inParens r).map fun p => .hi p.1 p.2
  | _ =>
    match t with
    | c :: r =>
      let reg : Option AsmOpnd := match c with
        | 'v' => (regNo r 255).map .v
        | 'p' => (regNo r 7).map fun n => .pred n false
        | 'x' => (regNo r 4).map .x
        | _ => none
      (match reg with
        | some o => some o
        | none => match immInt t, realOf t with
          | some v, _ => some (.int v)
          | none, some (n, d, e) => some (.real n d e)
          | none, none => (symOff t).map fun p => .sym p.1 p.2)
    | [] => none

/-- A decimal number as an exact value, or one far closer to it than half an ulp of any format on the same side: a bit beyond
the 600th says that more follow. -/
def realFV (neg : Bool) (digits : Nat) (exp10 : Int) : FV :=
  if 0 ≤ exp10 then .fin neg (digits * 10 ^ exp10.toNat) 0
  else
    let d := 10 ^ (-exp10).toNat
    let n := digits * 2 ^ 600
    .fin neg (2 * (n / d) + b2n (n % d != 0)) (-601)

/-- A floating-point immediate in a format, by RNE (R301). -/
def immReal (f : Fmt) (neg : Bool) (digits : Nat) (exp10 : Int) : Nat :=
  (f.convOut 0 (.rne, false) 0 (realFV neg digits exp10)).bits

/-- The same in both elements of IMM32, for a packed 16-bit source. -/
def immReal2 (f : Fmt) (neg : Bool) (digits : Nat) (exp10 : Int) : Nat :=
  let v := immReal f neg digits exp10 % 2 ^ 16
  v + v * 2 ^ 16

/-- The relocation type of a symbol in an instruction (R301): a target takes PCREL32, any other immediate IMMLO. -/
def relocOf (target : Bool) (o : AsmOpnd) : Option Nat :=
  match o with
  | .sym .. => some (if target then 3 else 4)
  | .lo .. => some 4
  | .hi .. => some 5
  | _ => none

/-- The relocation type of a symbol in data; in `.byte` and `.half` it is an assembly error. -/
def dataReloc (width : Nat) : Option Nat := if width = 8 then some 1 else if width = 4 then some 2 else none

/-! ### Lengths and annotations (R302, R303) -/

/-- Lengths in order, with their bit among an opcode's allowed ones. -/
def lensFrom (n : Nat) : List (Len × Nat) := ([(.s, 1), (.m, 2), (.l, 4)] : List (Len × Nat)).drop n

/-- The length ryas chooses: the shortest that the opcode allows and the operands need, or the one forced; none is an assembly
error. -/
def pickLen (lens : Nat) (imm index : Bool) (forced : Option Len) : Option Len :=
  let need := if index then 2 else if imm then 1 else 0
  let may := (lensFrom need).filter fun x => lens &&& x.2 != 0
  match forced with
  | none => may.head?.map (·.1)
  | some want => (may.find? fun x => x.1 == want).map (·.1)

/-- One annotation in the scheduling fields; none is an assembly error. -/
def annotate (f : Fields) (t : Text) : Option Fields :=
  match t with
  | 's' :: n => (regNo n 16).map fun n => { f with stall := BitVec.ofNat 4 n }
  | ['h', 'a'] => some { f with hold := 1 }
  | ['h', 'b'] => some { f with hold := 2 }
  | ['h', 'c'] => some { f with hold := 3 }
  | ['f', 'a'] => some { f with fe := f.fe ||| 1 }
  | ['f', 'b'] => some { f with fe := f.fe ||| 2 }
  | ['f', 'c'] => some { f with fe := f.fe ||| 4 }
  | _ => none

/-- The annotations of a line; omitted ones encode 0. -/
def annotateAll (f : Fields) (notes : List Text) : Option Fields :=
  notes.foldl (fun acc t => acc.bind fun f => annotate f t) (some { f with stall := 0, hold := 0, fe := 0 })

/-! ### Where instructions stand (R280, R305) -/

/-- Lengths of the NOPs that fill a gap. -/
def gapFill (g : Nat) : List Nat :=
  match g with
  | 8 => [8]
  | 12 => [12]
  | 16 => [16]
  | 20 => [12, 8]
  | 24 => [16, 8]
  | 28 => [16, 12]
  | 32 => [16, 16]
  | _ => []

/-- A NOP of padding: guard `pt`, STALL 0. -/
def padNop (len : Len) : Fields := ⟨len, 7, false, 0, 0, 0, 0, 0, 0, 0, 0, 0, 0⟩

/-- Its words. -/
def padBytes (n : Nat) : List Byte :=
  (encodeBytes (.nop (padNop (if n = 8 then .s else if n = 12 then .m else .l)))).getD []

/-- What stands in `.text`: an instruction of a length, or an alignment. -/
inductive TextItem where
  | ins (n : Nat)
  | align (n : Nat)
deriving DecidableEq, Repr

/-- Layout so far: the PC, the instruction placed last in the present block with its length, the addresses of the instructions,
and the NOPs placed. -/
structure Layout where
  pc   : Nat := 0
  prev : Option (Nat × Nat) := none
  at'  : List (Nat × Nat) := []
  nops : List (Nat × Nat) := []
deriving DecidableEq, Repr

/-- A gap of g bytes from the PC filled. -/
def Layout.fill (l : Layout) (g : Nat) : Layout :=
  (gapFill g).foldl (fun l n => { l with pc := l.pc + n, nops := l.nops ++ [(l.pc, n)] }) l

/-- The instruction placed last moves to the next block, and what it frees is filled (R280). -/
def Layout.move (l : Layout) : Layout :=
  match l.prev with
  | none => l
  | some (k, n) =>
    let l := Layout.fill { l with pc := l.pc - n } (n + 4)
    { l with pc := l.pc + n, at' := l.at'.filter (fun x => x.1 != k) ++ [(k, l.pc)] }

/-- Instruction k, of n bytes, placed (R280). -/
def Layout.put (l : Layout) (k n : Nat) : Layout :=
  let room := 32 - l.pc % 32
  let l := if n ≤ room then l else if room = 4 then l.move else l.fill room
  { l with pc := l.pc + n, prev := some (k, n), at' := l.at' ++ [(k, l.pc)] }

/-- `.align n` in `.text` (R305). -/
def Layout.align (l : Layout) (n : Nat) : Layout :=
  if n < 8 then l
  else
    let l := if l.pc % 32 = 28 then l.move else l
    let g := (n - l.pc % n) % n
    let g := if g = 4 then g + n else g
    let first := if l.pc % 32 = 0 then 0 else min g (32 - l.pc % 32)
    let l := if g = 0 then l else l.fill first
    let rest := g - first
    let l := (List.range (rest / 32)).foldl (fun l _ => l.fill 32) l
    l.fill (rest % 32)

/-- The layout of a `.text` section: item k stands k-th. -/
def layout (items : List TextItem) : Layout :=
  ((List.range items.length).zip items).foldl (fun l x => match x.2 with
    | .ins n => l.put x.1 n
    | .align n => l.align n) {}

/-- The address of what stands at index k: that of the next instruction, else where the layout stands before it (log entry
126). -/
def labelAt (items : List TextItem) (k : Nat) : Nat :=
  match items[k]? with
  | some (.ins _) => ((layout items).at'.lookup k).getD 0
  | _ => (layout (items.take k)).pc

/-- The bytes of a `.text` section, from the bytes of its instructions in item order. -/
def textBytes (items : List TextItem) (code : List (List Byte)) : List Byte :=
  let l := layout items
  let ins := l.at'.map fun x => (x.2, atD code x.1 [])
  let all := sortBy (fun a b => decide (a.1 < b.1)) (ins ++ l.nops.map fun x => (x.1, padBytes x.2))
  all.flatMap (·.2)

/-! ### Team records (R304, R308) -/

/-- The record that `.entry` opens, with the defaults of R304. -/
structure TeamDecl where
  etag    : Nat := 0
  fto     : Nat := 8
  split   : Nat := 7
  fib     : Nat := 0
  initf   : Nat := 0
  regs    : Nat := 255
  scr     : Nat := 0
  caddy   : Nat := 0
  acc     : Nat := 0
  w64     : Bool := false
  fixed   : Bool := false
  strictx : Bool := false
  fpm     : Nat := 0
deriving DecidableEq, Repr

/-- A directive on the open record. -/
inductive TeamDir where
  | team (fto split : Option Nat)
  | fibres (fib : Nat) (initf : Option Nat)
  | regs (n : Nat)
  | scratch (n : Nat)
  | caddy (n : Nat)
  | acc (n : Nat)
  | width (n : Nat)
  | policy (fixed strictx : Bool)
  | fpmode (fpm : Nat)
deriving DecidableEq, Repr

/-- The bits of FPM that the words of `.fpmode` set (R225). -/
def fpmWord (t : Text) : Option Nat :=
  if t = "rne".toList then some 0
  else if t = "rtz".toList then some 1
  else if t = "rdn".toList then some 2
  else if t = "rup".toList then some 3
  else if t = "daz32".toList then some 4
  else if t = "ftz32".toList then some 8
  else if t = "daz16".toList then some 16
  else if t = "ftz16".toList then some 32
  else if t = "nanp".toList then some 64
  else if t = "lmm".toList then some 128
  else if t = "apx1".toList then some 256
  else if t = "apx2".toList then some 512
  else if t = "sr".toList then some 1024
  else none

/-- FPM of the words of a `.fpmode`. -/
def fpmOf (ws : List Text) : Option Nat :=
  ws.foldl (fun acc t => match acc, fpmWord t with
    | some n, some b => some (n ||| b)
    | _, _ => none) (some 0)

/-- A directive's effect; none where a value is outside its row of R304. -/
def TeamDecl.dir (t : TeamDecl) (d : TeamDir) : Option TeamDecl :=
  match d with
  | .team fto split =>
    let f := fto.getD t.fto
    let p := split.getD t.split
    if f ≤ 63 ∧ p ≤ 15 then some { t with fto := f, split := p } else none
  | .fibres fib initf => some { t with fib := fib, initf := initf.getD fib }
  | .regs n => if n = 255 ∨ (n % 8 = 0 ∧ 16 ≤ n ∧ n ≤ 248) then some { t with regs := n } else none
  | .scratch n => if n ≤ 512 then some { t with scr := n } else none
  | .caddy n => some { t with caddy := n }
  | .acc n => if n ≤ 4 then some { t with acc := n } else none
  | .width n => if n = 32 then some { t with w64 := false } else if n = 64 then some { t with w64 := true } else none
  | .policy f x => some { t with fixed := f, strictx := x }
  | .fpmode n => some { t with fpm := n }

/-- The image of TCB bytes 48 to 55, TEAMS 0 (R308). -/
def TeamDecl.image0 (t : TeamDecl) : Nat :=
  t.fib * 2 ^ 16 + t.initf * 2 ^ 27 + t.regs * 2 ^ 38 + t.scr * 2 ^ 46 + t.caddy * 2 ^ 56

/-- The image of TCB bytes 56 to 63, STEP 0. -/
def TeamDecl.image1 (t : TeamDecl) : Nat :=
  t.acc + b2n t.w64 * 2 ^ 3 + b2n t.fixed * 2 ^ 4 + b2n t.strictx * 2 ^ 5 + t.fto * 2 ^ 6 + t.split * 2 ^ 12 + t.fpm * 2 ^ 16

/-- A record whose values fail R61 is an assembly error. -/
def TeamDecl.valid (t : TeamDecl) : Bool :=
  decide (t.fib < 2 ^ 11 ∧ t.initf < 2 ^ 11 ∧ t.caddy < 2 ^ 8)
    && tcbTask ((TeamRec.mk 0 t.etag t.image0 t.image1).tcb 4 1 0 [])

/-- The team record of an entry. -/
def TeamDecl.record (t : TeamDecl) (symbol : Nat) : Option TeamRec :=
  if t.valid && decide (t.etag < 2 ^ 16) then some ⟨symbol, t.etag, t.image0, t.image1⟩ else none

/-- Whether code under a REGS in force may call: ryas rejects a CALL or CALLX below 40 (R304, R311). -/
def mayCall (regs : Nat) (i : Instr) : Bool :=
  match i with
  | .call _ => decide (40 ≤ regs)
  | .callx _ => decide (40 ≤ regs)
  | _ => true

end Sys2Proof.Machine
end

