-- ==== Sys2Proof/Tests/Slice0.lean ====
section
/-!
SUPPORT. Tests/Slice0.lean: the author's tests. Expected values come from the spec's words, encodings and worked examples,
each cited; and, for every obligation that has hypotheses, states and operands that meet them.
-/
namespace Sys2Proof.Tests
open Sys2Proof
open Sys2Proof.Machine

set_option Elab.async false

/-! ### Small states -/

/-- An instruction's fields with nothing set, guarded by p7. -/
def z : Fields := ⟨.s, 7, false, 0, 0, 0, 0, 0, 0, 0, 0, 0, 0⟩

/-- A live fibre at a PC with the registers given and the rest zero. -/
def fibAt (pc : Nat) (vals : List (Nat × Nat)) : Fibre :=
  { Fibre.blank 64 1 with
    live := true
    pc := BitVec.ofNat 48 pc
    sets := 1
    v := vals.foldl (fun v x => modAt v x.1 fun _ => VReg.of (BitVec.ofNat 32 x.2)) (List.replicate 64 (VReg.of 0)) }

/-- A team of address space 1 in slot 0 with the fibres given; its handler stands at 0x2000. -/
def teamOf (fs : List Fibre) : Team :=
  { mcTeam 0x1000 with
    mc := false
    seq := 1
    asid := 1
    fib := fs.length
    regs := 64
    trapv := 0x2000
    scr := 8
    caddy := 4
    acc := 2
    fibres := fs }

/-- A cohort number 7 of slice 0 with the fibres given, one lane each. -/
def cohortOf (n : Nat) : Cohort := Cohort.make 7 0 0 0 none (List.range n) (List.range n)

/-- A page table that maps the first gibibyte to itself, CLASS PHASE, readable, writable and executable; LPAD.h with
tag 0 at 0x2000, LPAD.b (kind 1) at 0x2100, LPAD.c (kind 0) at 0x2200, LPAD.j (kind 3) at 0x2300, LPAD.e (kind 2) at 0x1000. -/
def pages : Memory :=
  let m := (Memory.putBytes [] 0x100000 (leBytes 8 0x101001)).putBytes 0x101000 (leBytes 8 0x38F)
  let pad (k : Nat) := leBytes 8 (0x7614 + k * 2 ^ 58)
  ((((m.putBytes 0x2000 (pad 4)).putBytes 0x2100 (pad 1)).putBytes 0x2200 (pad 0)).putBytes 0x2300 (pad 3)).putBytes
    0x1000 (pad 2)

/-- Cluster 0 with one team and its cohort, which is issuing. -/
def world (t : Team) (k : Cohort) : State :=
  { State.reset with
    cur := some (0, 7)
    mem := pages
    pcie := [true, true]
    ports := List.replicate 12 .full
    spaces := Tab.set Space.reset [] 1 ⟨true, 0, 0x100000, false, 0, 0, false⟩
    clusters := { Cluster.reset with teams := [t], cohorts := [k], nextId := 8 } :: List.replicate 160 Cluster.reset }

/-- Two fibres at 0x1000 of a cohort; fibre 0 holds 5 in v8 and 3 in v9, fibre 1 holds 7 and 4. -/
def two : State := world (teamOf [fibAt 0x1000 [(8, 5), (9, 3)], fibAt 0x1000 [(8, 7), (9, 4)]]) (cohortOf 2)

/-- One fibre of an interlocked team (R295), so that results stand in the registers at once. -/
def one (vals : List (Nat × Nat)) : State := world { teamOf [fibAt 0x1000 vals] with inter := true } (cohortOf 1)

/-- The state an instruction leaves. -/
def after (i : Instr) (s : State) : State := match exec i s with | .next t => t | _ => State.reset

/-- A register of fibre 0 after one instruction, and its pair. -/
def out32 (i : Instr) (vals : List (Nat × Nat)) (n : Nat) : Nat := (((after i (one vals)).fibre 0 0 0).reg n).val.toNat
def out64 (i : Instr) (vals : List (Nat × Nat)) (n : Nat) : Nat := out32 i vals n + out32 i vals (n + 1) * 2 ^ 32
/-- A predicate of fibre 0 after one instruction. -/
def outP (i : Instr) (vals : List (Nat × Nat)) (n : Nat) : Bool := (((after i (one vals)).fibre 0 0 0).pred n).val

/-- Whether the cohort in turn issues an instruction, with a test on the state and the issue. -/
def issues (s : State) (ins : Instr) (p : State → Iss → Bool := fun _ _ => true) : Bool :=
  match ins.parts, s.ready with
  | some (opc, f), some (t, x) =>
    let i := t.iss x opc f (extraOf ins)
    decide (i.verdict t (extraOf ins) = .run) && p t i
  | _, _ => false

/-- The check is sound: what it accepts issues, and the test holds there. -/
theorem issues_sound {s : State} {ins : Instr} {p : State → Iss → Bool} (h : issues s ins p = true) :
    ∃ t i, s.Issues ins t i ∧ p t i = true := by
  unfold issues at h
  split at h
  · rename_i opc f t x h1 h2
    simp only [Bool.and_eq_true, decide_eq_true_eq] at h
    exact ⟨t, _, ⟨⟨opc, f, x, h1, h2, rfl⟩, h.1⟩, h.2⟩
  · cases h

/-- The same for a list of instructions. -/
theorem issues_all {s : State} {l : List Instr} {p : State → Iss → Bool} (h : l.all (fun i => issues s i p) = true) :
    ∀ ins ∈ l, ∃ t i, s.Issues ins t i ∧ p t i = true := fun ins m => issues_sound (List.all_eq_true.mp h ins m)

/-- The premises many statements share: the fibres of the issue are distinct and of the team. -/
def sound (_ : State) (i : Iss) : Bool := decide (i.x.fs.Nodup ∧ ∀ h ∈ i.x.fs, h < i.team.fibres.length)

theorem sound_spec {t : State} {i : Iss} (h : sound t i = true) :
    i.x.fs.Nodup ∧ ∀ h ∈ i.x.fs, h < i.team.fibres.length := of_decide_eq_true h

/-! ### Encodings: words written out from the spec's tables (R279, R281, R288) -/

/-- Group 0: R323's IADDC, and ISET against a constant. -/
theorem test_decode_int :
    decodeTableWord 64 0x043C0C0018037034 = some (.iaddc { z with stall := 3, dst := 6, sb := 3, sc := 15, mod := 1 })
      ∧ decodeTableWord 96 0x000F42405C1C00880C03703D
        = some (.iset { z with len := .m, stall := 3, dst := 3, sa := 34, sc := 7, mod := 23, imm := 0xF4240 }) := by
  decide +kernel
/-- Group 1: BOP with OP1 = XOR; opcode 0x040, d = v3, a = v4, b = v5. -/
theorem test_decode_logic : decodeTableWord 64 0x080014100C007100
    = some (.bop { z with dst := 3, sa := 4, sb := 5, mod := 2 }) := by decide +kernel
/-- Group 2: FFMA, and FADD of 128 bits: an immediate 1.0 as source B, an indexed destination. -/
theorem test_decode_fp :
    decodeTableWord 64 0x001C141018242208
        = some (.ffma { z with gp := 2, stall := 4, hold := 2, dst := 6, sa := 4, sb := 5, sc := 7 })
      ∧ decodeTableWord 128 0x180000003F800000000000210C007202
        = some (.fadd { z with len := .l, dst := 67, sa := 8, imm := 0x3F800000, ext := 0x18000000 }) := by
  decide +kernel
/-- Group 3: DADD; opcode 0x0C0, pairs v4, v6, v8. -/
theorem test_decode_dp : decodeTableWord 64 0x0000201810007300
    = some (.dadd { z with dst := 4, sa := 6, sb := 8 }) := by decide +kernel
/-- Group 4: R341's CVT. -/
theorem test_decode_conv : decodeTableWord 64 0x100C100824007400
    = some (.cvt { z with dst := 9, sa := 2, sb := 4, sc := 3, mod := 4 }) := by decide +kernel
/-- Group 5: MOV; opcode 0x140, d = v2, a = v9. -/
theorem test_decode_move : decodeTableWord 64 0x0000002408007500
    = some (.mov { z with dst := 2, sa := 9 }) := by decide +kernel
/-- Group 6: BRA under ps = !p0, a handler's LPAD of tag 2's register field, SLEEP for 1 ms. -/
theorem test_decode_flow :
    decodeTableWord 96 0x000000200000002000007601 = some (.bra { z with len := .m, sa := 8, imm := 0x20 })
      ∧ decodeTableWord 64 0x1000000800007614 = some (.lpad { z with sa := 2, mod := 4 })
      ∧ decodeTableWord 96 0x000F4240000000000000762D = some (.sleep { z with len := .m, imm := 1000000 }) := by
  decide +kernel
/-- Group 7: SHFL by the immediate 1, CDET and SEGRED. -/
theorem test_decode_cross :
    decodeTableWord 96 0x000000010804001014007701
        = some (.shfl { z with len := .m, dst := 5, sa := 4, sc := 1, mod := 2, imm := 1 })
      ∧ decodeTableWord 64 0x0000002830007718 = some (.cdet { z with dst := 12, sa := 10 })
      ∧ decodeTableWord 64 0x081C2C282000771C = some (.segred { z with dst := 8, sa := 10, sb := 11, sc := 7, mod := 2 }) := by
  decide +kernel
/-- Groups 8 and 9: LD with an offset, ST of a register of the core, ATOM and RED. -/
theorem test_decode_mem :
    decodeTableWord 96 0x000000403000002010007801 = some (.ld { z with len := .m, dst := 4, sa := 8, mod := 12, imm := 0x40 })
      ∧ decodeTableWord 96 0x400002283000C3FC00007805
        = some (.st { z with len := .m, sa := 255, sb := 48, mod := 12, imm := 0x40000228 })
      ∧ decodeTableWord 64 0x2400242018007900 = some (.atom { z with dst := 6, sa := 8, sb := 9, mod := 9 })
      ∧ decodeTableWord 64 0x4008202400002908 = some (.red { z with gp := 2, sa := 9, sb := 8, sc := 2, mod := 16 }) := by
  decide +kernel
/-- Group A: HINS with e in v11. -/
theorem test_decode_caddy : decodeTableWord 128 0x0000000B0000000000000C0828007A0E
    = some (.hins { z with len := .l, dst := 10, sa := 2, sb := 3, ext := 11 }) := by decide +kernel
/-- Group B: MMA with scales. -/
theorem test_decode_matrix : decodeTableWord 128 0x00000005000000000030141058001B02
    = some (.mma { z with len := .l, gp := 1, dst := 22, sa := 4, sb := 5, sc := 12, ext := 5 }) := by decide +kernel
/-- Group C: TLQRY; opcode 0x304, d = v4..v7, a = v9. Group D: DLQRY; opcode 0x343. -/
theorem test_decode_engine :
    decodeTableWord 64 0x0000002410007C10 = some (.tlqry { z with dst := 4, sa := 9 })
      ∧ decodeTableWord 64 0x0000002410007D0C = some (.dlqry { z with dst := 4, sa := 9 }) := by decide +kernel
/-- Group E: NOP, TRAP under p4, TRET to its record's PC. -/
theorem test_decode_system : decodeTableWord 64 0x7E00 = some (.nop z)
    ∧ decodeTableWord 64 0x4E0C = some (.trap { z with gp := 4 }) ∧ decodeTableWord 64 0x7E10 = some (.tret z) := by
  decide +kernel
/-- Group F: accepted as it stands (R289). -/
theorem test_decode_extension : decodeTableWord 64 0x7F00 = some (.extensionOpcode .s 0 7) := by decide +kernel
/-- Why a decoding refuses. -/
def refusal {α : Type} : Except DecodeErr α → Option DecodeErr
  | .error e => some e
  | .ok _ => none
/-- R287: LEN 11, a reserved opcode, a reserved bit, a wrong length and a reserved OP are refused, each by its SUB. -/
theorem test_decode_refuses :
    refusal (decodeCode 0x7E03) = some .lengthCode ∧ refusal (decodeCode (0x7000 + 4 * 0x012)) = some .reserved
      ∧ refusal (decodeCode (0x7E00 + 2 ^ 25)) = some (.illegal 1) ∧ refusal (decodeCode 0x7E11) = some (.illegal 3)
      ∧ refusal (decodeCode (0x7710 + 13 * 2 ^ 58)) = some (.illegal 3) := by decide +kernel
/-- R279: a base word that announces 16 bytes needs them all. -/
theorem test_decode_short : refusal (decodeBytes (leBytes 8 0x7E02)) = some .short := by decide +kernel

/-! ### Well-formedness: a term that each check refuses -/

/-- R284 to R288: a reserved MOD bit, a wrong length, an odd pair, a reserved S2V source, an immediate out of range. -/
theorem test_wf_fields : ([.iadd { z with mod := 8 }, .iadd { z with mod := 2 }, .bra z, .dadd { z with dst := 5 }, .s2v { z with sa := 15 },
    .barArrive { z with len := .m, imm := 1025 }, .srd { z with sa := 6 }, .ld { z with mod := 7 },
    .fadd { z with mod := 2 }, .nop { z with imm := 1 }] : List Instr).all (!·.wf) = true := by decide +kernel
/-- Group F's remaining bits fit its length. -/
theorem test_wf_extension : (Instr.extensionOpcode .s 0 (2 ^ 52)).wf = false
    ∧ (Instr.extensionOpcode .s 0 (2 ^ 52 - 1)).wf = true := by decide +kernel
/-- Numbers of queues, functions, clusters, dies, barriers, counters and what else an event names. -/
theorem test_wf_events : ([.packetNop 16384, .qtail (.vf 0) 0 0, .qtail .pf0 16384 0, .qctlEnable (.vf 32) 0,
    .qctlReset .pf1 16384 true, .functionLevelReset (.vf 32), .vfAssignWrite 32 false 0, .teamPlacement false 160,
    .cohortFormation 161, .gbarDieForward 4 0, .gbarD0Arrival 0 256, .gbCtlWrite 0 1 8 0, .gbCtlWrite 0 0 0 0,
    .matrixOpStart 1, .matrixOpRetire 160, .budgetRefill 3, .tlValueWrite 0 4096 0, .tlErrvWrite 4 0 0, .stepDeadline 256,
    .sliceRatioChange 0 6 8, .sliceRatioChange 0 0 1, .sliceRatioChange 0 0 9, .pageWalkComplete 165 0 0,
    .pageWalkComplete 0 1024 0, .pageWalkComplete 0 0 (2 ^ 36), .replUpdateApply 4, .clusterRetire 0 40, .l2SliceRetire 0 24,
    .l2SliceRemap 4 0, .hbmChannelSpare 0 64, .hbmChannelSpareComplete 0 64, .meshEdgeLaneLoss 4, .ryndiPortLaneLoss 12,
    .ryndiFlitReceive 12 0 true [], .ryndiFlitReceive 0 4 true [], .ryndiFlitReceive 0 0 true [[], [], [], []],
    .fabricReductionArrival ⟨0, 0, 0, 0, 0, []⟩, .fabricReductionArrival ⟨0, 0, 0, 0, 0, List.replicate 17 0⟩,
    .thermalAlert 0 16 0, .tempFallBelowLo 0 [(16, some 0)], .registerWrite ⟨.bar2 .pf0, 0x10000000⟩ 1 0, .registerWrite ⟨.bar0 .pf0, 0⟩ 3 0,
    .patrolScrub 0x180000000 .clean] : List Instr).all (!·.wf) = true := by decide +kernel

/-! ### Results: the spec's worked examples -/

/-- R322's example: IDIV and IREM at −2^31 / −1, −7 / 2, and unsigned 7 / 0. -/
theorem test_idiv : out32 (.idiv { z with dst := 2, sa := 8, sb := 9 }) [(8, 0x80000000), (9, 0xFFFFFFFF)] 2 = 0x80000000
    ∧ out32 (.irem { z with dst := 2, sa := 8, sb := 9 }) [(8, 0x80000000), (9, 0xFFFFFFFF)] 2 = 0
    ∧ out32 (.idiv { z with dst := 2, sa := 8, sb := 9 }) [(8, 0xFFFFFFF9), (9, 2)] 2 = 0xFFFFFFFD
    ∧ out32 (.irem { z with dst := 2, sa := 8, sb := 9 }) [(8, 0xFFFFFFF9), (9, 2)] 2 = 0xFFFFFFFF
    ∧ out32 (.idiv { z with dst := 2, sa := 8, sb := 9, mod := 2 }) [(8, 7)] 2 = 0xFFFFFFFF
    ∧ out32 (.irem { z with dst := 2, sa := 8, sb := 9, mod := 2 }) [(8, 7)] 2 = 7 := by decide +kernel
/-- R323: 0xFFFF_FFFF + 1 with no carry in is 0 with a carry out; 0 − 1 borrows. -/
theorem test_iaddc :
    out32 (.iaddc { z with dst := 2, sa := 8, sb := 9, sc := 15, mod := 1 }) [(8, 0xFFFFFFFF), (9, 1)] 2 = 0
    ∧ outP (.iaddc { z with dst := 2, sa := 8, sb := 9, sc := 15, mod := 1 }) [(8, 0xFFFFFFFF), (9, 1)] 1 = true
    ∧ out32 (.isubb { z with dst := 2, sa := 8, sb := 9, sc := 15, mod := 1 }) [(9, 1)] 2 = 0xFFFFFFFF
    ∧ outP (.isubb { z with dst := 2, sa := 8, sb := 9, sc := 15, mod := 1 }) [(9, 1)] 1 = true := by decide +kernel
/-- R321: the saturating sum of the largest integer and 1, and the sum of 64 bits with a carry between its halves. -/
theorem test_iadd : out32 (.iadd { z with dst := 2, sa := 8, sb := 9, mod := 4 }) [(8, 0x7FFFFFFF), (9, 1)] 2 = 0x7FFFFFFF
    ∧ out64 (.iadd { z with dst := 2, sa := 8, sb := 10, mod := 1 }) [(8, 0xFFFFFFFF), (10, 1)] 2 = 2 ^ 32 := by
  decide +kernel
/-- R327's example: XTR signed and unsigned, and INS. -/
theorem test_xtr_ins : out32 (.xtr { z with dst := 2, sa := 8, sb := 9 }) [(8, 0xFFFFA5C3), (9, 0x3C0)] 2 = 0xFFFFA5C3
    ∧ out32 (.xtr { z with dst := 2, sa := 8, sb := 9, mod := 2 }) [(8, 0xFFFFA5C3), (9, 0x3C0)] 2 = 0xA5C3
    ∧ out32 (.xtr { z with dst := 2, sa := 8, sb := 9 }) [(8, 0xFFFFA5C3), (9, 0x1C4)] 2 = 0xFFFFFFFC
    ∧ out32 (.xtr { z with dst := 2, sa := 8, sb := 9, mod := 2 }) [(8, 0xFFFFA5C3), (9, 0x1C4)] 2 = 0xC
    ∧ out32 (.ins { z with dst := 2, sa := 8, sb := 9, sc := 10 }) [(8, 5), (9, 0x1C4)] 2 = 0x50 := by decide +kernel
/-- R328's first two examples; its third, 0x0688, by the rule itself selects y3 for byte 3 (log entry 32). -/
theorem test_bsel : ([0x0FAC, 0x1FAC, 0x0688].map fun b =>
      out32 (.bsel { z with dst := 2, sa := 8, sb := 9, sc := 10 }) [(8, 0x44332211), (9, b), (10, 0x88776655)] 2)
    = [0x88776655, 0x88776600, 0x44332211] := by decide +kernel
/-- R326: a shift by the whole width gives 0, and copies of the sign. -/
theorem test_shift : out32 (.shl { z with dst := 2, sa := 8, sb := 9 }) [(8, 0x80000001), (9, 32)] 2 = 0
    ∧ out32 (.shra { z with dst := 2, sa := 8, sb := 9 }) [(8, 0x80000001), (9, 40)] 2 = 0xFFFFFFFF
    ∧ out32 (.shl { z with dst := 2, sa := 8, sb := 9, mod := 2 }) [(8, 0x80000001), (9, 33)] 2 = 2 := by decide +kernel
/-- R228, R235: 1.0 + 2^-23 is representable and exact; 1.0 + 2^-24 ties to even. -/
theorem test_fadd : out32 (.fadd { z with dst := 2, sa := 8, sb := 9 }) [(8, 0x3F800000), (9, 0x34000000)] 2 = 0x3F800001
    ∧ out32 (.fadd { z with dst := 2, sa := 8, sb := 9 }) [(8, 0x3F800000), (9, 0x33800000)] 2 = 0x3F800000 := by
  decide +kernel
/-- R330: FFMA rounds once: (1 + 2^-12)^2 − 1 is 2^-11 + 2^-24. -/
theorem test_ffma : out32 (.ffma { z with dst := 2, sa := 8, sb := 8, sc := 9 }) [(8, 0x3F800800), (9, 0xBF800000)] 2
    = 0x3A000400 := by decide +kernel
/-- R229, R335: the reciprocal of 0 is infinite with DZ; FPSTAT takes the flag. -/
theorem test_frcp : out32 (.frcp { z with dst := 2, sa := 8 }) [] 2 = 0x7F800000
    ∧ ((after (.frcp { z with dst := 2, sa := 8 }) (one [])).team? 0 0).map (·.fpstat) = some 2 := by decide +kernel
/-- R341's example: four FP32 values to E4M3 in one register, with SAT, NX, UF and OF. -/
theorem test_cvt : let i : Instr := .cvt { z with dst := 9, sa := 2, sb := 4, sc := 3, mod := 4 }
    let v := [(2, 0x3F800000), (3, 0x43960000), (4, 0x3C23D70A), (5, 0xC47A0000)]
    out32 i v 9 = 0xFE057938 ∧ ((after i (one v)).team? 0 0).map (·.fpstat) = some 0x5C := by decide +kernel
/-- R343's example: the scale of 5.0, the elements 5.0 and −0.7 under it, and back. -/
theorem test_mx : out32 (.mxq { z with dst := 2, sa := 8, sb := 9, mod := 0x24 - 4 }) [(9, 0x40A00000)] 2 = 0x7F
    ∧ out32 (.mxq { z with dst := 2, sa := 8, sb := 9, mod := 4 }) [(8, 0x40A00000), (9, 0x40A00000)] 2 = 6
    ∧ out32 (.mxq { z with dst := 2, sa := 8, sb := 9, mod := 4 }) [(8, 0xBF333333), (9, 0x40A00000)] 2 = 9
    ∧ out32 (.mxdq { z with dst := 2, sa := 8, sb := 9 }) [(8, 6), (9, 0x7F)] 2 = 0x40800000
    ∧ out32 (.mxdq { z with dst := 2, sa := 8, sb := 9 }) [(8, 9), (9, 0x7F)] 2 = 0xBF000000
    ∧ out32 (.mxdq { z with dst := 2, sa := 8, sb := 9 }) [(8, 1), (9, 0x82)] 2 = 0x40800000 := by decide +kernel
/-- R233's example: the generator's first step, and the seed of fibre 0 of team 0. -/
theorem test_generator : seedOf 0 0 = 0x6A09E667 ∧ genStep 0x6A09E667 = 0xB524F330 := by decide +kernel
/-- R347, R348: S2V of the cohort's size and of the cluster. -/
theorem test_s2v : out32 (.s2v { z with dst := 2, sa := 4 }) [] 2 = 1 ∧ out32 (.s2v { z with dst := 2, sa := 8 }) [] 2 = 0 := by
  decide +kernel

/-- Six fibres with keys 7, 3, 7, 7, 3, 9 in v2 and R370's FP32 values in v3. -/
def six : State := world { teamOf ([(7, 0x3F800000), (3, 0x40000000), (7, 0x33800000), (7, 0x33800000), (3, 0xC0000000),
    (9, 0x40800000)].map fun p => fibAt 0x1000 [(2, p.1), (3, p.2)]) with inter := true } (cohortOf 6)
/-- A register of each of the six after one instruction. -/
def outs (i : Instr) (n : Nat) : List Nat := (List.range 6).map fun h => (((after i six).fibre 0 0 h).reg n).val.toNat
/-- R370's example: CDET, MATCHX and SEGRED. -/
theorem test_segred : outs (.cdet { z with dst := 8, sa := 2 }) 8 = [0, 0, 1, 5, 2, 0]
    ∧ outs (.matchx { z with dst := 9, sa := 2 }) 9 = [0xD, 0x12, 0xD, 0xD, 0x12, 0x20]
    ∧ outs (.segred { z with dst := 6, sa := 2, sb := 3, sc := 2, mod := 2 }) 6
      = [0x3F800001, 0, 0x3F800001, 0x3F800001, 0, 0x40800000]
    ∧ ((List.range 6).map fun h => (((after (.segred { z with dst := 6, sa := 2, sb := 3, sc := 2, mod := 2 }) six).fibre 0 0 h).pred
      2).val) = [true, true, false, false, false, true] := by decide +kernel
/-- R366, R370's example: SHFL.down by 1: the last position keeps its own value and gets a false predicate. -/
theorem test_shfl : outs (.shfl { z with len := .m, dst := 5, sa := 2, sc := 1, mod := 2, imm := 1 }) 5 = [3, 7, 7, 3, 9, 9] := by
  decide +kernel

/-- R254, R396's examples: the hashes of keys 1, 2, 3 and 5 with B = 4. -/
theorem test_hash : let k : Claim := ⟨4, false, false, 0, 0, 0, 0, 0⟩
    [1, 2, 3, 5].map k.hashes = [(9, 14), (3, 14), (13, 14), (1, 14)] := by decide +kernel
/-- R38's example: the header 0x0000_0000_0002_0310 is a LAUNCH_TASK of three units with EVENT set. -/
theorem test_packet : ((⟨0x20310, []⟩ : Packet).ty, (⟨0x20310, []⟩ : Packet).len, (⟨0x20310, []⟩ : Packet).flags)
    = (0x10, 3, 2) := by decide +kernel

/-- R113's example, in the tables of address space 5: levels 254, 72, and the 2 MiB leaf 418. -/
def walked : State := { State.reset with
  mem := (((Memory.putBytes [] (0x200000 + 8 * 254) (leBytes 8 0x201001)).putBytes (0x201000 + 8 * 72)
    (leBytes 8 0x202001)).putBytes (0x202000 + 8 * 418) (leBytes 8 0x1840600087))
  spaces := Tab.set Space.reset [] 5 ⟨true, 0, 0x200000, false, 0, 0, false⟩ }
theorem test_walk : let r := walked.xlate 0 5 0x7F1234567ABC 0
    r.1 = .ok 0x1840767ABC 0 ∧ leVal (r.2.homeBytes (0x202000 + 8 * 418) 8) = 0x1840600187
      ∧ leVal ((r.2.markDirty 0 5 0x7F1234567ABC).homeBytes (0x202000 + 8 * 418) 8) = 0x1840600387
      ∧ homeDie 0x1840767ABC = 1 := by decide +kernel

/-! ### Issues: an instruction of every opcode, and a cohort that issues it -/

/-- A field for an operand of a kind: registers for vectors, p1 for predicates. -/
def fieldOf (k : Kind) (n : BitVec 8) : BitVec 8 :=
  match k with
  | .no | .lit => 0
  | .ps | .pd | .xr => 1
  | _ => n

/-- Fields an opcode takes in its shortest form under a MOD. -/
def sampleFields (r : OpRow) (md : BitVec 6) : Fields :=
  let len (sh : Shape) : Len := if sh.lens % 2 = 1 then .s else if sh.lens / 2 % 2 = 1 then .m else .l
  let f := { z with len := len (r.shape z), mod := md }
  let sh := r.shape f
  { f with
    dst := fieldOf sh.dst 4
    sa := fieldOf sh.sa 8
    sb := if sh.alu && f.immB then 0 else fieldOf sh.sb 12
    sc := fieldOf sh.sc 16 }

/-- One instruction of an opcode. -/
def sample (r : OpRow) : Instr :=
  let a := r.con (sampleFields r 0)
  if a.wf then a else
    let b := r.con (sampleFields r 1)
    if b.wf then b else r.con (sampleFields r 4)

/-- The opcodes that any cohort issues: all but TRET, which a fibre in trap mode issues, and WFI, which the core does. -/
def anywhere : List OpRow := opRows.filter fun r => r.opc != 0x384 && r.opc != 0x38A

/-- The context that issues in a state, and the issue of an instruction there. -/
def ctx0 (s : State) : Ctx := (s.ctx?).getD ⟨0, teamOf [], cohortOf 0, []⟩
def iss0 (s : State) (ins : Instr) : Iss :=
  match ins.parts with
  | some (opc, f) => s.iss (ctx0 s) opc f (extraOf ins)
  | none => s.iss (ctx0 s) 0 z {}

/-- Every opcode has a well-formed instruction, and `two` issues it; 146 of the 148 opcodes. -/
theorem samples_wf : opRows.all (fun r => (sample r).wf && !isEvent (sample r)) = true ∧ anywhere.length = 146
    ∧ opRows.length = 148 := by decide +kernel
theorem samples_issue : (anywhere.map sample).all (fun i => issues two i sound) = true := by decide +kernel

/-- Both fibres of `two` issue every opcode's sample, the premise of each result statement. -/
theorem witness_issues (r : OpRow) (h : r ∈ anywhere) : ∃ t i, two.Issues (sample r) t i ∧ i.x.fs.Nodup
    ∧ ∀ h ∈ i.x.fs, h < i.team.fibres.length := by
  obtain ⟨t, i, hi, hp⟩ := issues_all samples_issue _ (List.mem_map_of_mem h)
  exact ⟨t, i, hi, sound_spec hp⟩

/-- The same for the rows of a group. -/
def GroupIssues (l : List OpRow) : Prop :=
  ∀ r ∈ l, ∃ t i, two.Issues (sample r) t i ∧ i.x.fs.Nodup ∧ ∀ h ∈ i.x.fs, h < i.team.fibres.length
theorem group_issues (l : List OpRow) (h : ∀ r ∈ l, r ∈ opRows)
    (n : l.all (fun r => r.opc != 0x384 && r.opc != 0x38A) = true) : GroupIssues l :=
  fun r m => witness_issues r (List.mem_filter.mpr ⟨h r m, List.all_eq_true.mp n r m⟩)

/-- Group 0; with it ArithmeticFrame, whose instructions these groups hold. -/
theorem witness_IntegerInstructions : GroupIssues rowsInt :=
  group_issues _ (fun r h => by simp [opRows, h]) (by decide)
/-- Group 1. -/
theorem witness_LogicInstructions : GroupIssues rowsLogic :=
  group_issues _ (fun r h => by simp [opRows, h]) (by decide)
/-- Group 2, and the slow and approximate functions of it. -/
theorem witness_Fp32Arithmetic : GroupIssues rowsFp :=
  group_issues _ (fun r h => by simp [opRows, h]) (by decide)
theorem witness_SlowAndApproximateFunctions : GroupIssues (rowsFp ++ rowsDp) :=
  group_issues _ (fun r h => by rcases List.mem_append.mp h with h | h <;> simp [opRows, h]) (by decide)
theorem witness_SlowAndApproximateFunctions_slow :
    [Instr.fdiv { z with dst := 4, sa := 8, sb := 9 }, .fsqrt { z with dst := 4, sa := 8 }, .ddiv { z with dst := 4, sa := 8, sb := 12 },
      .dsqrt { z with dst := 4, sa := 8 }].all (fun ins => issues two ins sound) = true := by decide +kernel
/-- Group 3. -/
theorem witness_Fp64AndPacked : GroupIssues rowsDp :=
  group_issues _ (fun r h => by simp [opRows, h]) (by decide)
/-- Group 4. -/
theorem witness_Conversions : GroupIssues rowsConv :=
  group_issues _ (fun r h => by simp [opRows, h]) (by decide)
/-- Group 5; S2V of both kinds of source, and VXLD of unpoisoned operands. -/
theorem witness_MovesAndPredicates : GroupIssues rowsMove :=
  group_issues _ (fun r h => by simp [opRows, h]) (by decide)
theorem witness_MovesAndPredicates_clauses :
    issues two (.s2v { z with dst := 4, sa := 0x0E }) = true ∧ issues two (.s2v { z with dst := 4, sa := 0x11 }) = true
      ∧ issues two (.vxld { z with dst := 3, sa := 8, sb := 9 }) (fun _ i => i.on.all fun h => (i.pois2 h).isNone) = true := by
  decide +kernel
/-- Group 7. -/
theorem witness_ShufflesAndVotes : GroupIssues rowsCross :=
  group_issues _ (fun r h => by simp [opRows, h]) (by decide)
theorem witness_FoldsAndKeys : GroupIssues rowsCross :=
  group_issues _ (fun r h => by simp [opRows, h]) (by decide)
theorem witness_ArithmeticFrame : ∀ r ∈ rowsInt, isAlu (sample r) = true ∧ ∃ t i, two.Issues (sample r) t i := fun r h =>
  ⟨(by decide : ∀ r ∈ rowsInt, isAlu (sample r) = true) r h,
    let ⟨t, i, w, _⟩ := witness_IntegerInstructions r h; ⟨t, i, w⟩⟩

/-! ### Issue, results and traps: states that meet the premises -/

/-- The premises of IssueRuns for an instruction. -/
def runPremises (s : State) (ins : Instr) : Bool :=
  match ins.parts, s.ready with
  | some (opc, f), some (t, x) =>
    let i := t.iss x opc f (extraOf ins)
    ins.wf && (!i.sh.noCore || !x.isMc) && (!i.sh.onlyCore || x.isMc) && ((extraOf ins).bad t x).isNone
      && x.fs.all (fun h => ((x.fib h).pred f.gp.toNat).pois.isNone)
      && i.on.all (fun h => (i.uses h).all fun u => (u.range (x.fib h) x.team.regs).isNone)
      && x.fs.all (fun h => (i.uses h).all fun u => (u.regs (x.fib h)).all fun r => ((x.fib h).reg r).full)
      && !(t.reg (clOff x.c + 0x180)).getLsbD 0
      && i.on.all (fun h => i.sh.cons.all fun op => (i.src op h).2.isNone
          && (i.sh.sa != .ps || ((x.fib h).pred (f.sa.toNat % 8)).pois.isNone))
      && !x.team.strictx && x.fs.all (fun h => !(x.fib h).phase)
  | _, _ => false

/-- IssueRuns: `two` meets them for the sample of every opcode but WFI and TRET (`extraOf`'s refusals none), the core for WFI. -/
theorem witness_IssueRuns : (anywhere.map sample).all (runPremises two) = true := by decide +kernel

/-- The management core's slice: its one fibre in system mode at 0x1000, all registers zero, running with IE set; tables in its
SRAM that map it as the boot ROM's do (R456). -/
def coreWorld : State :=
  { State.reset with
    cur := some (160, 7)
    regs := Tab.set 0 [] 0x228 1
    core := { State.reset.core with running := true, root := 0x1F0000 }
    mem := ((Memory.putBytes [] (sramBase + 0x1F0000) (leBytes 8 0x1F1001)).putBytes (sramBase + 0x1F1000) (leBytes 8 0x1F2001)).putBytes
      (sramBase + 0x1F2000) (leBytes 8 0x8F)
    clusters := List.replicate 160 Cluster.reset ++
      [{ Cluster.reset with teams := [mcTeam 0x1000], cohorts := [cohortOf 1], nextId := 8 }] }

/-- A fibre in trap mode with its record, beside one that is not. -/
def trapped : Fibre := { fibAt 0x1000 [] with
  tm := true
  trec := some ⟨0x3008, 0, 0x0C, 0xFFFF, 1, 0, false, false, false, 0, 0x4E0D, 1, 0, 0⟩ }
def inTrap : State := world (teamOf [trapped]) (cohortOf 1)
/-- The same on an issue whose second fibre has a false guard p1. -/
def inTrap2 : State := world (teamOf [{ trapped with p := modAt trapped.p 1 fun _ => ⟨true, none⟩ }, trapped]) (cohortOf 2)

theorem witness_IssueRuns_core : runPremises coreWorld (.wfi z) = true ∧ runPremises inTrap (.tret z) = true
    ∧ runPremises coreWorld (.tret z) = true := by decide +kernel

/-- A state with one register of fibre 0 changed. -/
def withReg (s : State) (n : Nat) (r : VReg) : State := s.modFibre 0 0 0 fun f => f.setReg n r
/-- What becomes of an attempt. -/
def verdictOf (s : State) (ins : Instr) : Option Verdict :=
  match ins.parts, s.ready with
  | some (opc, f), some (t, x) => some ((t.iss x opc f (extraOf ins)).verdict t (extraOf ins))
  | _, _ => none
/-- Cause, SUB, and each trapping fibre with its INFO, when it traps. -/
def trapKind (s : State) (ins : Instr) : List Nat :=
  match verdictOf s ins with
  | some (.trap q) => [q.cause, q.sub] ++ q.hits.flatMap fun p => [p.1, p.2]
  | _ => []

/-- IssueOtherwise: an attempt that is held, one that waits, one that traps, no cohort, an extension opcode. -/
theorem witness_IssueOtherwise :
    verdictOf (two.modFibre 0 0 0 fun f => { f with phase := true }) (.ld { z with dst := 4, sa := 8, mod := 12 }) = some .held
      ∧ verdictOf (withReg two 8 ⟨0, false, false⟩) (.iadd { z with dst := 2, sa := 8, sb := 9 }) = some .blocked
      ∧ trapKind two (.iadd { z with dst := 64, sa := 8, sb := 9 }) = [0x05, 0, 0, 64, 1, 64]
      ∧ State.reset.ready.isNone = true ∧ two.ready.isSome = true ∧ isEvent (.iadd z) = false := by decide +kernel

/-- TrapRanks: each rank in turn decides: a reserved MOD bit, a register outside the window, a poisoned guard, an empty
source with FE, a hazard in debug hazard mode, a wait, a poisoned address, ALIGNX under STRICTX. -/
theorem witness_TrapRanks :
    trapKind two (.iadd { z with dst := 2, mod := 8 }) = [0x01, 1, 0, 0, 1, 0]
      ∧ trapKind two (.iadd { z with dst := 2, sa := 64 }) = [0x05, 0, 0, 256 + 64, 1, 256 + 64]
      ∧ trapKind (two.modFibre 0 0 0 fun f => f.setPred 2 ⟨true, some 9⟩) (.iadd { z with gp := 2, dst := 2 })
        = [0x07, 1, 0, 2] 
      ∧ trapKind (withReg two 8 ⟨0, false, false⟩) (.iadd { z with fe := 1, dst := 2, sa := 8 }) = [0x06, 0, 0, 256 + 8]
      ∧ trapKind ((two.setReg (clOff 0 + 0x180) 1).modCohort 0 7 fun k => { k with late := [⟨3, 0, .v 8 (VReg.of 1)⟩] })
          (.iadd { z with dst := 2, sa := 8 }) = [0x0B, 0, 0, 256 + 8]
      ∧ verdictOf (withReg two 2 ⟨0, false, false⟩) (.iadd { z with dst := 2, sa := 8 }) = some .blocked
      ∧ trapKind (withReg two 8 (VReg.poisoned 0x1100)) (.st { z with sa := 8, sb := 9, mod := 12 })
        = [0x07, 0, 0, 256 + 8]
      ∧ trapKind (two.modTeam 0 0 fun t => { t with strictx := true }) (.ballot { z with dst := 2, sa := 1 })
        = [0x10, 0, 0, 0, 1, 0] := by decide +kernel

/-- A SOFT trap of fibre 0 of `two`; its handler's pad stands at 0x2000. -/
def soft : Trap := ⟨0x0C, 0, [(0, 0)], 0xFFFF⟩
/-- TrapEntry: the pad is found, and nothing else of the premises fails. -/
theorem witness_TrapEntry : let x := ctx0 two
    let u := (two.padCheck 0 1 0x2000 4 0).2
    (two.padCheck x.c x.team.space x.team.trapv.toNat 4 x.team.etag.toNat).1 = .pass
      ∧ u.team? x.c x.co.team = some x.team ∧ u.cohort? x.c x.co.id = some x.co ∧ x.isMc = false ∧ x.fs.Nodup
      ∧ (∀ h ∈ x.fs, h < x.team.fibres.length) ∧ (soft.hits.map (·.1)).Nodup
      ∧ (∀ p ∈ soft.hits, p.1 ∈ x.fs ∧ (x.fib p.1).tm = false) ∧ x.team.trapv ≠ 0 := by decide +kernel

/-- TrapFaults: no handler; a trap in trap mode; a missing pad; a handler page that waits. -/
theorem witness_TrapFaults :
    (ctx0 (two.modTeam 0 0 fun t => { t with trapv := 0 })).team.trapv = 0
      ∧ ((ctx0 inTrap).fib 0).tm = true ∧ (ctx0 inTrap).isMc = false
      ∧ (two.padCheck 0 1 0x2008 4 0).1 = .fail
      ∧ ({ two with mem := two.mem.putBytes 0x101000 (leBytes 8 0x40) }.padCheck 0 1 0x2000 4 0).1 = .wait := by decide +kernel

/-- Memory of the core: LPAD.h with tag n at 0x800 + 16 n, and a vector table at 0 that names them. -/
def vectored : State := { coreWorld with
  mem := (List.range 7).foldl (fun m n =>
    (m.putBytes (sramBase + 8 * n) (leBytes 8 (0x800 + 16 * n))).putBytes (sramBase + 0x800 + 16 * n)
      (leBytes 8 (0x7614 + 4 * 2 ^ 58 + n * 2 ^ 34))) coreWorld.mem
  regs := Tab.set 0 (Tab.set 0 (Tab.set 0 [] 0x200 4) 0x208 0x7E) 0x228 1 }
/-- R49's example: THERMAL_ALERT (entry 2) is pending and enabled; the core enters its handler with MC_EPC the next PC. -/
theorem test_mc_interrupt : vectored.mcTake = some 2
    ∧ (let w := vectored.mcEnter 2 0x1008 false
      (w.fibre 160 0 0).pc = 0x820 ∧ w.reg 0x218 = 0x1008 ∧ w.ie = false) := by decide +kernel
/-- CoreTrapsAndInterrupts: vectors 0 and 6 have their pads, a table of zeros has none, and the D1 core may be active. -/
theorem witness_CoreTrapsAndInterrupts :
    (vectored.mcVector 0).1 = .pass ∧ (vectored.mcVector 6).1 = .pass ∧ vectored.ie = true
      ∧ regsWf vectored.regs = true ∧ regsWf (vectored.mcVector 6).2.2.regs = true
      ∧ (coreWorld.mcVector 0).1 = .fail
      ∧ (({ vectored with mem := vectored.mem.putBytes (sramBase + 0x1F2000) (leBytes 8 0x40) } : State).mcVector 0).1 = .wait ∧ (vectored.setIe false).ie = false ∧ (ctx0 vectored).isMc = true
      ∧ { vectored with core := { vectored.core with d1 := true } }.core.d1 = true ∧ vectored.core.d1 = false
      ∧ ((({ vectored with agenda := [.issue 160 0] }.takeTurn.2).tick).mcTake) = some 2 := by decide +kernel

/-- ReturnFromTrap: with no guarded fibre; on the core; of one fibre; of one fibre beside another whose guard is false. -/
theorem witness_ReturnFromTrap :
    issues inTrap (.tret { z with gp := 1 }) (fun t i => i.on.isEmpty && sound t i) = true
      ∧ issues coreWorld (.tret z) (fun _ i => i.x.isMc && !i.on.isEmpty) = true
      ∧ issues inTrap2 (.tret { z with gp := 1, mod := 1 }) (fun t i => decide (i.on = [0]) && !i.x.isMc && sound t i) = true := by
  decide +kernel
/-- R269: retry goes to the record's PC, next past the 12 bytes that IW[1:0] = 01 gives. -/
theorem test_tret : ((after (.tret z) inTrap).fibre 0 0 0).pc = 0x3008
    ∧ ((after (.tret { z with mod := 1 }) inTrap).fibre 0 0 0).pc = 0x3014
    ∧ ((after (.tret z) inTrap).fibre 0 0 0).tm = false := by decide +kernel

/-- RegistersAndPendingResults: register 254 of 255 and predicate 6 are the last that hold; results due now and later. -/
def pending : State := two.modCohort 0 7 fun k => { k with
  dist := 4, late := [⟨4, 0, .v 8 (VReg.of 1)⟩, ⟨3, 0, .v 8 (VReg.of 2)⟩, ⟨5, 1, .p 2 ⟨true, none⟩⟩] }
theorem witness_RegistersAndPendingResults :
    (Fibre.blank 255 0).v.length = 255 ∧ (Fibre.blank 255 0).p.length = 7
      ∧ (pending.cohort? 0 7).isSome = true ∧ (pending.team? 0 0).isSome = true
      ∧ ((pending.land 0 7 (some 4)).fibre 0 0 0).reg 8 = VReg.of 1
      ∧ ((pending.land 0 7 (some 4)).fibre 0 0 1).pred 2 = ⟨false, none⟩
      ∧ ((pending.land 0 7 none).fibre 0 0 1).pred 2 = ⟨true, none⟩ := by decide +kernel

/-- FixedLatencyResults and VariableLatencyResults: an issue of `two` is what the state holds. -/
theorem issue_of_two (ins : Instr) (h : (ins.parts.isSome) = true) : (iss0 two ins).Of two := by
  obtain ⟨p, hp⟩ := Option.isSome_iff_exists.mp h
  exact ⟨by simp only [iss0, hp]; rfl, by simp only [iss0, hp]; rfl⟩
theorem witness_FixedLatencyResults : let i := iss0 two (.iadd { z with dst := 2, sa := 8, sb := 9 })
    i.Of two ∧ i.x.fs.Nodup ∧ (∀ h ∈ i.x.fs, h < i.team.fibres.length) ∧ ∀ h, (⟨h, [], 0, none⟩ : Res).h = h :=
  ⟨issue_of_two _ rfl, by decide, by decide, fun _ => rfl⟩
theorem witness_VariableLatencyResults : let i := iss0 two (.fdiv { z with dst := 2, sa := 8, sb := 9 })
    i.Of two ∧ i.x.fs.Nodup ∧ (∀ h ∈ i.x.fs, h < i.team.fibres.length)
      ∧ ((i.on.map fun h => (h, 0, (none : Option Half), (0 : Flags))).map (·.1)) = i.on ∧ i.on = [0, 1] :=
  ⟨issue_of_two _ rfl, by decide, by decide, by decide, by decide⟩

/-! ### Control flow and sets -/

/-- Group 6, the premise common to BranchesAndCalls, MarksAndMembership, ParkingInstructions and EndFibres. -/
theorem witness_group6 : GroupIssues rowsFlow := group_issues _ (fun r h => by simp [opRows, h]) (by decide)

/-- ControlTransfers: all fibres to one address, and each to its own. -/
theorem witness_ControlTransfers : let x := ctx0 two
    two.team? x.c x.co.team = some x.team ∧ two.cohort? x.c x.co.id = some x.co ∧ x.fs ≠ [] ∧ x.fs.Nodup
      ∧ (∀ h ∈ x.fs, h < x.team.fibres.length)
      ∧ (∀ g ∈ x.fs, ∀ k ∈ x.fs, (fun _ => 0x2000 : Nat → Addr) g = (fun _ => 0x2000) k)
      ∧ (∃ g ∈ x.fs, ∃ k ∈ x.fs, (fun h => BitVec.ofNat 48 (4096 + 4 * h) : Nat → Addr) g ≠ BitVec.ofNat 48 (4096 + 4 * k)) := by
  decide +kernel

/-- Whether every check of an issue's targets has a result. -/
def pads (kind : Nat) (r : Pad) (t : State) (i : Iss) : Bool := (t.padsOf i kind).1.all (fun p => p.2 == r) && !i.on.isEmpty
/-- `two` with a pair at v8: a pad of kind 1 at 0x2100, of kind 0 at 0x2200, a word that is none at 0x2008. -/
def at8 (a : Nat) : State := (withReg (withReg two 8 (VReg.of (BitVec.ofNat 32 a))) 9 (VReg.of 0)).modFibre 0 0 1 fun f =>
  (f.setReg 8 (VReg.of (BitVec.ofNat 32 a))).setReg 9 (VReg.of 0)
/-- Return stacks of a length. -/
def stacked (n : Nat) : State := (at8 0x2200).modTeam 0 0 fun t => { t with
  fibres := t.fibres.map fun f => { f with rs := List.replicate n 0x3000 } }

/-- BranchesAndCalls: pads that pass; a stack with one free entry; a stack of one entry. -/
theorem witness_BranchesAndCalls :
    issues (at8 0x2100) (.brx { z with len := .m, sa := 8 }) (pads 1 .pass) = true
      ∧ issues (stacked 7) (.call { z with len := .m, imm := 0x100 })
        (fun t i => sound t i && i.x.fs.all fun h => decide ((i.fib h).rs.length < 8)) = true
      ∧ issues (stacked 7) (.callx { z with len := .m, sa := 8 }) (fun t i => pads 0 .pass t i && sound t i
        && i.on.all fun h => decide ((i.fib h).rs.length < 8 ∧ ((t.padsOf i 0).2.fibre 0 0 h).rs.length < 8)) = true
      ∧ issues (stacked 1) (.ret z) (fun _ i => i.on.all fun h => !(i.fib h).rs.isEmpty) = true := by decide +kernel
/-- ControlFlowIntegrity: targets without a pad, misaligned, and above 2^48; a return from an empty stack. -/
theorem witness_ControlFlowIntegrity :
    issues (at8 0x2008) (.brx { z with len := .m, sa := 8 }) (pads 1 .fail) = true
      ∧ issues (at8 0x2102) (.brx { z with len := .m, sa := 8 }) (fun _ i => decide ((i.src 1 0).1 % 4 ≠ 0)) = true
      ∧ issues (withReg two 9 (VReg.of 0x10000)) (.brx { z with len := .m, sa := 8 }) (fun _ i => decide (2 ^ 48 ≤ (i.src 1 0).1)) = true
      ∧ issues (stacked 0) (.ret z) (fun _ i => i.on.any (fun h => (i.fib h).rs.isEmpty) && i.on.all fun h => (i.fib h).rssp == 0) = true
      ∧ padWord 0x7614 0 0 = true ∧ padWord 0x7E00 0 0 = false := by decide +kernel

/-- `two` with room for a third fibre. -/
def roomy : State := two.modTeam 0 0 fun t => { t with fib := 3, fibres := t.fibres ++ [Fibre.blank 64 0] }
/-- ForkInstruction: every index live; index 2 the lowest that is not; a pad that passes, one that fails, no guarded fibre. -/
theorem witness_ForkInstruction :
    (∀ t, two.team? 0 0 = some t → t.fib ≤ t.fibres.length ∧ ∀ k < t.fib, (t.fibre k).live = true)
      ∧ (∀ t, roomy.team? 0 0 = some t → t.fib ≤ t.fibres.length ∧ (t.fibre 2).live = false
        ∧ ∀ j < 2, (t.fibre j).live = true) := by
  constructor <;> (intro t h; cases h; decide +kernel)
theorem witness_ForkInstruction_pads :
    issues roomy (.fork { z with len := .l, dst := 4, imm := 0x1300 }) (fun t i => !i.on.isEmpty
        && (t.padCheck i.cl i.team.space (i.x.pc + 0x1300).toNat 3 0).1 == .pass) = true
      ∧ issues roomy (.fork { z with len := .l, dst := 4, imm := 0x1308 }) (fun t i => !i.on.isEmpty
        && (t.padCheck i.cl i.team.space (i.x.pc + 0x1308).toNat 3 0).1 == .fail) = true
      ∧ issues roomy (.fork { z with len := .l, gp := 1, dst := 4, imm := 0x1308 }) (fun _ i => i.on.isEmpty) = true := by
  decide +kernel
/-- R233, R357: the child is fibre 2, at the target, with its own seed and the parent's registers; with no index, all ones. -/
theorem test_fork : let r := roomy.forkOne (iss0 roomy (.fork { z with len := .l, dst := 4 })) 0x2300 0
    r.1 = 2 ∧ (r.2.fibre 0 0 2).live = true ∧ (r.2.fibre 0 0 2).pc = 0x2300 ∧ (r.2.fibre 0 0 2).gen = seedOf 0 2
      ∧ (r.2.fibre 0 0 2).reg 8 = VReg.of 5 ∧ (two.forkOne (iss0 two (.fork z)) 0x2300 0).1 = 0xFFFFFFFF := by
  decide +kernel

/-- EndFibres: of one guarded fibre beside one that is not, and of all. -/
theorem witness_EndFibres : issues two (.endf z) sound = true
    ∧ issues (two.modFibre 0 0 1 fun f => f.setPred 1 ⟨true, none⟩) (.endf { z with gp := 1 })
      (fun t i => sound t i && decide (i.on = [1])) = true := by decide +kernel
/-- R175, R358: the last fibre of a team ends it. -/
theorem test_end : ((after (.endf z) two).team? 0 0).map (·.ended) = some true := by decide +kernel

/-- A second cohort of slice 0 that may issue. -/
def shared : State := two.modCl 0 fun k => { k with
  teams := k.teams ++ [{ teamOf [fibAt 0x1000 []] with slot := 1 }]
  cohorts := k.cohorts ++ [Cohort.make 6 1 0 1 none [0] [1]] }
/-- YieldAndSleep: alone and beside another; durations 0 and 5. -/
theorem witness_YieldAndSleep :
    issues two (.yieldc z) (fun t i => !((t.cl 0).cohorts.any fun k => k.id != i.x.co.id)) = true
      ∧ issues shared (.yieldc z) (fun t i => (t.cl 0).cohorts.any fun k =>
        decide (k.slice = i.x.co.slice ∧ k.id ≠ i.x.co.id) && t.offered 0 k) = true
      ∧ issues two (.sleep { z with sa := 10 }) (fun _ i => i.on.all fun h => decide ((i.src 1 h).1 = 0)) = true
      ∧ issues two (.sleep { z with sa := 8 }) (fun _ i => i.on.any fun h => decide ((i.src 1 h).1 ≠ 0 ∧ (i.src 1 h).2 = none)) = true
      ∧ issues two (.sleep { z with len := .m, imm := 0xFFFFFFFF }) = true := by decide +kernel

/-- The slots of a team's barriers and joins, and no access outstanding. -/
def slots (t : State) (i : Iss) : Bool := sound t i && i.team.joins.length == 16 && i.team.bars.length == 16
  && i.on.all (fun h => !(t.fibre i.cl i.slot h).phase) && (t.cl i.cl).pend.isEmpty
/-- MarksAndMembership: sets and slots 0 and 15; a set the cohort was not formed over; a count of 1,024. -/
theorem witness_MarksAndMembership :
    [Instr.jmark { z with len := .m, imm := 0x100 }, .jmark { z with len := .m, mod := 15 }, .join { z with mod := 15 },
        .join { z with mod := 1 }, .barArrive { z with mod := 15 },
        .barArrive { z with len := .m, imm := 1024 }].all (fun i => issues two i slots) = true
      ∧ issues two (.leave { z with mod := 15 }) (fun t i => slots t i && decide (i.x.co.fset ≠ 15)) = true := by
  decide +kernel
/-- R188: two fibres mark slot 3: its count is 2 and its target PC + 0x100. -/
theorem test_jmark : ((after (.jmark { z with len := .m, mod := 3, imm := 0x100 }) two).team? 0 0).map
    (fun t => atD t.joins 3 JoinSlot.zero) = some ⟨2, 0, 0x1100, false⟩ := by decide +kernel

/-- Barrier object 255 expects four arrivals of address space 1; object 0 is off. -/
def barred : State := two.setGbar 255 ⟨1, 0, 0, 4, [0, 0, 0, 0], [0, 0, 0, 0], [0, 0, 0, 0]⟩
/-- `two` formed over set 5, of which both fibres are members. -/
def inSet5 : State := (two.modCohort 0 7 fun k => { k with fset := 5 }).modTeam 0 0 fun t =>
  { t with fibres := t.fibres.map fun f => { f with sets := 33 } }
/-- ParkingInstructions: the waits at slots 0 and 15, a barrier that is on, one that is off, the set the cohort was formed
over, an arrival of guarded fibres and of none. -/
theorem witness_ParkingInstructions :
    [Instr.csync z, .csync { z with mod := 15 }, .jwait { z with mod := 15 }, .barWait { z with mod := 15 },
        .barSync { z with mod := 15 }].all (fun i => issues two i slots) = true
      ∧ issues barred (.gbarWait { z with sa := 8, sb := 255 }) (fun t i => slots t i
        && decide ((t.gbar 255).expect ≠ 0 ∧ (t.gbar 255).asid = i.team.space)) = true
      ∧ issues inSet5 (.leave { z with mod := 5 }) (fun _ i => decide (i.x.co.fset = 5)) = true
      ∧ issues barred (.gbarArrive { z with dst := 4, sa := 255 }) (fun t i => t.mayRelease i
        && decide ((t.gbar 255).expect ≠ 0 ∧ (t.gbar 255).asid = i.team.space ∧ i.on ≠ [])) = true
      ∧ issues barred (.gbarArrive { z with gp := 1, dst := 4, sa := 255 }) (fun t i =>
        decide ((t.gbar 255).expect ≠ 0 ∧ i.on = [])) = true
      ∧ issues barred (.gbarArrive { z with dst := 4, sa := 0 }) (fun t i => decide ((t.gbar 0).expect = 0 ∧ i.on ≠ [])) = true
      ∧ issues barred (.gbarWait { z with sa := 8 }) (fun t i => decide ((t.gbar 0).expect = 0 ∧ i.on ≠ [])) = true
      ∧ (barred.team? 0 0).map (fun m => (m.live.filter fun n => (m.fibre n).sets.getLsbD 0).length) = some 2 := by
  decide +kernel

/-- A team of two at set 0's barrier or at CSYNC, and one at a join slot. -/
def waiting (w0 w1 : Wait) (b : SetBar) (j : JoinSlot) : Team :=
  { teamOf [{ fibAt 0x1000 [] with wait := w0 }, { fibAt 0x1000 [] with wait := w1 }] with
    bars := b :: List.replicate 15 ⟨0, 0⟩
    joins := j :: List.replicate 15 JoinSlot.zero }
/-- BarriersAndJoins: a barrier's phase past and not, a fibre at CSYNC alone and with all, the slot complete, without a
count and short of one; set 15 and slot 15 beside set 0. -/
theorem witness_BarriersAndJoins :
    (let t := waiting (.bar 0) .none ⟨1, 0⟩ JoinSlot.zero;
      t.bars.length = 16 ∧ t.fib ≤ t.fibres.length ∧ (t.fibre 0).lph.length = 16 ∧ (t.fibre 1).lph.length = 16
        ∧ (Fibre.blank 0 0).lph.length = 16 ∧ (t.fibre 0).wait = .bar 0 ∧ phasePast 1 0 = true ∧ phasePast 0 0 = false)
      ∧ (let t := waiting (.csync 0) (.csync 0) ⟨0, 0⟩ JoinSlot.zero;
        t.live = [0, 1] ∧ ∀ k < t.fib, (t.fibre k).wait = .csync 0)
      ∧ (let t := waiting (.join 0) (.join 0) ⟨0, 0⟩ ⟨2, 2, 0x2000, false⟩;
        t.joins.length = 16 ∧ t.fixed = false ∧ (t.settleJoin 9 3 0).fibres.all (fun f => f.wait == .none) = true) := by
  decide +kernel
/-- R195's rule: two arrivals of two members advance the phase and release both. -/
theorem test_barrier : let t := (waiting (.bar 0) (.bar 0) ⟨0, 2⟩ JoinSlot.zero).settleSet 9 3 0
    atD t.bars 0 ⟨0, 0⟩ = ⟨1, 0⟩ ∧ t.fibres.all (fun f => f.wait == .none && f.entered == 10) = true := by decide +kernel

/-! ### Memory -/

/-- Groups 8 and 9. -/
theorem witness_groups89 : GroupIssues rowsMem := group_issues _ (fun r h => by simp [opRows, h]) (by decide)

/-- The traps of a load's lanes. -/
def laneHits (n : Nat) (i : Iss) : List (Nat × Hit) :=
  ((i.on.filter fun h => (i.src 1 h).2.isNone).map (i.lane n)).filterMap fun l => (i.laneHit l).map fun x => (l.h, x)
/-- LoadInstructions: a misaligned address, an aligned one in memory, the scratchpad's last word and the word beyond it, a
poisoned address; LDL with no guarded fibre, at the start of the scratchpad, and of a poisoned address. -/
theorem witness_LoadInstructions :
    issues two (.ld { z with dst := 4, sa := 8, mod := 12 }) (fun t i => sound t i && (trapOf (laneHits 4 i)).isSome) = true
      ∧ issues (at8 0x3000) (.ld { z with dst := 4, sa := 8, mod := 12 }) (fun t i => sound t i && (laneHits 4 i).isEmpty) = true
      ∧ issues (at8 8188) (.ld { z with dst := 4, sa := 8, mod := 20 }) (fun t i => sound t i && (laneHits 4 i).isEmpty
        && i.on.all fun h => decide ((i.lane 4 h).tgt = .scr 8188) && !i.team.scrPoisoned 8188 4) = true
      ∧ issues (at8 8192) (.ld { z with dst := 4, sa := 8, mod := 20 }) (fun t i => sound t i && (trapOf (laneHits 4 i)).isSome) = true
      ∧ issues (withReg (at8 0x3000) 8 (VReg.poisoned 0x1100)) (.ld { z with dst := 4, sa := 8, mod := 12 }) (fun t i =>
        sound t i && (laneHits 4 i).isEmpty && (i.src 1 0).2.isSome) = true
      ∧ issues two (.ldl { z with gp := 1, dst := 4, sa := 8, mod := 16 }) (fun t i => sound t i && i.on.isEmpty) = true
      ∧ issues (at8 0) (.ldl { z with dst := 4, sa := 8, mod := 16 }) (fun t i => sound t i && (i.src 1 0).2.isNone
        && (i.blockHit 0 32).isNone && decide (∀ g ∈ i.on, ∀ h ∈ i.on, i.x.pos g = i.x.pos h → g = h)) = true
      ∧ issues (withReg two 8 (VReg.poisoned 0x1100)) (.ldl { z with dst := 4, sa := 8, mod := 16 }) (fun t i =>
        sound t i && (i.src 1 0).2.isSome) = true
      ∧ issues two (.pref { z with sa := 8, mod := 8 }) sound = true := by decide +kernel

/-- A translation in the TLB of cluster 0 with ACCESSED and DIRTY set: the first gibibyte, of a CLASS. -/
def warm (cls : Nat) (s : State) : State := { s with tlb := [⟨0, 1, 0, 30, 0, BitVec.ofNat 64 (0x38F + 16 * cls), 0x101000, 1, 1⟩] }
/-- Lanes that reach memory of a CLASS, or the scratchpad. -/
def quiet (t : State) (i : Iss) : Bool :=
  sound t i && t.partials.isEmpty && t.regFld 0x980 0 5 == 0 && t.mem.wf && Tab.wf (0 : Byte) i.team.scratch
    && i.on.all (fun h => !t.loading i h && match (i.lane 4 h).tgt with
      | .scr _ => true
      | .mem va => (match t.tlbFind i.cl i.team.space va, t.paOf i.cl i.team.space va 1 with
        | some e, some (pa, _) => bitOf e.acc (e.leafOf va).2 && bitOf e.dirty (e.leafOf va).2 && !isRegs pa
        | _, _ => false)
      | .bad _ => false)
/-- The state in which an access's lanes are found ready. -/
def readyLanes (kind n : Nat) (t : State) (i : Iss) : Bool := match (t.checkLanes i kind (i.on.map (i.lane n))).1 with
  | .ok _ => true
  | _ => false
def lanesAre (r : Ready) (kind n : Nat) (t : State) (i : Iss) : Bool := decide ((t.checkLanes i kind (i.on.map (i.lane n))).1 = r)
/-- StoreInstruction: a misaligned address; a page whose walk is replayed; lanes that are ready; quiet lanes of CLASS PHASE, LIVE
and of the scratchpad. -/
theorem witness_StoreInstruction :
    issues two (.st { z with sa := 8, sb := 10, mod := 12 }) (fun t i => match (t.checkLanes i 1 (i.on.map (i.lane 4))).1 with
        | .trap _ => true
        | _ => false) = true
      ∧ issues { at8 0x3000 with mem := pages.putBytes 0x101000 (leBytes 8 0x40) } (.st { z with sa := 8, sb := 10, mod := 12 })
        (lanesAre .wait 1 4) = true
      ∧ issues (at8 0x3000) (.st { z with sa := 8, sb := 10, mod := 12 }) (readyLanes 1 4) = true
      ∧ issues (warm 0 (at8 0x3000)) (.st { z with sa := 8, sb := 10, mod := 12 }) quiet = true
      ∧ issues (warm 1 (at8 0x3FFFFFFC)) (.st { z with sa := 8, sb := 10, mod := 12 }) quiet = true
      ∧ issues (at8 8188) (.st { z with sa := 8, sb := 10, mod := 20 }) quiet = true := by decide +kernel
theorem witness_StoreInstruction_room : [warm 0 (at8 0x3000), warm 1 (at8 0x3FFFFFFC), at8 8188].all (fun s =>
    issues s (.st { z with sa := 8, sb := 10, mod := 12 }) fun t i => decide ((t.l1Lines i.cl).length + i.on.length ≤ 768)) = true := by
  decide +kernel
/-- R130: both lanes store to one word: the higher position's value stands in the L1. -/
theorem test_store : let s := (warm 0 (at8 0x3000)).modFibre 0 0 1 fun f => f.setReg 10 (VReg.of 0xAABBCCDD)
    ((after (.st { z with sa := 8, sb := 10, mod := 12 }) s).l1Byte 0 0x3000).1 = 0xDD := by decide +kernel

/-- AtomicInstructions: lanes that are ready, of memory and of the scratchpad, and the fibres' scope satisfied. -/
theorem witness_AtomicInstructions :
    [Instr.atom { z with dst := 4, sa := 8, sb := 10, sc := 0, mod := 8 }, .atomc { z with dst := 4, sa := 8, sb := 10, sc := 12, mod := 8 },
        .red { z with sa := 8, sb := 10, sc := 0, mod := 8 }].all (fun ins => issues (at8 0x3000) ins (fun t i => readyLanes 2 4 t i
          && i.on.all fun h => (t.checkLanes i 2 (i.on.map (i.lane 4))).2.scopeReady i false h)) = true
      ∧ issues (at8 0x3000) (.atom { z with dst := 4, sa := 8, sb := 10, sc := 0x14, mod := 9 }) (readyLanes 2 8) = true
      ∧ issues (at8 64) (.atom { z with dst := 4, sa := 8, sb := 10, sc := 0, mod := 16 }) (fun t i =>
        decide ((t.checkLanes i 2 (i.on.map (i.lane 4))).1 = .ok (i.on.map fun h => (i.lane 4 h, .scr 64)))) = true
      ∧ isLocal 0x5FFFFFFFFC = true ∧ two.partials = [] ∧ two.mem.wf = true ∧ two.poisoned 0x3000 = false
      ∧ { two with pois := [0xC0] }.poisoned 0x3000 = true ∧ homeDie (0x3000 + 3) = homeDie 0x3000 := by decide +kernel
/-- AtomicInstructions, what completes at once: nothing leaves its lanes for later, and nothing stands before them. -/
theorem witness_AtomicInstructions_completes :
    [Instr.atom { z with dst := 4, sa := 8, sb := 10, sc := 0, mod := 8 }, .atomc { z with dst := 4, sa := 8, sb := 10, sc := 12, mod := 8 },
        .red { z with sa := 8, sb := 10, sc := 0, mod := 8 }].all (fun ins => [warm 1 (at8 0x3FFFFFFC), warm 0 (at8 0x3000)].all fun s =>
          issues s ins fun t i => quiet t i && i.on.all (fun h => (i.laneHit (i.lane 4 h)).isNone && t.scopeReady i false h)
            && (match t.checkLanes i 2 (i.on.map (i.lane 4)) with | (.ok gs, u) => !u.sendsLater i gs | _ => false)) = true
      ∧ two.latent = [] := by decide +kernel
/-- Four fibres that add 1, 2, 3 and 4 to the word at offset 64 of the scratchpad, which holds 10. -/
def four : State := world { teamOf ([1, 2, 3, 4].map fun n => fibAt 0x1000 [(8, 64), (9, n)]) with
  scratch := [(64, 10)] } (cohortOf 4)
/-- R379's example, in the scratchpad: the lanes in position order receive 10, 11, 13 and 16, and the word becomes 20. -/
theorem test_atom : let w := after (.atom { z with dst := 6, sa := 8, sb := 9, mod := 16 }) four
    ((w.team? 0 0).map fun t => leVal (t.scrBytes 64 4)) = some 20 := by decide +kernel

/-- PhaseInstructions: the forms without a variable, the two with one, a completion, and private offsets on both sides of the
window: PRIVSIZE is 4,096 there. -/
def privy : State := two.modTeam 0 0 fun t => { t with privb := 0x100000, privs := 4096 }
def phased : State := two.modCl 0 fun k => { k with phases := [⟨0, [0], true, false, [], [], [], 0x1000⟩] }
theorem witness_PhaseInstructions :
    [Instr.phaseRel z, .phaseAcq z, .phaseFull z].all (fun i => issues two i sound) = true
      ∧ issues two (.icinv { z with sa := 8, sb := 10 }) (fun t i => sound t i && i.on.all fun h => !(i.fib h).phase) = true
      ∧ issues (at8 0x3000) (.phaseRel { z with sa := 8, sb := 10, mod := 9 }) (fun t i => sound t i
        && match (t.checkLanes i 2 (i.on.map i.varLane)).1 with | .ok _ => true | _ => false) = true
      ∧ issues (at8 0x3000) (.phaseAcq { z with dst := 4, sa := 8, mod := 9 }) (fun t i => sound t i
        && match (t.checkLanes i 2 (i.on.map i.varLane)).1 with | .ok _ => true | _ => false) = true
      ∧ (((phased.cl 0).phases[0]?).map fun op => phased.phaseReady 0 op && op.vars.isEmpty && op.sigs.isEmpty) = some true
      ∧ issues privy (.privalias { z with dst := 4, sa := 8 }) (fun t i => sound t i
        && i.on.all fun h => decide ((i.src 1 h).1 + 1024 < i.team.privs.toNat)) = true
      ∧ issues (withReg privy 8 (VReg.of 3072)) (.privalias { z with dst := 4, sa := 8 }) (fun t i => sound t i
        && i.on.any fun h => (i.src 1 h).2.isNone && decide (i.team.privs.toNat ≤ (i.src 1 h).1 + 1024)) = true := by
  decide +kernel

/-! ### The caddy, engines and timelines -/

/-- Groups A to D. -/
theorem witness_groupA : GroupIssues rowsCaddy := group_issues _ (fun r h => by simp [opRows, h]) (by decide)
theorem witness_groupB : GroupIssues rowsMat := group_issues _ (fun r h => by simp [opRows, h]) (by decide)
theorem witness_groupCD : GroupIssues rowsEngine := group_issues _ (fun r h => by simp [opRows, h]) (by decide)

/-- `two` with a claim of 16 buckets of 32-bit keys and values, OP add.s32, no spill area. -/
def claimed : State := two.modTeam 0 0 fun t => { t with claim := some ⟨4, false, false, 0, 0, 0, 0, 0⟩ }
/-- The same with a claim of 64-bit keys and values, B = 5. -/
def claimed64 : State := two.modTeam 0 0 fun t => { t with claim := some ⟨5, true, true, 1, 0, 0, 0, 0⟩ }
/-- A key operation's groups run without a wait. -/
def runs (op : Iss → GroupOp) (t : State) (i : Iss) : Bool :=
  !i.on.isEmpty && (i.groups.foldl (fun (a : List (Nat × CadOut × Option Half) × Memo × Cad) g =>
    ((a.1 ++ (a.2.2.runGroup i a.2.1 (op i) g).1), (a.2.2.runGroup i a.2.1 (op i) g).2)) ([], [], ⟨t.account i, [], none⟩)).2.2.waits.isEmpty
/-- HCLAIM's sources: configuration 4, base 0, no spill. -/
def asking : State := (withReg two 8 (VReg.of 4)).modFibre 0 0 1 fun f => f.setReg 8 (VReg.of 4)
def ext128 : Fields := { z with len := .l, dst := 4, sa := 8, sb := 13, ext := 16 }
/-- CaddyInstructions: no claim; a claim made, ended, emptied, counted; keys of 32 and 64 bits; a drain from 0, from the last
cursor and from its end. -/
theorem witness_CaddyInstructions :
    [Instr.hfree z, .hclr z, .hins ext128, .hprb { ext128 with sb := 0 }, .hdel { ext128 with sb := 0 }, .hacc ext128,
        .hstat { ext128 with sa := 0, sb := 0 }].all (fun i => issues two i (fun _ i => i.team.claim.isNone && !i.on.isEmpty)) = true
      ∧ issues asking (.hclaim { z with dst := 4, sa := 8, sb := 12, sc := 16 }) (fun _ i => decide (i.on.head? = some 0)
        && i.team.claim.isNone && [1, 2, 3].all (fun op => (i.src op 0).2.isNone)
        && claimOk (i.src 1 0).1 (i.src 2 0).1 (i.src 3 0).1 i.team.caddy) = true
      ∧ issues two (.hclaim { z with gp := 1, dst := 4, sa := 8, sb := 12, sc := 16 }) (fun _ i => i.on.isEmpty) = true
      ∧ [Instr.hfree z, .hclr z, .hstat { ext128 with sa := 0, sb := 0 }].all (fun i => issues claimed i (fun _ i =>
        i.team.claim.isSome && !i.on.isEmpty)) = true
      ∧ issues claimed (.hins ext128) (runs hinsGroup) = true ∧ issues claimed (.hprb { ext128 with sb := 0 }) (runs hprbGroup) = true
      ∧ issues claimed (.hdel { ext128 with sb := 0 }) (runs hdelGroup) = true ∧ issues claimed (.hacc ext128) (runs haccGroup) = true
      ∧ issues claimed64 (.hins { ext128 with sb := 14 }) (runs hinsGroup) = true
      ∧ issues claimed (.hins { ext128 with gp := 1 }) (fun _ i => i.on.isEmpty) = true := by decide +kernel
/-- A drain's premises at a cursor. -/
def drains (c : Nat) (t : State) (i : Iss) : Bool := match i.team.claim with
  | some k =>
    let qs := if c = 0xFFFFFFFF then [] else (List.range (2 ^ (k.b + 3) + k.a - c)).map (c + ·)
    let x := (Cad.scan ⟨t.account i, [], none⟩ i i.on.length qs [] c).2.2
    decide ((i.src 1 (i.on.headD 0)).1 = c) && x.waits.isEmpty && x.fail.isNone && i.on.all fun h => (i.src 1 h).2.isNone
  | none => false
def cursor (c : Nat) : State := (withReg (withReg claimed 8 (VReg.of (BitVec.ofNat 32 c))) 9 (VReg.of 0)).modFibre 0 0 1 fun f =>
  (f.setReg 8 (VReg.of (BitVec.ofNat 32 c))).setReg 9 (VReg.of 0)
theorem witness_CaddyInstructions_drain :
    [0, 127, 0xFFFFFFFF].all (fun c => issues (cursor c) (.hdrn { z with len := .l, dst := 4, sa := 8, ext := 0x1410 }) (drains c))
      = true := by decide +kernel
/-- R391, R396's example: HACC of key 1 in both fibres of `two`, values 3 and 9 into bucket 9: the sum 12 stands there. -/
theorem test_hacc : let s := (claimed.modFibre 0 0 0 fun f => (f.setReg 8 (VReg.of 1)).setReg 13 (VReg.of 3)).modFibre 0 0 1 fun f =>
      (f.setReg 8 (VReg.of 1)).setReg 13 (VReg.of 9)
    ((after (.hacc ext128) s).team? 0 0).bind (fun t => (t.claim.bind fun k => (t.findSlot k 1).map fun p =>
      (p.1, t.slotVal k p.1 p.2))) = some (9, 12) := by decide +kernel
/-- CaddyPlaceThenFind: an empty table of 16 buckets, the largest key and value. -/
theorem witness_CaddyPlaceThenFind : let i := iss0 claimed (.hins ext128)
    let k : Claim := ⟨4, false, false, 0, 0, 0, 0, 0⟩
    (claimed.team? i.cl i.slot).map (fun t => t.claim == some k && Tab.wf (0 : Byte) t.scratch
        && (t.findSlot k 0xFFFFFFFF).isNone) = some true
      ∧ 4 ≤ k.b ∧ k.b ≤ 14 ∧ 0xFFFFFFFF < 2 ^ (8 * k.kBytes) ∧ 0xFFFFFFFF < 2 ^ (8 * k.vBytes)
      ∧ (Cad.place ⟨claimed, [], none⟩ i 0xFFFFFFFF 0xFFFFFFFF).1 = 2 := by decide +kernel

/-- Six operations wait in the matrix queue, and 62 transfers are in flight; the team has 192 KiB of scratchpad. -/
def engines : State :=
  let a (h : Nat) : MatOp := ⟨BitVec.ofNat 64 h, .accz, 0, 0, false, false, 0, 0x1000, .scratch 0, .scratch 0, [], none, false, [], false⟩
  let y : Xfer := ⟨0, 1, 0, 0, 1, 1, (0, 0, 2), 0x1000, .scratch 0, none, 0, [16], 11, none, false, [], []⟩
  let f := fibAt 0x1000 []
  { world { teamOf [f, f] with scr := 192, matq := (List.range 6).map a } (cohortOf 2) with xfers := List.replicate 62 y }
/-- The same with a poisoned handle in v8, which a copy does not look up (R400). -/
def poisoned8 : State := (withReg engines 8 (VReg.poisoned 0x1100)).modFibre 0 0 1 fun f => f.setReg 8 (VReg.poisoned 0x1100)
/-- Every guarded fibre's request is in order and there is room for it. -/
def asks (ask : Iss → State → Nat → MatAsk × State) (t : State) (i : Iss) : Bool :=
  let r := i.on.foldl (fun (a : List (Nat × MatAsk) × State) h => (a.1 ++ [(h, (ask i a.2 h).1)], (ask i a.2 h).2)) ([], t)
  sound t i && i.x.co.part.isNone && r.1.length == 2 && r.1.all (fun a => match a.2 with | .ok _ => true | _ => false)
    && (match r.2.team? i.cl i.slot with
      | some tm => decide ((tm.matq.filter fun o => !o.started).length + i.on.length ≤ 8
        ∧ (r.2.timeline (i.cl / 40 * 4096 + 4000 + i.cl % 40 / 2)).issued.toNat + i.on.length < 2 ^ 64)
      | none => false)
def asksX (ask : Iss → State → Nat → XferAsk × State) (t : State) (i : Iss) : Bool :=
  let r := i.on.foldl (fun (a : List (Nat × XferAsk) × State) h => (a.1 ++ [(h, (ask i a.2 h).1)], (ask i a.2 h).2)) ([], t)
  let key := i.f.imm.toNat % 2 ^ 16
  sound t i && i.x.co.part.isNone && r.1.length == 2
    && r.1.all (fun a => match a.2 with | .ok o => decide (o.ref.toNat = key ∧ o.cl = i.cl) | _ => false)
    && decide (key < 2 ^ 14 ∧ key % 4096 < 4000 ∧ (r.2.timeline key).issued.toNat + i.on.length < 2 ^ 64
      ∧ (r.2.xfers.filter fun y => y.cl == i.cl).length + i.on.length ≤ 64)
/-- EnginesAndTimelines: MMA of operands in the scratchpad; ACCZ of tile 1; ACCLD and ACCST in the scratchpad; TCOPY and TFILL
under the highest counter a program may name; TLSIG; TLWAIT met and not; TLQRY. -/
theorem witness_EnginesAndTimelines :
    issues engines (.mma { z with len := .l, dst := 4, sa := 20, sb := 21, mod := 24 }) (asks fun i s h => s.askMma i h) = true
      ∧ issues engines (.accz { z with dst := 4, mod := 1 }) (asks fun i s h => s.askAccz i h) = true
      ∧ issues engines (.accld { z with len := .l, dst := 4, sa := 20, mod := 9 }) (asks fun i s h => s.askAcc i .accld false h) = true
      ∧ issues engines (.accst { z with len := .l, dst := 4, sa := 20, mod := 9 }) (asks fun i s h => s.askAcc i .accst false h) = true
      ∧ issues poisoned8 (.tcopy { z with len := .l, dst := 4, sa := 8, sb := 12, sc := 16, imm := 0x3F9F, ext := 20 })
        (asksX fun i s h => s.askCopy i h) = true
      ∧ issues engines (.tfill { z with len := .l, dst := 4, sa := 20, sb := 16, mod := 1, imm := 0x3F9F }) (asksX fun i s h => s.askFill i h)
        = true := by decide +kernel
theorem witness_EnginesAndTimelines_timelines :
    issues two (.tlsig { z with sa := 8, sb := 12 }) (fun t i => sound t i && i.on.all fun h =>
        decide (i.tlref h < 2 ^ 14 ∧ i.tlref h % 4096 < 4000)) = true
      ∧ issues two (.tlwait { z with dst := 4, sa := 8, sb := 12 }) (fun t i => sound t i && !i.on.isEmpty && i.on.all fun h =>
        (i.tlPois h).isNone && !t.loading i h && decide (i.tlref h < 2 ^ 14 ∧ (i.tlval h).1 ≤ (t.timeline (i.tlref h)).value.toNat
          ∧ (i.tlval h).1 < (t.timeline (i.tlref h)).errv.toNat)) = true
      ∧ issues two (.tlwait { z with len := .m, dst := 4, sa := 8, imm := 1 }) (fun t i => sound t i && i.on.all (fun h =>
        (i.tlPois h).isNone && decide (i.tlref h < 2 ^ 14))
          && i.on.any fun h => decide ((t.timeline (i.tlref h)).value.toNat < (i.tlval h).1)) = true
      ∧ issues two (.tlqry { z with dst := 4, sa := 8 }) (fun t i => sound t i && i.on.all fun h =>
        (i.src 1 h).2.isNone && decide (i.tlref h < 2 ^ 14)) = true := by decide +kernel

/-- R122: a record of rank 2, BF16, 64 by 64, rows of 128 bytes, tiles of 8 by 2; with a reserved FMT it is none. -/
def record (fmt : Nat) : List Byte := leBytes 8 (0x40000 + fmt * 2 ^ 48 + 2 ^ 52) ++ leBytes 4 0 ++ [7, 1] ++ List.replicate 14 0
  ++ leBytes 5 (64 + 64 * 2 ^ 20) ++ List.replicate 35 0 ++ leBytes 4 8 ++ List.replicate 56 0
theorem test_record : recParse (record 2) = some ⟨0x40000, 2, 0, 0, [8, 2], [64, 64], [0, 128]⟩ ∧ recParse (record 14) = none := by
  decide +kernel

/-- A counter at 6 of 9 with 7 and 9 outstanding; one that has given its last number. -/
def counting : State := { State.reset with tl := [(5, ⟨6, 9, 0xFFFFFFFFFFFFFFFF, [7, 9]⟩), (6, ⟨0, 0xFFFFFFFFFFFFFFFF, 0xFFFFFFFFFFFFFFFF, []⟩)] }
/-- TimelineCounters: a counter with numbers left and one without; the table in its form; no signal waits. -/
theorem witness_TimelineCounters : (counting.timeline 5).issued ≠ BitVec.allOnes 64 ∧ (counting.timeline 6).issued = BitVec.allOnes 64
    ∧ Tab.wf Timeline.reset counting.tl = true ∧ counting.sigs = [] ∧ ∀ m ∈ (counting.timeline 5).out, m < 2 ^ 64 := by
  decide +kernel
/-- R405: retiring 7 leaves 9 outstanding, so VALUE becomes 8; failing number 3 lowers ERRV to it. -/
theorem test_timeline : ((counting.tlRetire 5 7).timeline 5).value = 8 ∧ ((counting.tlRetire 5 7).timeline 5).out = [9]
    ∧ ((counting.tlFail 5 3).timeline 5).errv = 3 ∧ (counting.tlNumber 5).map (·.1) = some 10 := by decide +kernel

/-- One fibre, that record in slot 1 of address space 1, generation 0, both in their L2, the die's engines knowing the first
gibibyte; v20 holds its handle. -/
def recorded : State :=
  { world { teamOf [fibAt 0x1000 [(20, 1)]] with scr := 192 } (cohortOf 1) with
    mem := (Memory.putBytes [] 0x8080 (record 2)).putBytes 0x9004 (leBytes 4 0x10000)
    spaces := Tab.set Space.reset [] 1 ⟨true, 0, 0x100000, false, 0x8000, 0x9000, false⟩
    tlb := [⟨161, 1, 0, 30, 0, 0x38F, 0x101000, 1, 1⟩]
    l2 := [(514, 1), (515, 1), (576, 1)] }
/-- Room for an engine instruction of every guarded fibre. -/
def room (t : State) (i : Iss) : Bool := sound t i && i.x.co.part.isNone && decide (i.team.matWaiting + i.on.length ≤ 8
  ∧ (t.timeline 4000).issued.toNat + i.on.length < 2 ^ 64 ∧ (t.timeline 0x3F9F).issued.toNat + i.on.length < 2 ^ 64
  ∧ (t.xfers.filter fun y => y.cl == i.cl).length + i.on.length ≤ 64 ∧ i.f.ext.toNat % 4 < i.team.acc)
/-- Each fibre's handle in source A gives a record of a format and changes nothing. -/
def readsRec (t : State) (i : Iss) (fmt : Nat) : Bool := i.on.all fun h => match t.record 161 1 i.team.priv (i.src 1 h).1 with
  | (.ok r, u) => decide (r.fmt = fmt ∧ u = t)
  | _ => false
/-- EnginesAndTimelines, what enters at once: operands in the scratchpad and by a handle whose record reads, with room in the queue;
transfers under the highest counter a program may name, one of them of a poisoned handle. -/
theorem witness_EnginesAndTimelines_entered :
    issues engines (.mma { z with len := .l, dst := 4, sa := 20, sb := 21, mod := 24 }) (fun t i => room t i
        && i.on.all fun h => !i.team.scrBad (i.src 1 h).1 (256 * 128) && !i.team.scrBad (i.src 2 h).1 (128 * 128)) = true
      ∧ issues engines (.accz { z with dst := 4, mod := 1 }) (fun t i => room t i && decide (1 < i.team.acc)) = true
      ∧ issues engines (.accld { z with len := .l, dst := 4, sa := 20, mod := 9 }) (fun t i => room t i
        && i.on.all fun h => !i.team.scrBad (i.src 1 h).1 65536) = true := by decide +kernel
theorem witness_EnginesAndTimelines_records :
    [Instr.accld { z with len := .l, dst := 4, sa := 20, sc := 16, mod := 2 }, .accst { z with len := .l, dst := 4, sa := 20, sc := 16, mod := 2 }].all
        (fun ins => issues recorded ins fun t i => room t i && readsRec t i 2) = true := by decide +kernel
theorem witness_EnginesAndTimelines_tcopy :
    issues recorded (.tcopy { z with len := .l, dst := 4, sa := 20, sb := 20, sc := 16, imm := 0x3F9F, ext := 20 }) (fun t i =>
      room t i && readsRec t i 2) = true := by decide +kernel
theorem witness_EnginesAndTimelines_tfill :
    issues recorded (.tfill { z with len := .l, dst := 4, sa := 20, sb := 16, sc := 16, imm := 0x3F9F }) (fun t i =>
      room t i && readsRec t i 2) = true := by decide +kernel
theorem witness_EnginesAndTimelines_rest :
    issues poisoned8 (.tcopy { z with len := .l, dst := 4, sa := 8, sb := 12, sc := 16, imm := 0x3F9F, ext := 20 }) room = true
      ∧ issues engines (.tfill { z with len := .l, dst := 4, sa := 20, sb := 16, mod := 1, imm := 0x3F9F }) room = true := by decide +kernel
/-! ### Tasks, deadlines and the system -/

/-- Group E: all but TRET and WFI. -/
theorem witness_groupE : (rowsSystem.filter fun r => r.opc != 0x384 && r.opc != 0x38A).all (fun r => issues two (sample r)) = true := by
  decide +kernel

/-- One active step: id 7, counter 0x1009, n = 10, T = 100, declared by queue 3 in address space 1, slot 0. -/
def step7 : Step := ⟨0, 7, 0x1009, 10, 100, 1, some 3, some 1, BitVec.allOnes 64, false, 0, [(0, 0)], 0⟩
/-- One fibre whose v8 holds a number, beside that step. -/
def lone (n : Nat) : State := { world (teamOf [fibAt 0x1000 [(8, n)]]) (cohortOf 1) with steps := [step7] }
/-- TasksAndDeadlines, the instructions: TSPAWN with and without guarded fibres; a declaration; an end of the step and of one
that is not active; a query. -/
theorem witness_TasksAndDeadlines :
    issues two (.tspawn { z with dst := 4, sa := 8 }) (fun t i => !i.on.isEmpty && t.mayRelease i && (t.spawnWaits i).isEmpty) = true
      ∧ issues two (.tspawn { z with gp := 1, dst := 4, sa := 8 }) (fun _ i => i.on.isEmpty) = true
      ∧ issues two (.dlstep { z with len := .l, dst := 4, sa := 8, sb := 12, sc := 16, imm := 0x1009 }) = true
      ∧ [7, 8].all (fun n => issues (lone n) (.dlend { z with dst := 4, sa := 8 }) (fun t i => decide (i.on = [0])
        && (t.steps.find? fun p => p.id.toNat == (i.src 1 0).1 && p.asid == i.stepSpace).isSome == (n == 7))) = true
      ∧ issues two (.dlqry { z with dst := 4, sa := 8 }) = true := by decide +kernel
/-- TasksAndDeadlines, the declarations: id 0; TLREF 0x4000; another space's step; a fresh id with room, its target at the
counter's value, its time past, and its time now. -/
theorem witness_TasksAndDeadlines_declare : let t : State := { lone 0 with ptime := 50, tl := [(0x1009, ⟨10, 10, BitVec.allOnes 64, []⟩)] }
    (t.steps.find? fun p => p.id == 7) = some step7 ∧ step7.asid ≠ some 2 ∧ (∀ p ∈ t.steps, p.id ≠ 8)
      ∧ (∃ k, k < 256 ∧ ∀ p ∈ t.steps, p.slot ≠ k) ∧ (10 : DWord).toNat ≤ (t.timeline 0x1009).value.toNat
      ∧ (t.timeline 0x1009).value.toNat < (11 : DWord).toNat ∧ (49 : DWord).toNat < t.ptime ∧ t.ptime ≤ (50 : DWord).toNat := by
  refine ⟨by decide, by decide, by decide, ⟨255, by decide, by decide⟩, by decide, by decide, by decide, by decide⟩
/-- R90, R91: those declarations answer 4, 4, 4, met, missed and declared in slot 1. -/
theorem test_declare : let t : State := { lone 0 with ptime := 50, tl := [(0x1009, ⟨10, 10, BitVec.allOnes 64, []⟩)] }
    [t.declareStep true 0 0x1009 11 50 0 none none, t.declareStep true 8 0x4000 11 50 0 none none,
        t.declareStep true 7 0x1009 11 50 0 none (some 2), t.declareStep true 8 0x1009 10 50 0 none none,
        t.declareStep true 8 0x1009 11 49 0 none none, t.declareStep true 8 0x1009 11 50 0 none none].map (·.1) = [4, 4, 4, 2, 3, 0]
      ∧ ((t.declareStep true 8 0x1009 11 50 0 none none).2.steps.map (·.slot)) = [0, 1] := by decide +kernel

/-- One fibre whose pair v12 holds a value. -/
def holding (v : Nat) : State := world (teamOf [fibAt 0x1000 [(12, v % 2 ^ 32), (13, v / 2 ^ 32)]]) (cohortOf 1)
/-- A breakpoint enabled on cluster 0. -/
def broken : State := two.setReg (clOff 0 + 0x188) 1
/-- SystemInstructions: a write of each register by one fibre at the ends of its range; SOFT and TABORT with and without a
guarded fibre, and on the core; PCLR in trap mode and out of it, of a register and of p6; a breakpoint that is off, on,
and resumed; WFI; counters 0 to 16. -/
theorem witness_SystemInstructions :
    [0, 1, 2, 5].all (fun n => issues (holding 0xFFFFFFFF) (.swr { z with sa := n, sb := 12 }) (fun _ i => decide (i.on = [0]))) = true
      ∧ [0, 2 ^ 48 - 256].all (fun v => issues (holding v) (.swr { z with sa := 3, sb := 12 }) (fun _ i => decide (i.on = [0]
        ∧ (i.src 2 0).1 = v) && !i.team.spilled)) = true
      ∧ [0, 2048, 2 ^ 24].all (fun v => issues (holding v) (.swr { z with sa := 4, sb := 12 }) (fun _ i => decide (i.on = [0]
        ∧ (i.src 2 0).1 = v) && !i.team.spilled)) = true
      ∧ issues coreWorld (.swr { z with sa := 0x80, sb := 12 }) (fun _ i => decide (i.on = [0])) = true
      ∧ [Instr.trap z, .tabort z].all (fun i => issues two i (fun _ i => !i.on.isEmpty && !i.x.isMc)) = true
      ∧ [Instr.trap { z with gp := 1 }, .tabort { z with gp := 1 }].all (fun i => issues two i (fun _ i => i.on.isEmpty)) = true
      ∧ issues coreWorld (.tabort z) (fun _ i => !i.on.isEmpty && i.x.isMc) = true := by decide +kernel
theorem witness_SystemInstructions_more :
    [two, inTrap].all (fun s => issues s (.pclr { z with dst := 63 }) (fun _ i => decide (i.on.head? = some 0))
        && issues s (.pclr { z with dst := 6, mod := 1 }) (fun _ i => decide (i.on.head? = some 0))) = true
      ∧ issues two (.bkpt z) (fun t _ => !(t.reg (clOff 0 + 0x188)).getLsbD 0) = true
      ∧ issues broken (.bkpt z) (fun t i => !i.x.isMc && !i.on.isEmpty && (t.reg (clOff 0 + 0x188)).getLsbD 0
        && i.x.co.hold != .resumed && regsWf t.regs) = true
      ∧ issues (broken.modCohort 0 7 fun k => { k with hold := .resumed }) (.bkpt z) (fun _ i => i.x.co.hold == .resumed) = true
      ∧ issues coreWorld (.wfi z) (fun _ i => !i.on.isEmpty) = true ∧ issues coreWorld (.wfi { z with gp := 1 }) (fun _ i => i.on.isEmpty) = true
      ∧ [0, 8, 16].all (fun n => issues two (.perfrd { z with dst := 4, sa := n })) = true
      ∧ [0, 1, 2, 3, 4, 5, 8, 15].all (fun n => issues two (.srd { z with dst := 4, sa := n })) = true := by decide +kernel
/-- R226, R421: SWR of FPSTAT clears the flags written as 1; of PRIVSIZE takes 2^24. -/
theorem test_swr : ((after (.swr { z with sa := 1, sb := 12 }) ((holding 2).modTeam 0 0 fun t => { t with fpstat := 3 })).team? 0 0).map
      (fun t => (t.fpstat, (t.sysSettle none).fpstat)) = some (3, 1)
    ∧ ((after (.swr { z with sa := 4, sb := 12 }) (holding (2 ^ 24))).team? 0 0).map
      (fun t => (t.sysSettle none).privs) = some 0x1000000 := by decide +kernel
/-- R424: a breakpoint that is on holds the cohort, and DBG_BK names the team slot and the PC. -/
theorem test_bkpt : ((after (.bkpt z) broken).cohort? 0 7).map (·.hold) = some .bkpt
    ∧ (after (.bkpt z) broken).reg (clOff 0 + 0x188) = 0x10000003 := by decide +kernel

/-- SystemInstructions, a register written in an earlier cycle and in this one: PRIVBASE at its greatest, PRIVSIZE at its ends. -/
theorem witness_SystemInstructions_settle : let m : Team := { teamOf [fibAt 0x1000 []] with sysw := [(5, 0, 3, 0xFFFFFFFFFF00)] }
    m.sysw = [(5, 0, 3, 0xFFFFFFFFFF00)] ∧ m.spilled = false ∧ 0xFFFFFFFFFF00 % 256 = 0 ∧ 0xFFFFFFFFFF00 < 2 ^ 48
      ∧ (m.sysSettle (some 5)) = m ∧ (m.sysSettle (some 6)).privb = 0xFFFFFFFFFF00
      ∧ [0, 2048, 2 ^ 24].all (fun v => v == 0 || v % 1024 == 0 && decide (2048 ≤ v ∧ v ≤ 2 ^ 24)) = true := by decide +kernel
/-! ### The front end -/

/-- Queue 3 of PF0, in address space 1: a ring of 64 units at 0x50000. -/
def queue3 (head tail : Nat) : Queue :=
  ⟨.running, true, 0, false, BitVec.ofNat 32 head, BitVec.ofNat 32 tail, 0x50000, 0, 0, 0, false, 1, 3, false, 0, 0, 0, 0⟩
/-- `two` with that queue, whose head is a packet of a type and length with bytes set at offsets. -/
def ring (ty len : Nat) (body : List (Nat × Nat × Nat)) : State := { two with
  queues := [(3, queue3 0 len)]
  tlb := [⟨161, 1, 0, 30, 0, 0x38F, 0x101000, 1, 1⟩]
  mem := body.foldl (fun m b => m.putBytes (0x50000 + b.1) (leBytes b.2.1 b.2.2)) (pages.putBytes 0x50000 (leBytes 2 (ty + 256 * len))) }
/-- What the front end finds: 1 a packet to run, 2 one that halts with a code, 3 one that launches; 0 otherwise; and its type. -/
def found (s : State) : Nat × Nat := match (s.look 3).1 with
  | .go p => (1, p.ty)
  | .halt c p => (2 + 16 * c, p.ty)
  | .launch p _ _ => (3, p.ty)
  | _ => (0, 0)
/-- PacketEvents: a packet of each type that is served next, each with its fields at an end of their ranges. -/
theorem witness_PacketEvents :
    [ring 0x01 1 [], ring 0x02 64 [], ring 0x03 1 [(8, 1, 1)], ring 0x12 1 [(8, 8, 0x60000), (16, 1, 1)], ring 0x12 1 [(16, 1, 2)],
        ring 0x12 1 [(16, 1, 3)], ring 0x20 1 [(24, 8, 2 ^ 40), (40, 2, 0x3FFF)], ring 0x21 1 [(16, 2, 0x3FFF)],
        ring 0x22 1 [(16, 2, 0x3FFF)], ring 0x30 1 [(32, 4, 7)]].map (fun s => (found s, s.serveNext))
      = [0x01, 0x02, 0x03, 0x12, 0x12, 0x12, 0x20, 0x21, 0x22, 0x30].map fun t => ((1, t), some 3) := by decide +kernel
/-- The halts: NOP of no length, LAUNCH_TASK of two units, an empty GRAPH_SUBMIT, a MEM_ATTR of no page; a class change of a
page whose leaf the walk finds. -/
theorem witness_PacketEvents_halts :
    [ring 0x01 0 [], ring 0x10 2 [], ring 0x11 1 [], ring 0x40 1 []].map (fun s => found { s with queues := [(3, queue3 0 64)] })
      = [(2 + 48, 1), (2 + 48, 0x10), (2 + 48, 0x11), (2 + 48, 0x40)] := by decide +kernel
/-- `two` with a page of 4 KiB at VA 2^39. -/
def paged (s : State) : State := { s with mem := (((s.mem.putBytes 0x100008 (leBytes 8 0x102001)).putBytes 0x102000
  (leBytes 8 0x103001)).putBytes 0x103000 (leBytes 8 0x104001)).putBytes 0x104000 (leBytes 8 0x70307) }
/-- A TASK's TCB at an address: one team of one fibre with 16 registers at 0x1000. -/
def tcbAt (a : Nat) (s : State) : State := { s with
  mem := (s.mem.putBytes a (leBytes 8 0x1000)).putBytes (a + 48) (leBytes 8 (1 + 2 ^ 16 + 2 ^ 27 + 16 * 2 ^ 38)) }
theorem witness_PacketEvents_memAttr : let s := paged (ring 0x40 1 [(8, 8, 2 ^ 39), (16, 4, 1), (20, 1, 3)])
    (found s, s.serveNext) = ((1, 0x40), some 3) := by decide +kernel
theorem witness_PacketEvents_launch : let s := tcbAt 0x60000 (ring 0x10 1 [(8, 8, 0x60000)])
    (found s, s.serveNext) = ((3, 0x10), some 3) := by decide +kernel
theorem witness_PacketEvents_graph : let s := tcbAt 0 (ring 0x11 1 [(8, 8, 0x70000), (16, 4, 1)])
    (found s, s.serveNext) = ((3, 0x11), some 3) := by decide +kernel
/-- What the packet at the head needs to be checked now and pass. -/
def ready3 (s : State) : Bool := decide (s.serveNext = some 3) && Tab.wf Queue.reset s.queues && (s.space 1).live
  && s.windowFree != 0 && (match s.packetAt 3 with
    | some (p, bad, bb) => (p.fault (s.queue 3) bad).isNone && !s.orderHeld 3 p && !bb
    | none => false)
/-- PacketEvents, what enters at once: LAUNCH_TASK by reference and with its TCB inline, GRAPH_SUBMIT of one node. -/
theorem witness_PacketEvents_entered :
    (let s := tcbAt 0x60000 (ring 0x10 1 [(8, 8, 0x60000)]);
      ready3 s && (match (s.feTcb 1 0x60000).1 with | .ok c => launchable c | _ => false)) = true
    ∧ (let s := tcbAt 0x50040 (ring 0x10 3 [(8, 8, 0x60000)]);
      ready3 s && (match s.packetAt 3 with
        | some (p, _, _) => (match s.fePut 1 0x60000 ((p.bytes.drop 64).take 128) with
          | (.ok .., u) => (match (u.feTcb 1 0x60000).1 with | .ok c => launchable c | _ => false)
          | _ => false)
        | none => false)) = true
    ∧ (let s := tcbAt 0 (ring 0x11 1 [(8, 8, 0x70000), (16, 4, 1)]);
      ready3 s && (match s.feRead 1 0x70000 8 with
        | (.ok _, u) => (match u.feTcbs 1 [0] with | (.ok ts, _) => graphOk [0] ts | _ => false)
        | _ => false)) = true
    ∧ two.spaceHeld 1 = false ∧ two.latent = [] := by decide +kernel
/-- The pending packets: a fence, a TL_WAIT that is met, failed, and not met, a TL_SIGNAL with no older number outstanding, and a
class change that is over. -/
def pend (w : PktWait) : State := { two with
  queues := [(3, queue3 1 1)]
  pkts := [⟨0, 3, 0, 0x103, 0, 1, w⟩]
  tl := [(5, ⟨6, 9, 0xFFFFFFFFFFFFFFFF, [7, 9]⟩), (6, ⟨0, 0, 0, []⟩)] }
theorem witness_PacketEvents_pending :
    ((pend .fence).pending 3 (·.wait == .fence)).map ((pend .fence).oldest ·) = some true
      ∧ [(5, 6), (5, 7), (6, 1)].map (fun (p : Nat × Nat) => (((pend (.wait (BitVec.ofNat 16 p.1) (BitVec.ofNat 64 p.2))).pending 3 (·.wait.isWait)).isSome,
          ((pend .fence).timeline p.1).failed, decide (p.2 ≤ ((pend .fence).timeline p.1).value.toNat)))
        = [(true, false, true), (true, false, false), (true, true, false)]
      ∧ ((pend (.signal 5 6)).pending 3 (·.wait.isSignal)).map ((pend (.signal 5 6)).oldest ·) = some true
      ∧ (pend (.signal 5 6)).tlBlocked 5 6 = false ∧ (pend (.signal 5 6)).tlBlocked 5 7 = true
      ∧ ((pend (.memattr 4)).pending 3 fun p => (pend (.memattr 4)).attrOver p.wait).isSome = true := by decide +kernel
/-- R38's example: at unit 62 of 64 a packet of three units straddles the end; one of two does not. -/
theorem test_straddle : let k := { queue3 446 451 with size := 0 }
    (⟨0x20310, []⟩ : Packet).fault k false = some 1 ∧ (⟨0x202, []⟩ : Packet).fault k false = none := by decide +kernel

/-- QueueControl: a queue bound to PF0 that runs; one that is disabled; tails at the last and beyond the last unit; the
functions a queue may be bound to. -/
def queued : State := { two with queues := [(3, queue3 0 1), (4, { queue3 0 0 with fn := true }), (16383, { queue3 0 0 with vf := 31 })] }
theorem witness_QueueControl : Tab.wf Queue.reset queued.queues = true ∧ queued.doorQueue .pf0 3 = some 3
    ∧ queued.doorQueue .pf0 16383 = some 16383 ∧ (queued.queue 3).boundTo .pf0 = true ∧ (queued.queue 4).boundTo .pf0 = false
    ∧ (queued.queue 3).state = .running ∧ (queued.queue 3).units = 64 ∧ ((64 : Word) - (queued.queue 3).head).toNat ≤ 64
    ∧ 64 < ((65 : Word) - (queued.queue 3).head).toNat ∧ (queued.queue 5).enable = false ∧ (queued.queue 3).enable = true
    ∧ (queued.queue 3).fn = false ∧ (queued.queue 3).vf = 0 ∧ (queued.queue 4).fn = true ∧ (queued.queue 16383).vf = 31 := by
  decide +kernel
theorem witness_QueueControl_halted : let s : State := { two with queues := [(3, { queue3 0 0 with enable := false, state := .halted })] }
    Tab.wf Queue.reset s.queues = true ∧ s.doorQueue .pf0 3 = some 3 ∧ (s.queue 3).enable = false ∧ (s.queue 3).state = .halted := by
  decide +kernel
/-- The order of R39's checks, one packet for each outcome. -/
theorem witness_QueueControl_checks : let k := queue3 62 65
    [(⟨0x10, []⟩ : Packet), ⟨0x310, []⟩, ⟨0x104, []⟩, ⟨0x1000101, []⟩, ⟨0x101, []⟩].map (fun p => p.fault k false)
      = [some 3, some 1, some 2, some 3, none] := by decide +kernel
/-- R33: a tail of 64 units beyond the head is taken; of 65 sets DBERR. -/
theorem test_doorbell : ((after (.qtail .pf0 3 64) queued).queue 3).tail = 64
    ∧ ((after (.qtail .pf0 3 65) queued).queue 3).tail = 1 ∧ ((after (.qtail .pf0 3 65) queued).queue 3).dberr = true := by
  decide +kernel

/-! ### Tasks, teams and contexts -/

/-- A TASK of one team of one fibre with 16 registers at 0x1000; a COND or LOOP on the word at 0x60100. -/
def tcb0 (kind : TaskKind) : Tcb :=
  ⟨kind, 3, false, 0x1000, 0, 0x70000, 0, 0x2000, 0, 0, 16, 1, 1, 1, 0, 0, 0, 0, false, false, false, 0, 4, 0x60100, [], [], []⟩
/-- Task 9 in a state. -/
def task9 (kind : TaskKind) (st : TaskState) : Task :=
  ⟨9, 1, 0x60000, tcb0 kind, none, none, 0, st, 0, [], [], [], none, 0, 0, 0, 0, 0, false, none, false⟩
/-- One fibre that spawns the TASK at 0x60000, and what its first lines find: a TCB to launch or not, the window full or not. -/
def spawner (s : State) : State := tcbAt 0x60000 { s with mem := (lone 0x60000).mem }
def spawns (good full : Bool) (t : State) (i : Iss) : Bool := i.on == [0] && !t.loading i 0 && !(t.fibre i.cl i.slot 0).phase
  && t.repl.applied.all (fun n => decide ((i.fib 0).repl ≤ n)) && (t.cl i.cl).dirty.isEmpty && !i.x.isMc
  && (t.space i.team.asid).live && (match t.feTcb i.team.asid (i.src 1 0).1 with
    | (.ok c, u) => launchable c == good && (u.windowFree == 0) == full
    | _ => false)
theorem witness_TasksAndDeadlines_spawn : let ts : Instr := .tspawn { z with dst := 4, sa := 8 }
    let s := spawner (lone 0x60000)
    issues s ts (spawns true false) = true
      ∧ issues { s with tasks := List.replicate 4096 { task9 .task .running with tcba := 0 } } ts (spawns true true) = true
      ∧ issues { s with mem := s.mem.putBytes (0x60016) [1] } ts (spawns false false) = true
      ∧ issues { lone 0x60000 with spaces := [] } ts (fun t i => !(t.space i.team.asid).live) = true := by decide +kernel
/-- `two` with that task; the word at 0x60100 holds `v`. -/
def tasked (k : Task) (v : Nat) : State := { two with tasks := [k], mem := pages.putBytes 0x60100 (leBytes 4 v) }
/-- What the front end reads of the condition word: its value, or a fault's cause beyond 2^32. -/
def condOf (s : State) : Nat := match (s.condRead 1 0x60100).1 with
  | .ok v => v
  | .fault c => 2 ^ 32 + c
  | .wait _ => 2 ^ 33
/-- TaskAndTeamEvents, the tasks: one whose teams are gone; conditions of 0 and 1; a LOOP not armed, armed, at its limit; a COPY of
one byte. -/
theorem witness_TaskAndTeamEvents :
    (let t := { task9 .task .running with placed := 1 };
      (tasked t 0).task? 9 = some t ∧ t.tcb.teams ≤ t.placed ∧ (tasked t 0).teamsOf 9 = [] ∧ (tasked t 0).saved = [] ∧ (tasked t 0).xfers = [])
      ∧ [0, 1].map (fun v => condOf (tasked (task9 .cond .ready) v)) = [0, 1]
      ∧ condOf { tasked (task9 .cond .ready) 1 with mem := [] } = 2 ^ 32 + 8
      ∧ (let t := { task9 .loop .running with iter := 4, armed := true };
        (tasked t 1).task? 9 = some t ∧ t.iter = t.tcb.limit ∧ ∀ b ∈ (tasked t 1).tasks, b.body ≠ some 9) := by decide +kernel
theorem witness_TaskAndTeamEvents_copy :
    let t := { task9 .copy .ready with copy := some ⟨0x70000, 0x60100, 1, 0, 0⟩ }
    let s := tasked t 5
    s.task? 9 = some t ∧ t.state = .ready
      ∧ ((List.range 1).foldl (fun x k => x.copyByte ⟨0x70000, 0x60100, 1, 0, 0⟩ k) (Eng.make s 0 64 1 (0, 0, 0))).wait = none := by
  decide +kernel
/-- The teams: a place on the last cluster; a team that is idle; a team that may be halted, with one slot of its die's pool
free; one ready to be saved; a saved one that fits. -/
def pooled : State := State.setReg (tasked (task9 .task .running) 0) (dieOff 0 + 0x1808) 1
theorem witness_TaskAndTeamEvents_place :
    let s := tasked (task9 .task .ready) 0
    let t := task9 .task .ready
    s.firstReady false = some t ∧ (s.nextNeed t).2 = none ∧ (s.placeAt false 36 (s.nextNeed t).1 none).isSome = true
      ∧ (s.padCheck 36 t.asid t.tcb.code.toNat 2 t.tcb.etag.toNat).1 = .pass ∧ 0 < s.clusters.length ∧ 3 ≤ t.tcb.regs
      ∧ 0 < t.tcb.fib := by decide +kernel
def idle : State := two.modCl 0 fun k => { k with cohorts := [], teams := k.teams.map fun t => { t with ended := true } }
def halting : State := State.setReg (State.setReg (two.modTeam 0 0 fun t => { t with halted := true, bulk := true }) (dieOff 0 + 0x1808) 1) (dieOff 0 + 0x1800) 0x400000000
theorem witness_TaskAndTeamEvents_teams :
    (idle.team? 0 0).map (fun t => t.ended && !t.mc && idle.teamIdle 0 t) = some true
      ∧ (pooled.team? 0 0).map (fun t => !t.mc && !t.ended && !t.halted) = some true ∧ pooled.slotsFree 0 = 1
      ∧ (halting.team? 0 0).map (fun t => halting.saveReady 0 t) = some true := by decide +kernel
/-- The team of `two` saved, a bulk one whose task still runs. -/
def savedState : State := { two.modCl 0 (fun k => { k with teams := [], cohorts := [] }) with
  tasks := [{ task9 .task .running with seq := 1, placed := 1, tcb := { tcb0 .task with bulk := true } }]
  saved := ((two.team? 0 0).map fun t => ⟨0, 0, { t with bulk := true, code := 0x2000 }, [], false, 0, none⟩).toList }
theorem witness_TaskAndTeamEvents_restore : let s := savedState
    s.saved.length = 1 ∧ (match s.saved[0]? with
      | some v => match s.firstReady v.team.bulk with
        | some t => decide ((s.nextNeed t).2 = some v) && (s.placeAt v.team.bulk 0 (s.nextNeed t).1 (some v)).isSome
          && (v.accSaved || v.leader == 0) && (match (s.fetch 0 v.team.asid v.team.code.toNat 8).1 with | .ok _ => true | _ => false)
        | none => false
      | none => false) = true
      ∧ (s.saved.map (·.accSaved)) = [false] := by decide +kernel
/-- R68: a true condition runs SUCC, here nothing, and the node leaves the window. -/
theorem test_cond : ((after (.condEvaluate 9) (tasked (task9 .cond .ready) 1)).task? 9).isNone = true := by decide +kernel


/-- One pair is online, on die 0; its first cluster takes one team, a bulk one that stands there, its second none; a latency task
waits; one slot of the pool is free. -/
def crowded : State :=
  let s := (tasked (task9 .task .ready) 0).modTeam 0 0 fun t => { t with bulk := true }
  let s := ((s.setReg (clOff 0 + 0x18) 0x101).setReg (clOff 1 + 0x18) 0).setReg (dieOff 0 + 0x1808) 1
  { s with spares := (List.range 4).map fun d => { s.spare d with offline := if d = 0 then (List.range 19).map (· + 1) else List.range 20 } }
theorem witness_TaskAndTeamEvents_preempt : crowded.preemptAt = some (0, [0]) ∧ crowded.slotsFree 0 = 1
    ∧ (crowded.team? 0 0).map (fun t => !t.mc && !t.ended && !t.halted) = some true ∧ two.preemptAt = none := by decide +kernel
/-- A task without a fault whose space holds nothing back; a COPY of one byte between pages that the engines know. -/
theorem witness_TaskAndTeamEvents_elementary :
    (task9 .task .running).fault = none ∧ (tasked (task9 .task .running) 0).spaceHeld 1 = false
      ∧ (let t := { task9 .copy .ready with copy := some ⟨0x70000, 0x60100, 1, 0, 0⟩ };
        let s := { tasked t 5 with tlb := [⟨161, 1, 0, 30, 0, 0x38F, 0x101000, 1, 1⟩] };
        s.regFld 0x980 0 5 = 0 ∧ engineAgent (s.dieOf 0) = 161 ∧ [(0x70000, 4), (0x60100, 5)].all (fun (x : Nat × Nat) =>
          (match s.tlbFind 161 1 x.1 with
            | some e => bitOf e.acc (e.leafOf x.1).2 && bitOf e.dirty (e.leafOf x.1).2
            | none => false) && (match s.paOf 161 1 x.1 x.2 with | some (pa, _) => !isRegs pa | none => false)) = true) := by decide +kernel
/-- A saved team keeps two tiles in pair 0, where the next bulk team needs four. -/
def tiled : State :=
  let s := tasked { task9 .task .ready with tcb := { tcb0 .task with acc := 4, bulk := true } } 0
  { s.modCl 0 (fun k => { k with teams := [], cohorts := [] }) with
    saved := ((s.team? 0 0).map fun t => ⟨0, 0, { t with acc := 2 }, [], false, 0, none⟩).toList }
theorem witness_TaskAndTeamEvents_tiles : (tiled.saved.map tiled.tilesWanted) = [true]
    ∧ tiled.saved.map (fun v => (v.accSaved, v.leader)) = [(false, 0)] := by decide +kernel
/-! ### Cohorts, arriving results and units -/

/-- An outstanding result of fibre 0: register 4, from the second instruction. -/
def pend4 (kind : PendKind) (pay : Payload) : Pend := ⟨kind, 0, 0, [4], 1, 0x1008, 0, pay⟩
/-- Fibres of the pool, and a cohort held at an empty register, asleep, or yielded. -/
def pooling : State := two.modCl 0 fun k => { k with cohorts := [], cycle := 5 }
def held (f : Cohort → Cohort) : State := (two.modCl 0 fun k => { k with cycle := 2000 }).modCohort 0 7 f
def stalled : State := (held fun h => { h with blocked := some (0, 0, [(0, 8)]) }).modFibre 0 0 0 fun f => f.setReg 8 { val := 0, full := false, pois := false }
/-- ClusterEvents, the cohorts: two pooled fibres of one PC; a cohort past its threshold of 2^(4 + SPLIT) cycles; a sleep; a yield
16 cycles ago. -/
theorem witness_ClusterEvents_cohorts : 0 < two.clusters.length
    ∧ (match (pooling.cl 0).teams with
      | [t] => formable (pooling.cl 0) t && !t.fixed && (match chooseGroup (pooling.cl 0) t with
        | some g => (sliceFor (pooling.cl 0) t.mc [] t (g.take t)) == some 0 && g.take t == [0, 1]
        | none => false)
      | _ => false) = true
    ∧ (match stalled.ctxOf 0 7 with
      | some x => x.co.blocked == some (0, 0, [(0, 8)]) && x.co.part.isNone && x.co.fixed.isNone
        && decide (0 + 2 ^ (x.team.split.toNat + 4) < (stalled.cl 0).cycle) && !((x.fib 0).reg 8).full && x.fs.contains 0
      | none => false) = true
    ∧ ((held fun h => { h with hold := .sleep 0 }).cohort? 0 7).map (·.hold) = some (.sleep 0)
    ∧ ((held fun h => { h with hold := .yielded 1984 }).cohort? 0 7).map (·.hold) = some (.yielded 1984)
    ∧ 16 ≤ (held id).pipeSince 0 0 1984 := by decide +kernel
/-- A load of the word at 0x3000 that waits for its data. -/
def loading : State := warm 0 (two.modCl 0 fun k => { k with pend := [pend4 .load (.load 0x3000 4 false)] })
/-- The arrivals: a load alone in its sector; results that stand ready for each event; a TLQRY; a register of a fibre of the team. -/
theorem witness_ClusterEvents_arrivals :
    (let r := loading.xlate 0 1 0x3000 0;
      let p := pend4 .load (.load 0x3000 4 false);
      (loading.cl 0).pend[0]? = some p ∧ loading.pendSpace 0 p = 1 ∧ (match r.1 with | .ok pa 0 => decide (pa = 0x3000) | _ => false) = true
      ∧ r.2.sectorLoads 0 1 0x3000 false = [(p, 0x3000, 4, false)]
      ∧ (r.2.readMem 0 0x3000 0 4).2.1 = none ∧ loading.heldMiss 0 0 = false)
    ∧ (let s := warm 3 loading;
      let r := s.xlate 0 1 0x3000 0;
      (match r.1 with | .ok _ 3 => true | _ => false) = true ∧ r.2.sendsFirst 0 0 0 1 ((r.2.cl 0).pend.take 0) = false
        ∧ (r.2.readMem 0 0x3000 3 4).2.1 = none)
    ∧ (pooling.cl 0).formed ≠ some (pooling.cl 0).cycle ∧ two.heldBack 0x30FF = false
    ∧ [PendKind.load, .replay, .arith, .caddy].all (fun k =>
        (((two.modCl 0 fun x => { x with pend := [pend4 k (.bits [VReg.of 9] 0)] }).cl 0).pend[0]?).isSome) = true
    ∧ (((two.modCl 0 fun x => { x with pend := [pend4 .arith (.tlqry 5)] }).cl 0).pend[0]?).isSome = true
    ∧ (two.team? 0 (pend4 .load (.tlqry 0)).slot).map (fun m => decide (0 < m.fibres.length ∧ 4 < (m.fibre 0).v.length)) = some true
    := by decide +kernel
/-- R146, R373: the arriving word fills the register, which the issue left empty. -/
theorem test_load_arrives : let s := (loading.modFibre 0 0 0 fun f => f.setReg 4 { val := 0, full := false, pois := false })
    let w := after (.loadDataArrival 0 0) { s with mem := s.mem.putBytes 0x3000 [0x78, 0x56, 0x34, 0x12] }
    (w.fibre 0 0 0).reg 4 = VReg.of 0x12345678 ∧ (w.cl 0).pend = [] := by decide +kernel

/-- A team with one matrix operation on its tile 0, started or not, and a transfer: a fill of 16 bytes, or a copy, of the
scratchpad. -/
def queuedMat (o : MatOp) : State := two.modTeam 0 0 fun t => { t with matq := [o] }
def accz1 : MatOp := ⟨1, .accz, 0, 0, false, false, 0, 0x1000, .scratch 0, .scratch 0, [], none, true, [], false⟩
def xfer1 (src : Option Operand) (dead : Bool) : Xfer := ⟨5, 1, 0, 0, 1, 1, (0, 0, 2), 0x1000, .scratch 0, src, 0, [16], 11, none, dead, [], []⟩
def moving (src : Option Operand) (dead : Bool) : State := { two with xfers := [xfer1 src dead] }
/-- The units: an operation that may start; a started one that is done and one whose handle was poisoned, which fails; a transfer that
is dead, that is done, and whose source lies beyond the scratchpad; a phase; a memory and a table in their forms. -/
theorem witness_ClusterEvents_units :
    ((queuedMat { accz1 with started := false }).matPick 0).map (fun x => x.2.num) = some 1
      ∧ (((queuedMat accz1).cl 0).matRunning).map (fun x => match (queuedMat accz1).doAccz 0 x.1 x.2 with
        | .done .. => true | _ => false) = some true
      ∧ (((queuedMat { accz1 with kind := .accst, pois := some 0x1100 }).cl 0).matRunning).map (fun x =>
        match (queuedMat { accz1 with kind := .accst, pois := some 0x1100 }).doAccst 0 x.1 x.2 with
        | .failed .. => true | _ => false) = some true
      ∧ (moving none true).xfers = [xfer1 none true]
      ∧ ((moving none false).xferRun (xfer1 none false)).wait = none ∧ ((moving none false).xferRun (xfer1 none false)).fail = false
      ∧ (phased.cl 0).phases[0]?.isSome = true
      ∧ two.mem.wf = true ∧ Tab.wf none [(0x3000, some (⟨7, 1⟩ : DirtyByte))] = true := by decide +kernel
/-- A tensor of one element beyond the mapped gibibyte; a copy from it. -/
def away : Operand := .tensor ⟨0x40000000, 11, 0, 0, [1], [1], []⟩ [0]
theorem witness_ClusterEvents_fails : let t := { xfer1 (some away) false with shape := [1] }
    ({ two with xfers := [t] }.xferRun t).wait = none ∧ ({ two with xfers := [t] }.xferRun t).fail = true := by decide +kernel
/-- A fold whose first step stops it stays there. -/
theorem fold_first {β : Type} (f : β → Nat → β) (p : β → Bool) (hf : ∀ b n, p b = true → f b n = b) (b : β) (n : Nat)
    (hn : 0 < n) (h : p (f b 0) = true) : (List.range n).foldl f b = f b 0 := by
  obtain ⟨k, rfl⟩ : ∃ k, n = k + 1 := ⟨n - 1, by omega⟩
  have g : ∀ (l : List Nat) (c : β), p c = true → l.foldl f c = c := by
    intro l
    induction l with
    | nil => intro c _; rfl
    | cons a l ih => intro c hc; rw [List.foldl_cons, hf c a hc, ih c hc]
  rw [List.range_succ_eq_map, List.foldl_cons, g _ _ h]
/-- An ACCST whose first page is in migration waits, with nothing posted. -/
def migrating : State := { two with mem := two.mem.putBytes 0x101000 (leBytes 8 0x78F) }
def accstT : MatOp := { accz1 with kind := .accst, a := .tensor ⟨0x3000, 0, 0, 0, [128, 256], [128, 256], [512]⟩ [0, 0] }
theorem doAccst_first (s : State) (cl : Nat) (t : Team) (o : MatOp) (kind va : Nat) (p : Bool) (h : o.pois = none)
    (hw : ((s.eng cl t).accPut o 0 (accNarrow o.fmt o.sr (t.fibre o.fibre).gen (t.tileAt o.tile 0)).1
      (t.tilePois o.tile 0).isSome).wait = some (kind, va, p)) : s.doAccst cl t o = .wait kind va p := by
  have h0 : (s.eng cl t).stopped = false := rfl
  unfold State.doAccst
  rw [h]
  rw [fold_first _ (fun b : Eng × Word => b.1.stopped) ?_ _ _ (by decide) ?_]
  · simp [h0, hw]
  · rintro ⟨x, g⟩ n hb
    simp only at hb
    simp [hb]
  · simp only [h0, Bool.false_eq_true, if_false]
    simp [Eng.stopped, hw]
theorem witness_ClusterEvents_waits : migrating.doAccst 0 (teamOf []) accstT = .wait 5 0x3000 false :=
  doAccst_first _ _ _ _ _ _ _ rfl (by decide +kernel)
/-! ### Register writes, memory and the fabric -/

/-- The space table holds a reserved bit in entry 1. -/
def badEntry : State := { two with mem := two.mem.putBytes 64 [1] }
/-- RegisterWrites: registers in their form; the largest VF grants and one more; a counter with and without a number outstanding, and
one that hardware alone writes; ASCMD free and BUSY, of a space LIVE or not, with a good and a bad entry; attestation to HBM and
elsewhere, under way or not; a fibre held at a breakpoint; a saved team of die 0. -/
theorem witness_RegisterWrites : regsWf two.regs = true ∧ Tab.wf GBar.reset two.gbars = true
    ∧ ¬ (256 < fld 0xC040 0 8 + fld 0xC040 8 8) ∧ 256 < fld 0xC041 0 8 + fld 0xC041 8 8
    ∧ ¬ (1024 < fld 0x80200 0 10 + fld 0x80200 10 11) ∧ 1024 < fld 0x80201 0 10 + fld 0x80201 10 11
    ∧ Tab.wf Timeline.reset counting.tl = true ∧ (counting.timeline 5).out ≠ [] ∧ (counting.timeline 6).out = []
    ∧ 159 < two.clusters.length ∧ two.asBusy = false ∧ (two.setReg 0x908 0x80000000).asBusy = true
    ∧ Tab.wf Space.reset two.spaces = true ∧ (two.space 1).live = true ∧ (two.space 2).live = false
    ∧ (two.asEntry 1).isSome = true ∧ (two.asEntry 2).isSome = true ∧ badEntry.asEntry 1 = none ∧ two.bumps = [] ∧ two.notices = []
    ∧ { badEntry with spaces := [] }.asEntry 1 = none ∧ (State.reset.space 1).live = false
    ∧ two.boot.att = none ∧ isLocal (two.regFld 0x728 15 37 * 32768) = true
    ∧ { two with boot := { two.boot with att := some (0, []) } }.boot.att ≠ none
    ∧ isLocal ((two.setReg 0x728 0x1000000000000).regFld 0x728 15 37 * 32768) = false
    ∧ ((held fun h => { h with hold := .bkpt }).cohort? 0 7).map (·.hold) = some .bkpt
    ∧ (⟨0, 0, teamOf [], [], true, 0, none⟩ : SavedTeam).die = 0 := by decide +kernel
/-- RegisterWrites, the windows: a ring of a virtual function and none; a port beyond both links. -/
theorem witness_RegisterWrites_windows : two.linkUp false = true ∧ two.vfRing 1 0 = none ∧ two.vfRing 31 4095 = none
    ∧ (two.setReg 0x1618 1024).vfRing 1 0 = some 0 ∧ (two.setReg 0x1618 1024).vfRing 1 1 = none
    ∧ Tab.wf Queue.reset two.queues = true ∧ { two with pcie := [false, false] }.pcie = [false, false] := by decide +kernel
/-- R407: 9 written to a counter that has no number outstanding is its value; a written ERRV heals. -/
theorem test_tl_write : ((after (.tlValueWrite 0 6 9) counting).timeline 6).value = 9
    ∧ ((after (.tlErrvWrite 0 6 0) { counting with tl := [(6, ⟨0, 3, 2, []⟩)] }).timeline 6).errv = BitVec.allOnes 64 := by decide +kernel
/-- R107: ACTIVATE of a space that is LIVE answers status 2. -/
theorem test_activate : (((after (.ascmdActivate 1) two).reg 0x908).toNat / 2 ^ 28) % 8 = 2 := by decide +kernel

/-- A barrier of five fibres in the middle: D1 has two arrivals, three of D2's are on their way, D3's release is due; a fibre parked
at it. -/
def midway : State := (two.setGbar 5 ⟨5, 1, 4, 5, [0, 2, 0, 0], [0, 0, 3, 0], [1, 1, 1, 0]⟩).modFibre 0 0 1 fun f => { f with wait := .gbar 5 0 }
/-- The barrier premises, the last fibre waiting for D0's own release. -/
theorem witness_MemoryAndFabricEvents_barrier : let g := midway.gbar 5
    Tab.wf GBar.reset midway.gbars = true ∧ (g.sums.length, g.flight.length, g.dphase.length) = (4, 4, 4)
      ∧ atD g.sums 1 0 ≠ 0 ∧ atD g.flight 2 0 ≠ 0 ∧ g.expect ≠ 0 ∧ atD g.dphase 3 0 ≠ g.phase
      ∧ (let w := midway.setGbar 5 { g with phase := 2 };
        atD (w.gbar 5).dphase 0 0 ≠ (w.gbar 5).phase ∧ w.dieOf 0 = 0 ∧ (w.fibre 0 0 1).live = true ∧ (w.fibre 0 0 1).wait = .gbar 5 0
          ∧ 1 ≤ (atD (w.gbar 5).dphase 0 0 + 1 - 0).toNat ∧ (atD (w.gbar 5).dphase 0 0 + 1 - 0).toNat ≤ 32767) := by decide +kernel
/-- R199: D0 counts the three of D2: 4 + 3 of 5 arrivals, so the phase moves on and two stand. -/
theorem test_gbar : ((after (.gbarD0Arrival 2 5) midway).gbar 5).phase = 2 ∧ ((after (.gbarD0Arrival 2 5) midway).gbar 5).count = 2 := by
  decide +kernel
/-- Spaces and pages: a bump of ASCMD; a space that retires with nothing of it left; a page a bound team wants; a migration whose last
count is down; two REPL updates ahead of a die. -/
def quietSpace : State := { State.reset with spaces := [(1, ⟨false, 3, 0x100000, false, 0, 0, true⟩)], regs := State.reset.regs }.setReg 0x908 1
theorem witness_MemoryAndFabricEvents_spaces :
    { two with bumps := [(1, .ascmd)] }.bumps[0]? = some (1, .ascmd) ∧ two.notices = [] ∧ two.mem.wf = true
      ∧ regsWf two.regs = true ∧ quietSpace.regFld 0x908 0 10 = 1 ∧ (quietSpace.space 1).retiring = true
      ∧ Tab.wf Space.reset quietSpace.spaces = true ∧ quietSpace.tasks.length = 0 ∧ quietSpace.xfers.length = 0 ∧ quietSpace.saved.length = 0
      ∧ quietSpace.bumps.length = 0 ∧ quietSpace.memattr.length = 0 ∧ quietSpace.clusters.all (fun k => k.teams.isEmpty) = true
      ∧ loading.wantsPage 0 1 3 = true ∧ (⟨1, 3, 0, 0, true, true⟩ : Migration).second = true
      ∧ State.reset.repl.applied.length = 4 ∧ atD State.reset.repl.applied 3 0 + 1 < 5 := by decide +kernel
theorem witness_MemoryAndFabricEvents_done : quietSpace.prefOf 1 = false ∧ quietSpace.notices.length = 0
    ∧ (List.range 161).all (fun c => !two.unflushed c fun _ a => a == 1) = true := by decide +kernel
/-- Sectors and outside writes: the last sector of HBM, not poisoned; writes that wait and that do not, with the core's hold on memory
below 64 MiB and without; a reduction at a window, at its last element and beyond it; ports up and down. -/
def framed : State := (((two.setReg 0x1400 0x300000).setReg 0x1408 1).setReg 0x1410 0x7_0000_0100_0080)
def draining : State := { two with spares := two.spares.map fun x => { x with draining := List.range 24 } }
def red1 (off : BitVec 28) : RedTx := ⟨0, 7, 0, 1, off, [5]⟩
theorem witness_MemoryAndFabricEvents_fabric : isLocal (64 * 0x17FFFFFFF) = true ∧ two.poisoned (64 * 0x17FFFFFFF) = false
    ∧ two.lineWaits 0x3000 = false ∧ draining.lineWaits 0x3000 = true
    ∧ framed.fabricWaits (red1 63) = false ∧ two.stalled = [] ∧ two.latent = []
    ∧ two.partials = [] ∧ isLocal 0x3000 = true ∧ two.linkUp false = true ∧ { two with pcie := [false, false] }.linkUp false = false
    ∧ two.regFld 0x228 16 16 ≠ 3 ∧ (two.setReg 0x228 0x30000).regFld 0x228 16 16 = 3
    ∧ [(63, false), (64, true)].all (fun (p : Nat × Bool) => let tx := red1 (BitVec.ofNat 28 p.1)
        decide (framed.regFld 0x1410 48 16 ≠ tx.epoch.toNat ∨ framed.regFld 0x1410 7 1 = 0 ∨ framed.regFld 0x1410 24 12 = 0
          ∨ 7 < tx.op.toNat ∨ framed.regFld 0x1408 0 23 * 64 < tx.offset.toNat + tx.data.length) == p.2) = true
    ∧ framed.poisoned (framed.regFld 0x1400 8 44 * 256 + 4 * 63) = false ∧ Tab.wf 0 framed.fabric = true
    ∧ two.ports.length = 12 ∧ atD two.ports 11 .down = .full ∧ atD (List.replicate 12 LinkState.down) 0 .down = .down
    ∧ (List.replicate 80 (0 : Byte)).length = 80 := by decide +kernel
/-- R160: 5 is added to the element. -/
theorem test_reduction : leVal ((after (.fabricReductionArrival (red1 63)) framed).homeBytes (0x300000 + 4 * 63) 4) = 5 := by decide +kernel

/-! ### The governor and the device -/

def declared : Step := ⟨2, 1, 6, 9, 5000, 0, none, some 1, 9000, true, 0, [(0, 0)], 4⟩
def alarmed : State := { two with core := { two.core with running := true, d1 := true, beat := 0 }, ptime := 100000000 }
/-- GovernorAndDeviceEvents: a change to come; a step past its deadline; a boundary that is due and one that is not; a step declared
early, late, at risk and not; links up and down; channels that are spared; a boot image and one that is not; a report under way. -/
theorem witness_GovernorAndDeviceEvents : regsWf two.regs = true ∧ two.clusters.length = 161
    ∧ ((two.modCl 159 fun k => { k with vfNext := some (40, 127) }).cl 159).vfNext = some (40, 127)
    ∧ [declared].find? (fun p => p.slot == 2) = some declared ∧ (two.timeline 6).value < declared.n
    ∧ two.ptime < two.lastInt + 20000 ∧ alarmed.lastInt + 20000 ≤ alarmed.ptime ∧ two.steps.length = 0
    ∧ two.regFld 0x818 0 48 = 0 ∧ declared.t.toNat ≤ 5000 ∧ 4999 < declared.t.toNat ∧ declared.risk = true
    ∧ { declared with risk := false }.risk = false
    ∧ alarmed.core.running = true ∧ two.spares.length = 4 ∧ 19 ∉ (two.spare 3).offline ∧ (two.cl 158).teams = [] ∧ (two.cl 159).teams = []
    ∧ two.saved.length = 0 ∧ (two.spare 3).pair = none ∧ { two.spare 3 with pair := some 1 }.pair ≠ none
    ∧ (two.spare 0).slices.length = 24 ∧ 23 ∉ (two.spare 0).draining ∧ 23 ∈ { two.spare 0 with draining := [23] }.draining
    ∧ 24 ∉ (two.spare 0).slices ∧ 24 ∈ { two.spare 0 with slices := 24 :: List.range 23 }.slices
    ∧ (two.spare 0).spared ++ (two.spare 0).copying = [] ∧ 63 ∈ { two.spare 0 with copying := [63] }.copying
    ∧ two.edges.length = 4 ∧ atD two.edges 3 .down = .full ∧ two.pcie.length = 2 ∧ two.linkUp true = true
    ∧ { two with boot := { two.boot with att := some (0x300000, []) } }.boot.att.isSome = true ∧ two.mem.wf = true
    ∧ two.alerts.length = 4 ∧ (0x80000000 : Nat) = 2 ^ 31
    ∧ alarmed.core.beat + alarmed.regFld 0x230 0 16 * 1000 ≤ alarmed.ptime ∧ two.ptime < two.core.beat + two.regFld 0x230 0 16 * 1000 + 1
    ∧ vectored.mcTake = some 2 := by decide +kernel
/-- GovernorAndDeviceEvents, what is due: a ratio decided, a sample and a refill at the end of their period and before it; the boot
stages; a lost link of a function that was up. -/
theorem witness_GovernorAndDeviceEvents_due :
    atD ((two.modCl 0 fun k => { k with ratioTo := [some 2, none, none, none, none, some 8] }).cl 0).ratioTo 5 none = some 8
      ∧ atD (two.cl 0).ratioTo 5 none ≠ some 8
      ∧ [999, 1000].map (fun p => let s := { two with ptime := p }; (decide (((s.cl 158).sampled + 1) * 1000 ≤ s.ptime),
          decide (((s.cl 158).refill + 1) * 1000 ≤ s.ptime))) = [(false, false), (true, true)]
      ∧ (List.range 5).all (fun k => { two with boot := { two.boot with stage := k } }.boot.stage == k) = true
      ∧ two.core.running = false ∧ alarmed.core.running = true ∧ two.pcie.length = 2 := by decide +kernel
/-- A boot image with an empty body; it is run where it verifies, which the keys decide (log entry 5). -/
def image : List Byte := leBytes 4 0x4B4C4E46 ++ leBytes 4 1 ++ leBytes 4 0 ++ leBytes 4 0 ++ leBytes 4 0x1000 ++ leBytes 4 0x04A2
  ++ List.replicate 30216 0
theorem witness_GovernorAndDeviceEvents_boot (h : Config.imageVerifies image = true)
    (hm : Config.minSvn ≤ leVal ((image.drop 8).take 4)) : imageOk image = true := by
  have g : (leVal (image.take 4) == 0x4B4C4E46 && (((image.drop 24).take 40).all fun b => b == 0)
      && leVal ((image.drop 20).take 4) == 0x04A2 && decide (imageLen image ≤ 0x4000000)) = true := by decide +kernel
  have l : imageLen image = 30240 := by decide +kernel
  have n : image.length = 30240 := by
    rw [image, List.length_append, List.length_replicate]
    rfl
  unfold imageOk
  rw [g, h, n, l, decide_eq_true hm]
  rfl
theorem witness_GovernorAndDeviceEvents_rest : imageOk [] = false ∧ two.allCool 3 = true ∧ atD two.alerts 0 false = true
    ∧ (BitVec.ofNat 16 (two.regFld (dieOff 0 + 0x340) 0 16) : Half).toInt ≤ (0x7FFF : Half).toInt
    ∧ ¬ ((BitVec.ofNat 16 (two.regFld (dieOff 0 + 0x340) 0 16) : Half).toInt ≤ (0x8000 : Half).toInt) := by decide +kernel
/-! ### Encodings, the step and values: what the other statements assume -/

/-- DecodeEncode and EncodeDecode: instructions with every field at the ends of its range, well formed and of the stream; bytes
that are read. -/
theorem witness_DecodeEncode : ([.nop z, .trap { z with gp := 7, gn := true, fe := 7, stall := 15, hold := 3 },
      .bra { z with len := .m, sa := 15, imm := 0xFFFFFFFC }, .iadd { z with dst := 255, sa := 255, sb := 255 },
      .extensionOpcode .l 63 (2 ^ 116 - 1), .iaddc { z with dst := 255, sa := 255, sb := 255, sc := 15, mod := 1 }] : List Instr).all
        (fun i => i.wf && !isEvent i) = true
    ∧ [8, 12, 16].all (fun n => match decodeBytes (leBytes n ([0x7E00, 0x7601, 0x7202].getD (n / 4 - 2) 0) ++ [1, 2]) with
      | .ok (_, rest) => rest == [1, 2]
      | .error _ => false) = true := by decide +kernel
/-- DecodeRefuses: a LEN of 11, an opcode with no row below group F, one with a row, one in group F. -/
theorem witness_DecodeRefuses : 0x7E03 % 4 = 3 ∧ (∀ r ∈ opRows, r.opc ≠ 0x012) ∧ (opRows.any fun r => r.opc == 0x380) = true
    ∧ 0x3C0 ≤ 0x7F00 / 4 % 1024 := by decide +kernel

/-- Every premise of StepRunsDecoded's first part, in order, for a slot of one candidate or of `more`. -/
def stepPremises (s : State) (more : Bool := false) : Bool := match s.takeTurn with
  | (.issue c slice, u) =>
    decide (c ≤ mcCluster) && u.tick.sliceOpen c slice && (c != mcCluster || u.tick.mcBoundary.isNone) && (match u.tick.candidates c slice with
      | id :: others =>
        let v := if c = mcCluster then { u.tick with core := { u.tick.core with wfi := false } } else u.tick
        let r := { v with cur := some (c, id) }
        others.isEmpty != more && (match v.ctxOf c id with
          | some x => decide (x.pc.toNat % 4 = 0)
            && (match r.fetch x.c x.team.space x.pc.toNat (min 8 (32 - x.pc.toNat % 32)) with
              | (.ok head, t) =>
                let n : Nat := match (head.headD 0).toNat % 4 with | 1 => 12 | 2 => 16 | _ => 8
                decide (x.pc.toNat % 32 + n ≤ 32) && (match (if n == 8 then (Fetched.ok head, t) else t.fetch x.c x.team.space x.pc.toNat n) with
                  | (.ok bs, w) => (match decodeBytes bs with
                    | .ok (i, _) => (match exec i w with | .next y => !more || y.wentOn v c id | _ => false)
                    | .error _ => false)
                  | _ => false)
              | _ => false)
          | none => false)
      | [] => false)
  | _ => false
/-- StepRunsDecoded: an instruction of each length on a cluster, and one on the core; one of two cohorts of a slice; an event's turn
with nothing that waits. -/
theorem witness_StepRunsDecoded :
    [State.reset.withFetchWord 64 0x7E00, State.reset.withFetchWord 96 0x7601, State.reset.withFetchWord 128 0x7202,
        { vectored with mem := vectored.mem.putBytes (sramBase + 0x1000) (leBytes 8 0x7E00), agenda := [.issue 160 0], regs := Tab.set 0 [] 0x228 1 }].all stepPremises = true
      ∧ { two with agenda := [.event (.yieldRelease 0 7)] }.takeTurn.1 = .event (.yieldRelease 0 7) ∧ isEvent (.yieldRelease 0 7) = true
      ∧ two.steps.length = 0 ∧ two.notices.length = 0 ∧ two.pkts.length = 0 ∧ two.handlers.length = 0 ∧ two.stalled = []
      ∧ two.tasks.length = 0 ∧ two.xfers.length = 0 ∧ two.boot.stage = 0
      ∧ two.clusters.all (fun k => decide (k.pend.length ≤ 512) && k.teams.all fun m => m.sysw.isEmpty && m.matq.isEmpty) = true := by
  decide +kernel
/-- R178: the NOP placed after reset runs, and its fibre goes on at the next word. -/
theorem test_first_step : (match step (State.reset.withFetchWord 64 0x7E00) with
    | .next t => (t.fibre 0 0 0).pc == 0x1008
    | _ => false) = true := by decide +kernel
/-- StepKeepsInv: `two` has the invariant and answers. -/
theorem witness_StepKeepsInv : let s := { two with agenda := [.event (.yieldRelease 0 7)] }
    (s.mem.wf && regsWf s.regs && (match step s with | .next _ => true | _ => false)) = true := by decide +kernel

/-- ExactValues and MinimumAndMaximum: the least and the greatest finite value of each format; a NaN of each that has one. -/
theorem witness_Values :
    [(fp64, 1, 0x7FEFFFFFFFFFFFFF), (fp32, 1, 0x7F7FFFFF), (fp16, 1, 0x7BFF), (bf16, 1, 0x7F7F), (e5m2, 1, 0x7B), (e4m3, 1, 0x7E),
        (e2m1, 1, 7)].all (fun (x : Fmt × Nat × Nat) => [x.2.1, x.2.2].all fun v =>
          decide (v < 2 ^ x.1.bits) && (match x.1.decode v with | .fin .. => true | _ => false)) = true
      ∧ [(fp64, 0x7FF0000000000001), (fp32, 0x7FC00000), (fp16, 0x7C01), (bf16, 0x7FFF)].all (fun (x : Fmt × Nat) =>
        decide (x.2 < 2 ^ x.1.bits) && (x.1.decode x.2).isNan) = true
      ∧ fmNanp 0 = false ∧ (FV.nan false false 0).isNan = true ∧ (FV.nan false false 0).isSig = false
      ∧ (9 : Int) ≤ (Nat.log2 512 : Int) + 0 := by decide +kernel
/-- TrapFaults: a task that runs, one that is ready, and one that is neither. -/
theorem witness_TrapFaults_tasks : [TaskState.running, .ready, .done].map (fun st => ((tasked (task9 .task st) 0).task? 9).map (·.state))
    = [some .running, some .ready, some .done] := by decide +kernel

/-- R265, R266's example (file 13): the first words and the mask of fibre 18's record of POISON at position 2 of eight. -/
def eight : State := world (teamOf (List.replicate 8 (fibAt 0x40001A80 []))) (cohortOf 8)
theorem test_trap_record : let r := (eight.trapRec (ctx0 eight) 0x7805 ⟨7, 0, [(2, 256 + 9)], 0x1100⟩ 2 (256 + 9)).words
    r.take 2 = [0x000040001A800007, 0x1100101000000000] ∧ r.getD 4 0 = 4 := by decide +kernel
/-- R93's examples: a step of D1's counter 9 with N = 2,000 and T = 2 ms, its window from `ta`, its cluster's clocks. -/
def pstep (ta then' : Nat) : Step :=
  { declared with ref := 0x1009, n := 2000, t := 2000000, id := 7, declared := 0, samples := [(ta, BitVec.ofNat 64 then')] }
def pstate (value : Nat) (clocks : List (Nat × Nat)) : State := { State.reset with
  tl := [(0x1009, ⟨BitVec.ofNat 64 value, 2000, 0xFFFFFFFFFFFFFFFF, []⟩)]
  clusters := [{ Cluster.reset with clocks := clocks, teams := [{ teamOf [] with step := 7 }] }] }
/-- The state at 660 us: 820 MHz for 60 us of the window, then 540 MHz, 708 MHz on average. -/
def pstate660 : State := pstate 946 [(620000, 24), (0, 52)]
/-- What is projected at 600, 620 and 660 us, with the f_hi that the examples give: 1,080, 540 and 1,080 MHz. -/
theorem test_projection (h1 : (pstate 900 [(0, 52)]).fhi (pstep 500000 800) = 78)
    (h2 : (pstate 920 [(0, 52)]).fhi (pstep 520000 820) = 24) (h3 : pstate660.fhi (pstep 560000 860) = 78) :
    ((pstate 900 [(0, 52)]).project 600000 (pstep 500000 800)).toNat = 1435186
      ∧ ((pstate 920 [(0, 52)]).project 620000 (pstep 520000 820)).toNat = 2260000
      ∧ (pstate660.project 660000 (pstep 560000 860)).toNat = 1463437 := by
  unfold State.project
  simp only [h1, h2, h3]
  decide +kernel

/-! ### Assembly and objects (R280, R298 to R310, the complete unit after R316) -/

/-- The unit after R316: LPAD.t at 0, CALL at 8, END at 32, scale's three instructions from 64, and the NOPs between. -/
theorem test_layout_axpy :
    let l := layout [.ins 8, .ins 12, .ins 8, .align 32, .ins 8, .ins 8, .ins 8]
    (List.range 7).filterMap (fun k => l.at'.lookup k) = [0, 8, 32, 64, 72, 80]
      ∧ l.nops = [(20, 12), (40, 16), (56, 8)] ∧ l.pc = 88 := by decide +kernel

/-- R305's examples: `.align 8` at offset 20, and `.align 16` after an instruction that ends at 28. -/
theorem test_layout_align :
    (layout [.ins 8, .ins 12, .align 8]).nops = [(20, 12)] ∧ (layout [.ins 8, .ins 12, .align 8]).pc = 32
      ∧ (layout [.ins 12, .ins 8, .ins 8, .align 16]).nops = [(20, 12), (40, 8)]
      ∧ (layout [.ins 12, .ins 8, .ins 8, .align 16]).at'.lookup 2 = some 32
      ∧ (layout [.ins 12, .ins 8, .ins 8, .align 16]).pc = 48 := by decide +kernel

/-- The padding words of R280. -/
theorem test_padding_words :
    padBytes 8 = leBytes 8 0x7E00 ∧ padBytes 12 = leBytes 12 0x7E01 ∧ padBytes 16 = leBytes 16 0x7E02 := by decide +kernel

/-- The images of the team record of the unit after R316. -/
theorem test_team_images :
    let t : TeamDecl := { etag := 0xA1, fib := 256, initf := 256, regs := 48 }
    t.image0 = 0x00000C0801000000 ∧ t.image1 = 0x0000000000007200 ∧ t.valid = true
      ∧ ({ t with regs := 248, fib := 1024 } : TeamDecl).valid = false := by decide +kernel

/-- The CALL of the unit after R316: 64 − 8 = 56 (R309); an ABS32 result of 2^32 refuses the object. -/
theorem test_relocations : relocField 3 64 8 = some (8, 4, 56) ∧ relocField 2 (2 ^ 32) 0 = none
    ∧ relocField 5 0x123400005678 0 = some (8, 4, 0x1234) := by decide +kernel

/-- Lengths as R302 chooses them, for opcodes that allow S, M and L, only L, and S and L. -/
theorem test_lengths : pickLen 7 false false none = some .s ∧ pickLen 7 true false none = some .m
    ∧ pickLen 7 true true none = some .l ∧ pickLen 4 false false none = some .l
    ∧ pickLen 5 false false (some .m) = none ∧ pickLen 7 false false (some .l) = some .l := by decide +kernel

/-- Operands of R301: `sp` under REGS 48, an indexed operand, immediates, and `lo(sym+4)`. -/
theorem test_operands : operandOf 48 ['s', 'p'] = some (.v 47) ∧ operandOf 255 ['f', 'p'] = some (.v 253)
    ∧ operandOf 255 ['v', '[', 'x', '1', '+', '5', ']'] = some (.indexed 1 5)
    ∧ operandOf 255 ['0', 'x', '3', 'F', '_', '8', '0'] = some (.int 0x3F80)
    ∧ operandOf 255 ['-', '2', 'e', '-', '3'] = some (.real true 2 (-3))
    ∧ operandOf 255 ['l', 'o', '(', 'a', '+', '4', ')'] = some (.lo ['a'] 4) := by decide +kernel

/-- 1.5 as FP32, and as FP16 in both halves (R301). -/
theorem test_real_immediates : immReal fp32 false 15 (-1) = 0x3FC00000 ∧ immReal2 fp16 false 15 (-1) = 0x3E003E00 := by
  decide +kernel

/-- A guarded line with a label, modifiers, annotations and a comment (R300, R302, R303). -/
theorem test_line :
    readLine ['l', ':', ' ', '(', '!', 'p', '2', ')', ' ', 'b', '.', 'o', ' ', 'v', '1', ',', ' ', '7', ' ', ':', ':', ' ',
        's', '4', ' ', 'h', 'b', ';', 'x'] =
      some ⟨some ['l'], (2, true), [['b'], ['o']], [['v', '1'], ['7']], [['s', '4'], ['h', 'b']]⟩
    ∧ annotateAll z [['s', '4'], ['h', 'b']] = some { z with stall := 4, hold := 2 } := by decide +kernel

/-- The loader sets IL in LPAD.t alone: the pads of R428's unit and of R459's listing. -/
theorem test_set_il : setIl 0x080030C400007614 = 0x880030C400007614 ∧ setIl 0x1000000800007614 = 0x1000000800007614
    ∧ steppingParts thisStepping = (4, 0xA, 2) := by decide +kernel

/-- A file of one TEXT section that holds LPAD.t 0xC31, made for no stepping. -/
def oneText : List Byte :=
  leBytes 4 0x4F535350 ++ leBytes 4 1 ++ leBytes 8 1 ++ leBytes 8 64 ++ leBytes 40 0
    ++ leBytes 4 1 ++ leBytes 4 32 ++ leBytes 8 96 ++ leBytes 8 8 ++ leBytes 8 0
    ++ leBytes 8 0x080030C400007614

/-- The loader maps the section RD and EX, PHASE, and sets IL (R298, R307, R310). -/
theorem test_load_object :
    ((State.reset.loadObject oneText [⟨0x5000, 0x9000, 0x8000⟩] []).map fun s =>
      (leVal ((s.homeBytes 0x9000 8)), leVal (s.homeBytes 0x8000 8))) = some (0x880030C400007614, 0x900B) := by
  decide +kernel

/-- A wrong magic number is refused (R306). -/
theorem test_object_magic : readObject (0#8 :: oneText.drop 1) = none := by decide +kernel

/-- R128's two examples: 32 lanes at a 4-byte stride take one cycle, at a 256-byte stride 32; an 8-byte access takes two banks. -/
theorem test_scratch_banks :
    scrCycles ((List.range 32).map fun h => ⟨h, 4 * h, .scr (4 * h), 4⟩) = 1
      ∧ scrCycles ((List.range 32).map fun h => ⟨h, 256 * h, .scr (256 * h), 4⟩) = 32
      ∧ scrCycles ((List.range 32).map fun h => ⟨h, 8 * h, .scr (8 * h), 8⟩) = 1 := by decide +kernel
/-! ### Further clauses: what their premises need, at the ends of their ranges -/

/-- TrapFaults, the faults of tasks: task 9 with a fault of this nanosecond from a higher team, from a lower one, of an earlier
one. -/
def faulting (index at' : Nat) (st : TaskState) : State :=
  { tasked { task9 .task st with fault := some (7, index, at') } 0 with ptime := 5 }
theorem witness_TrapFaults_settle :
    [(3, 5), (0, 5), (3, 4)].map (fun (x : Nat × Nat) => let s := faulting x.1 x.2 .running
        ((s.task? 9).bind (·.fault), decide (s.tasks.map (·.seq)).Nodup, decide (x.2 < s.ptime)))
      = [(some (7, 3, 5), true, false), (some (7, 0, 5), true, false), (some (7, 3, 4), true, true)] := by decide +kernel
/-- R80: of the faults of one nanosecond the lowest team's stands; the task is FAULTED once that nanosecond is over. -/
theorem test_fault_settles : let s := faulting 3 5 .running
    ((s.faultTask 9 0x0C 1).task? 9).bind (·.fault) = some (0x0C, 1, 5)
      ∧ ((s.faultTask 9 0x0C 4).task? 9).bind (·.fault) = some (7, 3, 5)
      ∧ ((faulting 3 4 .running).settleFaults.task? 9).map (fun k => (k.state, k.fcause, k.fteam)) = some (.faulted, 7, 3)
      ∧ ((faulting 3 5 .running).settleFaults.task? 9).map (·.state) = some .running := by decide +kernel

/-- Two lanes of different words, in a TLB with the leaf's bits set or not, of a CLASS. -/
def apart (s : State) : State := s.modFibre 0 0 1 fun f => f.setReg 8 (VReg.of 0x3004)
def entry (acc dirty cls : Nat) : TlbEntry := ⟨0, 1, 0, 30, 0, BitVec.ofNat 64 (0x38F + 16 * cls), 0x101000, acc, dirty⟩
def storesTo (cls : Nat) (t : State) (i : Iss) : Bool := match t.checkLanes i 1 (i.on.map (i.lane 4)) with
  | (.ok gs, u) => sound t i && u.mem.wf && regsWf u.regs && u.partials.isEmpty && u.regFld 0x980 0 5 == 0
    && decide ((u.l1Lines i.cl).length + 2 ≤ 768 ∧ u.repl.applied.length = 4 ∧ u.dieOf i.cl < 4) && !u.sendsLater i gs
    && i.on.all (fun h => !u.loading i h) && u.repl.pend.isEmpty && gs.map (fun g => (g.1.h, g.2)) == [(0, .at 0x3000 cls), (1, .at 0x3004 cls)]
  | _ => false
/-- StoreInstruction, the data by CLASS: PHASE, LIVE, REPL and UNCACHED, in the TLB, in it with DIRTY clear, and not in it. -/
theorem witness_StoreInstruction_data : [0, 1, 2, 3].all (fun cls => [[entry 1 1 cls], [entry 1 0 cls], []].all fun tlb =>
    issues { apart (at8 0x3000) with tlb := tlb, mem := pages.putBytes 0x101000 (leBytes 8 (0x38F + 16 * cls)) }
      (.st { z with sa := 8, sb := 10, mod := 12 }) (storesTo cls)) = true := by decide +kernel
theorem witness_StoreInstruction_dirty : let s := { two with tlb := [entry 1 0 0] }
    (match s.tlbFind 0 1 0x3000 with
      | some e => !bitOf e.dirty (e.leafOf 0x3000).2 && decide ((e.leafOf 0x3000).1 % 8 = 0) && !s.lineWaits (e.leafOf 0x3000).1
      | none => false) = true ∧ s.mem.wf = true ∧ regsWf s.regs = true ∧ s.partials = [] := by decide +kernel

/-- AtomicInstructions: nothing holds an access at a peer's window; one fibre's RED to a PHASE word; a partial of a line that does
not wait. -/
theorem witness_AtomicInstructions_red : let s := warm 0 (world (teamOf [fibAt 0x1000 [(8, 0x3000), (10, 5)]]) (cohortOf 1))
    issues s (.red { z with sa := 8, sb := 10, sc := 0, mod := 8 }) (fun t i => quiet t i && decide (i.on = [0])
      && (i.laneHit (i.lane 4 0)).isNone && decide ((i.lane 4 0).tgt = .mem 0x3000)
      && decide (t.paOf 0 1 0x3000 2 = some (0x3000, 0)) && !t.peerWaits 0x3000 && !isSram 0x3000
      && ((t.cl 0).dirtyCells fun a _ => a / 8 == 0x3000 / 8).isEmpty && decide ((atD t.rdc (t.dieOf 0) []).length < 131072)
      && (match t.checkLanes i 2 (i.on.map (i.lane 4)) with
        | (.ok gs, u) => !u.peerHeld (some 0) (u.dieOf 0) gs && !u.peerHeld none (u.dieOf 0) gs
        | _ => false)) = true
    ∧ { two with partials := [⟨0, 0x3000, 0, 5, [1]⟩] }.lineWaits (256 * (0x30FF / 256)) = false
    ∧ two.errs = [] ∧ (two.l1Lines 0).length + 8 ≤ 768 := by decide +kernel
/-- R142: the partial of 5 is combined with the 3 in memory when the line is reached. -/
theorem test_partial : let s := { two with partials := [⟨0, 0x3000, 0, 5, [1]⟩], mem := two.mem.putBytes 0x3000 [3] }
    ((s.touch [0x30FF]).homeByte 0x3000, (s.touch [0x30FF]).partials.length) = (8, 0) := by decide +kernel

/-- PhaseInstructions, the forms with a variable: lanes that trap, wait and proceed; a variable that is not of CLASS REPL. -/
theorem witness_PhaseInstructions_variable :
    [Instr.phaseRel { z with sa := 8, sb := 10, mod := 9 }, .phaseAcq { z with dst := 4, sa := 8, mod := 9 },
      .phaseFull { z with dst := 4, sa := 8, sb := 10, mod := 9 }].all (fun ins =>
        issues two ins (fun t i => match (t.checkLanes i 2 (i.on.map i.varLane)).1 with | .trap _ => true | _ => false)
        && issues { at8 0x3000 with mem := pages.putBytes 0x101000 (leBytes 8 0x40) } ins
          (fun t i => decide ((t.checkLanes i 2 (i.on.map i.varLane)).1 = .wait))
        && issues (at8 0x3000) ins (fun t i => sound t i && !i.on.isEmpty && match (t.checkLanes i 2 (i.on.map i.varLane)).1 with
          | .ok _ => true | _ => false)) = true
      ∧ two.poisoned 0x3000 = false ∧ two.partials = [] ∧ two.latent = [] := by decide +kernel

/-- CaddyInstructions: HDRN with no claim; operands of a 64-bit claim at register 13 and at 254; a poisoned cursor; cursors at and
beyond the end. -/
def drain (sa dst : BitVec 8) : Instr := .hdrn { z with len := .l, dst := dst, sa := sa, ext := 0x1410 }
theorem witness_CaddyInstructions_traps :
    issues two (drain 8 4) (fun _ i => i.team.claim.isNone && decide (i.on.head? = some 0) && (i.src 1 0).2.isNone) = true
      ∧ [Instr.hins { ext128 with sa := 13 }, .hprb { ext128 with sa := 254, sb := 0 }, .hdel { ext128 with sa := 13, sb := 0 },
          .hacc { ext128 with sb := 254 }].all (fun ins => issues (claimed64.modTeam 0 0 fun t => { t with regs := 255 }) ins
            (fun _ i => !i.on.isEmpty && i.team.claim.any fun k => k.kw64 && k.vw64)) = true
      ∧ issues claimed64 (drain 8 5) (fun _ i => (i.src 1 0).2.isNone && i.team.claim.any (·.kw64)) = true
      ∧ issues (withReg claimed 8 (VReg.poisoned 0x1100)) (drain 8 4) (fun _ i => decide (i.on.head? = some 0) && (i.src 1 0).2.isSome) = true
      ∧ issues (cursor 128) (drain 8 4) (fun _ i => (i.src 1 0).2.isNone && i.team.claim.any fun k =>
        decide ((i.src 1 0).1 ≠ 0xFFFFFFFF ∧ 2 ^ (k.b + 3) + k.a ≤ (i.src 1 0).1)) = true := by decide +kernel

/-- EnginesAndTimelines: a tile the team has not; a TLREF beyond the counters, and one only hardware writes; a TLWAIT whose
counter has failed at n, and whose TLREF is poisoned; a poisoned query. -/
theorem witness_EnginesAndTimelines_traps :
    issues two (.accz { z with dst := 4, mod := 3 }) (fun t i => i.x.co.part.isNone && !i.on.isEmpty && decide (i.team.acc ≤ i.f.md 0 2)
        && (trapOf ((i.on.foldl (fun (a : State × List (Nat × Hit)) h => match a.1.askAccz i h with
          | (.hit x, v) => (v, a.2 ++ [(h, x)])
          | (_, v) => (v, a.2)) (t, [])).2)).isSome) = true
      ∧ [0x4000, 4000].all (fun n => issues (at8 n) (.tlsig { z with sa := 8, sb := 12 }) (fun _ i => i.on.all fun h =>
        decide (2 ^ 14 ≤ i.tlref h) || decide (4000 ≤ i.tlref h % 4096))) = true
      ∧ issues (at8 0x4000) (.tlwait { z with dst := 4, sa := 8, sb := 12 }) (fun _ i => i.on.all fun h => (i.tlPois h).isNone
        && decide (2 ^ 14 ≤ i.tlref h)) = true
      ∧ issues (at8 0x4000) (.tlqry { z with dst := 4, sa := 8 }) (fun _ i => i.on.all fun h => (i.src 1 h).2.isNone
        && decide (2 ^ 14 ≤ i.tlref h)) = true
      ∧ issues { at8 9 with tl := [(9, ⟨6, 6, 4, []⟩)] } (.tlwait { z with len := .m, dst := 4, sa := 8, imm := 4 }) (fun t i => i.on.all fun h =>
        (i.tlPois h).isNone && !t.loading i h && decide (i.tlref h < 2 ^ 14 ∧ (i.tlval h).1 ≤ (t.timeline (i.tlref h)).value.toNat
          ∧ (t.timeline (i.tlref h)).errv.toNat ≤ (i.tlval h).1)) = true
      ∧ issues poisoned8 (.tlwait { z with dst := 4, sa := 8, sb := 12 }) (fun _ i => i.on.all fun h => (i.tlPois h).isSome) = true
      ∧ issues poisoned8 (.tlqry { z with dst := 4, sa := 8 }) (fun _ i => i.on.all fun h => (i.src 1 h).2.isSome) = true := by
  decide +kernel
/-- R124, R400: a page that waits holds the request of a tensor operand, and its address is asked for. -/
theorem witness_EnginesAndTimelines_waits : let s := { recorded with tlb := [], mem := recorded.mem.putBytes 0x100000 (leBytes 8 0x40) }
    issues s (.accld { z with len := .l, dst := 4, sa := 20, sc := 16, mod := 2 }) (fun t i => i.x.co.part.isNone
      && i.on.all fun h => match (t.askAcc i .accld false h).1 with | .wait _ p => p | _ => false) = true := by decide +kernel

/-- TasksAndDeadlines: no TCB page waits once the dirty bytes are home; a TCB that is bad and one that waits; a step declared again
under its id; one whose T has passed. -/
theorem witness_TasksAndDeadlines_more : let ts : Instr := .tspawn { z with dst := 4, sa := 8 }
    issues two ts (fun t i => !i.on.isEmpty && t.mayRelease i && ((t.flush i.cl fun _ _ => true).spawnWaits i).isEmpty) = true
      ∧ issues (lone 0x60008) ts (fun t i => (t.space i.team.asid).live && !i.x.isMc && match (t.feTcb i.team.asid (i.src 1 0).1).1 with
        | .bad => true | _ => false) = true
      ∧ issues { lone 0x60000 with mem := pages.putBytes 0x101000 (leBytes 8 0x40) } ts (fun t i => match (t.feTcb i.team.asid (i.src 1 0).1).1 with
        | .wait _ p => p | _ => false) = true
      ∧ (let t := { lone 0 with ptime := 50 };
        (t.lateSteps fun _ => true).steps.find? (fun p => p.id == 7) = some step7 ∧ step7.asid = some 1
          ∧ (t.timeline 0x1009).value.toNat < 10 ∧ t.ptime ≤ 100 ∧ (t.steps.map (·.slot)).Nodup)
      ∧ ({ lone 0 with ptime := 101 }.lateSteps fun _ => true).steps.length = 0 := by decide +kernel

/-- SystemInstructions: FENCEI on the core; TABORT of a fibre that handles a trap. -/
theorem witness_SystemInstructions_core : issues coreWorld (.fencei z) (fun _ i => i.x.isMc && !i.on.isEmpty) = true
    ∧ issues two (.fencei z) (fun _ i => !i.x.isMc) = true
    ∧ issues inTrap (.tabort z) (fun _ i => (i.on.findSome? fun h => (i.fib h).trec).isSome && !i.x.isMc) = true := by decide +kernel

/-- QueueControl: a queue that is started while its descriptor's line waits, and while it does not. -/
theorem witness_QueueControl_start : let s (d : List Nat) : State := { two with
      queues := [(3, { queue3 0 0 with enable := false, state := .disabled })]
      spares := two.spares.map fun x => { x with draining := d } }
    [[], List.range 24].map (fun d => ((s d).doorQueue .pf0 3, ((s d).queue 3).enable, (s d).lineWaits ((s d).regFld 0x100 12 40 * 4096 + 64 * 3)))
      = [(some 3, false, false), (some 3, false, true)] := by decide +kernel

/-- Nothing waits at its home while no slice drains and no window is open. -/
theorem lines_go (s : State) (hw : (List.range 16).all (fun w => s.regFld (0x1400 + 32 * w + 16) 7 1 != 1) = true)
    (hd : ∀ d, (atD s.spares d Spares.reset).draining = []) (pa : Nat) : s.lineWaits pa = false := by
  have h : s.openWindow pa = none := by
    refine List.find?_eq_none.2 fun w hm => ?_
    have := List.all_eq_true.1 hw w hm
    simp_all
  simp [State.lineWaits, h, State.sliceDraining, hd]
/-- TaskAndTeamEvents: a COPY whose bytes are moved, its signal held back or not; the last matrix operation of a team over and not;
the slot of the saved team is not held. -/
theorem witness_TaskAndTeamEvents_more :
    (let t := { task9 .copy .running with copy := some ⟨0x70000, 0x60100, 1, 0, 0⟩ };
      (tasked t 0).task? 9 = some t ∧ t.state = .running)
    ∧ (idle.team? 0 0).map (fun t => decide (t.matLast.toNat ≤ (idle.timeline 4000).value.toNat) && t.matq.isEmpty) = some true
    ∧ savedState.slotHeld (savedState.slotBase 0 0) = false := by
  refine ⟨by decide +kernel, by decide +kernel, ?_⟩
  have h : ∀ pa, savedState.lineWaits pa = false := lines_go _ (by decide +kernel) fun d => by
    show (atD State.reset.spares d Spares.reset).draining = []
    rcases d with _ | _ | _ | _ | d <;> rfl
  have hs : savedState.stalled = [] := rfl
  simp [State.slotHeld, h, hs]

/-- ClusterEvents: a prefetch of this generation; a replay list whose load is its first; a line of an RDC with a partial. -/
theorem witness_ClusterEvents_more :
    (let s := two.modCl 0 fun k => { k with pend := [pend4 .pref (.pref 0x3000 1 0 0x3000 false)] };
      ((s.cl 0).pend[0]?).isSome = true ∧ s.heldMiss 0 0 = false ∧ s.gen 1 = 0 ∧ s.lineWaits 0x3000 = false)
    ∧ replayBehind (loading.cl 0).pend 0 0x3000 = false
    ∧ replayBehind [pend4 .replay (.load 0x3000 4 false), pend4 .replay (.load 0x3040 4 false)] 1 0x3040 = true
    ∧ { two with partials := [⟨3, 0x30FC, 0, 5, [1]⟩] }.lineWaits (256 * 48) = false ∧ two.rdc.length = 4 := by decide +kernel

/-- RegisterWrites: a migration of a page of 4 KiB to HBM and beyond it, of a page that is not mapped, of a space that is
not LIVE, and while its tables wait. -/
def moves (frame : Nat) : State := ((paged two).setReg 0x940 (BitVec.ofNat 64 (2 ^ 48 + 2 ^ 39))).setReg 0x948 (BitVec.ofNat 64 frame)
theorem witness_RegisterWrites_migration :
    (0x40000001 : Word).getLsbD 0 = true ∧ ((moves 0x80000).reg 0x950).getLsbD 31 = false ∧ (moves 0x80000).mig = none
      ∧ ((moves 0x80000).regFld 0x940 48 10, (moves 0x80000).regFld 0x940 12 36, (moves 0x80000).regFld 0x948 12 40) = (1, 2 ^ 27, 0x80)
      ∧ (match (moves 0x80000).leafAt 1 (2 ^ 39) with | some (12, pa, e) => !bitOf e 10 && !(moves 0).lineWaits pa | _ => false) = true
      ∧ ((moves 0x80000).leafAt 1 (4096 * (2 ^ 27 + 1))).isNone = true
      ∧ (moves 0x80000).leavesWait 1 (4096 * 2 ^ 27) 1 = false
      ∧ { moves 0x80000 with spares := draining.spares }.leavesWait 1 (4096 * 2 ^ 27) 1 = true
      ∧ isLocal 0x80000 = true ∧ isLocal (2 ^ 52 - 4096) = false ∧ (two.space 2).live = false := by decide +kernel
/-- The ROM waiting for recovery; the error log with room, full, and outside HBM; an ASCMD whose entry waits. -/
theorem witness_RegisterWrites_more : { two with boot := { two.boot with waits := true } }.boot.waits = true ∧ two.boot.waits = false
    ∧ two.latent = [] ∧ two.partials = []
    ∧ [0, 2 ^ (two.regFld 0x400 0 4 + 7)].map (fun t => let s := two.setReg 0x408 (BitVec.ofNat 64 t)
        decide (((s.reg 0x408).toNat + 2 ^ 32 - (s.reg 0x410).toNat % 2 ^ 32) % 2 ^ 32 = 2 ^ (s.regFld 0x400 0 4 + 7))) = [false, true]
    ∧ isLocal (two.regFld 0x400 12 40 * 4096) = true ∧ isLocal ((two.setReg 0x400 0xFFFFFFFFFF000).regFld 0x400 12 40 * 4096) = false
    ∧ two.lineWaits (two.asAt 1) = false ∧ draining.lineWaits (draining.asAt 1023) = true
    ∧ (two.bumps.all fun b => b.1 != 1) = true := by decide +kernel
/-- R120: the page's leaf has MIGRATING, and the bump of step 1 is asked for; a page that is not mapped ends with ERR 1. -/
theorem test_migration : let w := after (.migGo 1) (moves 0x80000)
    leVal (w.homeBytes 0x104000 8) = 0x70707 ∧ w.bumps = [(1, .migration)]
      ∧ (after (.migGo 3) (moves 0x80000)).regFld 0x950 28 4 = 5 := by decide +kernel

/-- MemoryAndFabricEvents: no partial of the space is held; sectors with nothing wrong, a symbol, and beyond correction; a write
behind a waiting one of its function, and on another; no step is declared. -/
theorem witness_MemoryAndFabricEvents_more : two.partialsHeld (· == 1) = false ∧ two.steps.length = 0 ∧ two.l2At 0xC0 = 0
    ∧ [none, some 0, some 1].all (fun k => ({ two with latent := (k.map fun n => (0xC0, n)).toList }.latent.lookup 0xC0) == k) = true
    ∧ (two.stall (some false) [(0x3000, 1)]).stalled = [⟨0, some false, 0x3000, 1⟩] := by decide +kernel
/-- R160: a write through a BAR4 goes behind an earlier one that waits; another function's does not. -/
theorem test_bar_order : let s := two.stall (some false) [(0x3000, 1)]
    ((after (.bar4Write false 0x4000 [7]) s).homeByte 0x4000, (after (.bar4Write true 0x4000 [7]) s).homeByte 0x4000) = (0, 7) := by
  decide +kernel

/-- GovernorAndDeviceEvents: steps before, at and past their T; a pinned line of another slice; links and ports before and after their
training; diodes all below LO, and one that is not; an image whose SVN is 0. -/
theorem witness_GovernorAndDeviceEvents_more :
    [99, 100, 101].map (fun p => let s := { lone 0 with ptime := p }
        (decide (s.ptime ≤ 100), (s.steps.filter fun p => p.slot == 0) == [step7])) = [(true, true), (true, true), (false, true)]
      ∧ (two.pins.all fun p => !ofSlice 0 23 (4 * p.line)) = true ∧ ofSlice 0 (homeSlice 0x3000) (0x3000 / 64) = true
      ∧ two.linksTrained = false ∧ (two.setReg 0x228 0x30000).linksTrained = true ∧ (two.setReg 0x228 0x100000).portsTrained = true
      ∧ two.portsTrained = false ∧ (two.setReg (dieOff 0 + 0x304) 0x80007FFF).allCool 0 = false ∧ two.allCool 0 = true
      ∧ leVal ((([] : List Byte).drop 8).take 4) = 0 := by decide +kernel
/-- R52: at HI a diode raises THERMAL_ALERT and disarms its die; an invalid one arms it again when no other is warm. -/
theorem test_thermal : let s := two.setReg (dieOff 0 + 0x340) 0x00300050
    let w := after (.thermalAlert 0 1 0x50) s
    (w.reg 0x200).getLsbD 2 = true ∧ atD w.alerts 0 true = false
      ∧ atD (after (.tempFallBelowLo 0 [(1, none)]) w).alerts 0 false = true := by decide +kernel


/-- EnginesAndTimelines, an MMA's numbers: of a team whose scratchpad holds no poison, both operands there, BF16 and INT8. -/
def mma1 (fmt : Nat) : MatOp := ⟨1, .mma, 0, fmt, true, false, 0, 0x1000, .scratch 0, .scratch 0, [], none, true, [], false⟩
theorem mmaRows_clean (s : State) (t : Team) (fmt side : Nat) (hf : fmt = 0 ∨ fmt = 6) (hc : ((s.team? 0 t.slot).map (·.scrPois)) = some []) :
    (∀ m ∈ ((s.mmaEng 0 t (mma1 fmt)).mmaRows (mma1 fmt) side).1, m.body = none ∧ m.scale = none ∧ m.outl = none)
      ∧ ((s.mmaEng 0 t (mma1 fmt)).mmaRows (mma1 fmt) side).2 = s.mmaEng 0 t (mma1 fmt) := by
  have ld (off bit bits : Nat) : ((s.mmaEng 0 t (mma1 fmt)).scrLoad off bit bits).2 = none := by
    obtain ⟨u, hu, hp⟩ := Option.map_eq_some_iff.1 hc
    simp [Eng.scrLoad, State.mmaEng, State.eng, Eng.make, hu, Team.scrPoisoned, hp]
  have row (r : Nat) : let (m, x) := (s.mmaEng 0 t (mma1 fmt)).mmaRow (mma1 fmt) side r
      (m.body = none ∧ m.scale = none ∧ m.outl = none) ∧ x = s.mmaEng 0 t (mma1 fmt) := by
    obtain ⟨rf, kk, hm⟩ : ∃ rf kk, mmaFmt fmt = (rf, kk, false) := by rcases hf with rfl | rfl <;> exact ⟨_, _, rfl⟩
    have h5 : ¬fmt = 5 := by omega
    simp only [Eng.mmaRow, mma1, hm, h5, false_and, if_false]
    refine foldl_ind (fun a : MRow × Eng => (a.1.body = none ∧ a.1.scale = none ∧ a.1.outl = none) ∧ a.2 = s.mmaEng 0 t _) _
      (fun a k h => ?_) _ _ ⟨⟨rfl, rfl, rfl⟩, rfl⟩
    obtain ⟨⟨h1, h2, h3⟩, h4⟩ := h
    split
    · exact ⟨⟨h1, h2, h3⟩, h4⟩
    · simp [Eng.mmaGet, Eng.mmaRead, hm, List.lookup, h1, h2, h3, h4]
      split <;> exact ld _ _ _
  exact foldl_ind (fun a : List MRow × Eng => (∀ m ∈ a.1, m.body = none ∧ m.scale = none ∧ m.outl = none)
      ∧ a.2 = s.mmaEng 0 t (mma1 fmt)) _ (fun a k h => by
        simp only [h.2]
        have := row k
        refine ⟨fun m hm => ?_, this.2⟩
        rcases List.mem_append.1 hm with hm | hm
        · exact h.1 m hm
        · exact (List.mem_singleton.1 hm) ▸ this.1) _ _ ⟨by simp, rfl⟩
theorem witness_EnginesAndTimelines_mma (fmt : Nat) (hf : fmt = 0 ∨ fmt = 6) : ∃ tm as bs x y, two.team? 0 0 = some tm
    ∧ (mma1 fmt).pois = none ∧ (mma1 fmt).lost = false ∧ (two.mmaEng 0 tm (mma1 fmt)).mmaRows (mma1 fmt) 0 = (as, x)
    ∧ x.mmaRows (mma1 fmt) 1 = (bs, y) ∧ y.wait = none ∧ y.fail = false
    ∧ (∀ m ∈ as ++ bs, m.body = none ∧ m.scale = none ∧ m.outl = none) ∧ ∀ w < 16384, tm.tilePois 0 w = none := by
  obtain ⟨tm, ht, hz, hp⟩ : ∃ tm, two.team? 0 0 = some tm ∧ tm.slot = 0 ∧ tm.accPois = [] := ⟨_, rfl, rfl, rfl⟩
  have hc : ((two.team? 0 tm.slot).map (·.scrPois)) = some [] := by rw [hz]; rfl
  have ha := mmaRows_clean two tm fmt 0 hf hc
  have hb := mmaRows_clean two tm fmt 1 hf hc
  generalize h0 : (two.mmaEng 0 tm (mma1 fmt)).mmaRows (mma1 fmt) 0 = a at ha
  generalize h1 : (two.mmaEng 0 tm (mma1 fmt)).mmaRows (mma1 fmt) 1 = b at hb
  obtain ⟨as, x⟩ := a
  obtain ⟨bs, y⟩ := b
  obtain ⟨ha, rfl⟩ := ha
  obtain ⟨hb, rfl⟩ := hb
  exact ⟨tm, as, bs, _, _, ht, rfl, rfl, h0, h1, rfl, rfl, fun m hm => (List.mem_append.1 hm).elim (ha m) (hb m),
    fun w _ => by simp [Team.tilePois, hp, Tab.get]⟩
/-- FpSpecialValues: magnitudes at which E4M3 and E2M1 saturate and the next below that do not, under each RM (R233). -/
theorem witness_FpSpecialValues_saturates : (e4m3.round .rne true false 465 0 false, e4m3.round .rne true false 464 0 false) = ((0x7E, fSAT ||| fOF ||| fNX), (0x7E, fNX))
    ∧ ((e4m3.round .rtz true true 480 0 false).2, (e4m3.round .rtz true true 479 0 false).2) = (fSAT ||| fOF ||| fNX, fNX)
    ∧ ((e4m3.round .rup true false 449 0 false).2, (e4m3.round .rdn true false 449 0 false).2) = (fSAT ||| fOF ||| fNX, fNX)
    ∧ (e2m1.round .rne true false 7 0 false).2 = fSAT ||| fOF ||| fNX
    ∧ ((e2m1.round (.sr 0x80000000) true false 7 0 false).2, (e2m1.round (.sr 0x7FFFFFFF) true false 7 0 false).2)
      = (fSAT ||| fOF ||| fNX, fNX) := by decide +kernel
end Sys2Proof.Tests
end

section
/-! The management core's traps, interrupts and takeover (R46 to R51). -/
namespace Sys2Proof.Proofs.ManagementCore
open Sys2Proof.Machine

/-! ### MC_STAT.IE -/

theorem reg_setIe_ne (s : State) (b : Bool) {off : Nat} (h : off ≠ 0x228) : (s.setIe b).reg off = s.reg off :=
  State.reg_setReg_ne s _ h

theorem ie_setReg_ne (s : State) (v : DWord) {off : Nat} (h : 0x228 ≠ off) : (s.setReg off v).ie = s.ie := by
  rw [State.ie, State.reg_setReg_ne s v h, State.ie]

/-- The field of one bit at the bottom of a register's value is its lowest bit. -/
theorem setFld_bit0_odd (x : Nat) (b : Bool) : setFld x 0 1 (b2n b) % 2 = b2n b := by
  have hb : b2n b = 0 ∨ b2n b = 1 := by cases b <;> simp [b2n]
  simp only [setFld, fld]
  omega

theorem ie_setIe {s : State} (h : regsWf s.regs = true) (b : Bool) : (s.setIe b).ie = b := by
  have hr : (s.setIe b).reg 0x228 = BitVec.ofNat 64 (setFld (s.reg 0x228).toNat 0 1 (b2n b)) := State.reg_setReg h _ _
  rw [State.ie, hr, BitVec.getLsbD_ofNat, Nat.testBit_zero, setFld_bit0_odd]
  cases b <;> rfl

theorem regsWf_setReg {s : State} (h : regsWf s.regs = true) (off : Nat) (v : DWord) : regsWf (s.setReg off v).regs = true :=
  Tab.wfFrom_set v h (Nat.zero_le _)

/-! ### Pending results that land -/

/-- What the four updates of landing leave, landing leaves. -/
theorem land_keeps {γ : Type} (q : State → γ)
    (hf : ∀ (s : State) c k h d, q (s.modFibre c k h fun f => f.apply d) = q s)
    (ht : ∀ (s : State) c k ws g, q (s.modTeam c k fun t => t.retag ws g) = q s)
    (hu : ∀ (s : State) c id rs, q (s.unlatch c id rs) = q s)
    (hc : ∀ (s : State) c id p, q (s.modCohort c id fun k => { k with late := k.late.filter p }) = q s)
    (s : State) (c id : Nat) (upto : Option Nat) : q (s.land c id upto) = q s := by
  have landed (co : Cohort) (now : List Late) : q (now.foldl (fun s l => s.modFibre c co.team l.fibre fun f => f.apply l.dst) s)
      = q s := foldl_eq q _ (fun s l => hf s _ _ _ _) now s
  cases h : s.cohort? c id with
  | none => simp only [State.land, h]
  | some co =>
    cases upto <;> simp only [State.land, h]
    all_goals
      split
      · rfl
      · rw [hc, hu, ht, landed]

/-- Every pending result of the core is written (R457). -/
def landAll (s : State) : State := (s.cl mcCluster).cohorts.foldl (fun s k => s.land mcCluster k.id none) s

theorem landAll_keeps {γ : Type} (q : State → γ) (h : ∀ (s : State) c id upto, q (s.land c id upto) = q s) (s : State) :
    q (landAll s) = q s := foldl_eq q _ (fun s _ => h s _ _ _) _ s

theorem landAll_regs (s : State) : (landAll s).regs = s.regs :=
  landAll_keeps (·.regs) (land_keeps _ (fun _ _ _ _ _ => rfl) (fun _ _ _ _ _ => rfl) (fun _ _ _ _ => rfl) fun _ _ _ _ => rfl) s

theorem landAll_mem (s : State) : (landAll s).mem = s.mem :=
  landAll_keeps (·.mem) (land_keeps _ (fun _ _ _ _ _ => rfl) (fun _ _ _ _ _ => rfl) (fun _ _ _ _ => rfl) fun _ _ _ _ => rfl) s

/-- How many fibres the team of the core's slot has. -/
def fibreCount (s : State) : Option Nat := (s.team? mcCluster 0).map fun t => t.fibres.length

theorem fibreCount_modTeam (s : State) (c k : Nat) (g : Team → Team) (hs : ∀ t, (g t).slot = t.slot)
    (hg : ∀ t, (g t).fibres.length = t.fibres.length) : fibreCount (s.modTeam c k g) = fibreCount s := by
  unfold fibreCount
  by_cases hc : mcCluster = c
  · subst hc
    rw [State.team?_modTeam _ _ _ _ _ hs, Option.map_map]
    congr 1
    funext t
    by_cases hk : t.slot = k <;> simp [hk, hg]
  · rw [State.team?_modTeam_cl_ne _ _ _ _ hc]

theorem landAll_fibreCount (s : State) : fibreCount (landAll s) = fibreCount s :=
  landAll_keeps fibreCount (land_keeps _
    (fun s c k h d => fibreCount_modTeam s c k _ (fun _ => rfl) fun t => by simp [Team.modFibre])
    (fun s c k ws g => fibreCount_modTeam s c k _ (fun _ => rfl) fun _ => rfl)
    (fun s c id rs => by simp [fibreCount])
    fun s c id p => by simp [fibreCount]) s

/-! ### A vector with its pad -/

/-- The core's cohorts held by nothing, their distances begun anew, and the operands latched dropped (R457). -/
def unheld (k : Cluster) : Cluster := { k with
  cohorts := k.cohorts.map fun (h : Cohort) => { h with hold := .none, dist := 0, rest := (0, 0), blocked := none }
  latches := k.latches.map fun _ => [] }

/-- The core's fibre at `a`, and the core past any WFI. -/
def redirect (s : State) (a : Addr) : State :=
  { s.modTeam mcCluster 0 fun t => t.modFibre 0 fun f => { f with pc := a, wait := .none } with
    core := { s.core with wfi := false } }

/-- The core enters its handler at `a`, with `pc` in MC_EPC (R48, R457). -/
def enterAt (s : State) (pc a : Addr) : State :=
  (redirect ((s.setReg 0x218 (pc.setWidth 64)).setIe false) a).modCl mcCluster unheld

theorem enterAt_epc {s : State} (h : regsWf s.regs = true) (pc a : Addr) : (enterAt s pc a).reg 0x218 = pc.setWidth 64 :=
  (reg_setIe_ne _ false (by decide)).trans (State.reg_setReg h 0x218 (pc.setWidth 64))

theorem enterAt_ie {s : State} (h : regsWf s.regs = true) (pc a : Addr) : (enterAt s pc a).ie = false :=
  ie_setIe (regsWf_setReg h 0x218 (pc.setWidth 64)) false

theorem enterAt_mem (s : State) (pc a : Addr) : (enterAt s pc a).mem = s.mem := rfl

theorem enterAt_wfi (s : State) (pc a : Addr) : (enterAt s pc a).core.wfi = false := rfl

theorem unheld_cohorts {k : Cluster} : ∀ h ∈ (unheld k).cohorts, h.hold = .none ∧ h.dist = 0 := fun h hh => by
  obtain ⟨_, _, rfl⟩ := List.mem_map.1 hh
  exact ⟨rfl, rfl⟩

theorem unheld_latches {k : Cluster} : ∀ l ∈ (unheld k).latches, l = [] := fun l hl => by
  obtain ⟨_, _, rfl⟩ := List.mem_map.1 hl
  rfl

/-- The core's cluster after an entry; one that the package lacks reads as it stands after reset, which is the same. -/
theorem enterAt_cluster (s : State) (pc a : Addr) : ∃ k, (enterAt s pc a).cl mcCluster = unheld k := by
  unfold enterAt
  generalize redirect _ a = u
  by_cases hc : mcCluster < u.clusters.length
  · exact ⟨_, State.cl_modCl _ _ _ hc⟩
  · rw [State.modCl_of_ge _ _ _ (Nat.le_of_not_lt hc)]
    exact ⟨Cluster.reset, atD_of_ge _ _ _ (Nat.le_of_not_lt hc)⟩

theorem team?_redirect (s : State) (a : Addr) : (redirect s a).team? mcCluster 0
    = (s.team? mcCluster 0).map fun t => t.modFibre 0 fun f => { f with pc := a, wait := .none } :=
  State.team?_modTeam_self s _ _ _ fun _ => rfl

theorem enterAt_fibre {s : State} {tm : Team} (ht : s.team? mcCluster 0 = some tm) (hl : 0 < tm.fibres.length) (pc a : Addr) :
    (enterAt s pc a).fibre mcCluster 0 0 = { s.fibre mcCluster 0 0 with pc := a, wait := .none } := by
  have hr : ((s.setReg 0x218 (pc.setWidth 64)).setIe false).team? mcCluster 0 = some tm := ht
  have hw : (enterAt s pc a).team? mcCluster 0 = some (tm.modFibre 0 fun f => { f with pc := a, wait := .none }) := by
    rw [enterAt, State.team?_modCl _ _ _ _ unheld fun _ => rfl, team?_redirect, hr, Option.map_some]
  simp only [State.fibre, hw, ht]
  exact Team.fibre_modFibre_self _ _ _ hl

/-! ### What an entry comes to (R48, R354) -/

theorem mcEnter_trap_masked {s : State} (h : s.ie = false) (n : Nat) (pc : Addr) : s.mcEnter n pc true = s.takeover := by
  simp [State.mcEnter, h]

section
variable {s u : State} {n : Nat} {a : Addr} {trap : Bool} (pc : Addr) (hie : trap = true → s.ie = true)
include hie

/-- An entry is not a trap under a clear IE. -/
theorem not_trap_masked : (trap && !s.ie) = false := by
  cases trap
  · rfl
  · simp [hie rfl]

theorem mcEnter_pass (h : s.mcVector n = (.pass, a, u)) : s.mcEnter n pc trap = enterAt (landAll u) pc a := by
  simp only [State.mcEnter, not_trap_masked hie, h]
  rfl

theorem mcEnter_fail (h : s.mcVector n = (.fail, a, u)) : s.mcEnter n pc trap = u.takeover := by
  simp [State.mcEnter, not_trap_masked hie, h]

theorem mcEnter_wait (h : s.mcVector n = (.wait, a, u)) : s.mcEnter n pc trap = u := by
  simp [State.mcEnter, not_trap_masked hie, h]

end

/-- An entry whose vector has its pad: what it sets, and that it moves the core's fibre alone. -/
theorem mcEnter_pass_effect {t u : State} {n : Nat} {pc a : Addr} {trap : Bool} (hie : trap = true → t.ie = true)
    (h : t.mcVector n = (.pass, a, u)) (hu : regsWf u.regs = true) :
    let w := t.mcEnter n pc trap
    let v := landAll u
    w.reg 0x218 = pc.setWidth 64 ∧ w.ie = false ∧ w.core.wfi = false ∧ w.mem = u.mem
      ∧ (∀ k ∈ (w.cl mcCluster).cohorts, k.hold = .none ∧ k.dist = 0) ∧ (∀ l ∈ (w.cl mcCluster).latches, l = [])
      ∧ ∀ tm, u.team? mcCluster 0 = some tm → 0 < tm.fibres.length →
          w.fibre mcCluster 0 0 = { v.fibre mcCluster 0 0 with pc := a, wait := .none } := by
  intro w v
  have hw : w = enterAt v pc a := mcEnter_pass pc hie h
  have hv : regsWf v.regs = true := (landAll_regs u).symm ▸ hu
  obtain ⟨k, hk⟩ := enterAt_cluster v pc a
  rw [hw, hk]
  refine ⟨enterAt_epc hv pc a, enterAt_ie hv pc a, enterAt_wfi v pc a, (enterAt_mem v pc a).trans (landAll_mem u),
    unheld_cohorts, unheld_latches, fun tm htm hl => ?_⟩
  have hcount : fibreCount v = some tm.fibres.length := (landAll_fibreCount u).trans (by simp [fibreCount, htm])
  obtain ⟨tv, htv, hlen⟩ := Option.map_eq_some_iff.1 hcount
  exact enterAt_fibre htv (by omega) pc a

/-! ### A trap of the core -/

/-- The record that a trap of the core writes, and the entry of vector 0 behind it (R48, R267). -/
theorem takeTrap_core (t : State) {x : Ctx} (hx : x.isMc = true) (iw : Code) (q : Trap) :
    ∃ r : TrapRec, r.pc = x.pc ∧ r.cause.toNat = q.cause % 256
      ∧ r.sub.toNat = q.sub % 256 ∧ r.npos = 1 ∧ r.iw = iw ∧ r.time.toNat = t.ptime % 2 ^ 64
      ∧ t.takeTrap x iw q
        = (t.homePut (cellsAt (t.sramPa ((t.reg 0x210).toNat + 64)) (recBytes r.words))).mcEnter 0 x.pc true := by
  refine ⟨t.trapRec x iw q 0 ((q.hits.head?.map (·.2)).getD 0), rfl, ?_, ?_, ?_, rfl, ?_, ?_⟩
  · exact BitVec.toNat_ofNat _ _
  · exact BitVec.toNat_ofNat _ _
  · simp [State.trapRec, hx]
  · exact BitVec.toNat_ofNat _ _
  · simp [State.takeTrap, hx]

/-! ### Takeover (R51) -/

theorem takeover_of_d1 {t : State} (h : t.core.d1 = true) : t.takeover = t.stopCore := by
  have hs : t.stopCore.core.d1 = true := h
  simp [State.takeover, hs]

/-- The core of D0 or D1 starts with IE clear (R456). -/
theorem startCore_ie {s : State} (h : regsWf s.regs = true) (d1 : Bool) : (s.startCore d1).ie = false := by
  unfold State.startCore
  exact ie_setIe (by exact h) false

theorem takeover_of_d0 {t : State} (hr : regsWf t.regs = true) (h : t.core.d1 = false) :
    t.takeover.core.running = true ∧ t.takeover.core.d1 = true ∧ t.takeover.ie = false := by
  have hs : t.stopCore.core.d1 = false := h
  have ht : t.takeover = (((t.stopCore.startCore true).setReg 0x428 0).setReg 0x430 0).setReg 0x438 0 := by
    simp [State.takeover, hs]
  rw [ht]
  refine ⟨rfl, rfl, ?_⟩
  rw [ie_setReg_ne _ _ (by decide), ie_setReg_ne _ _ (by decide), ie_setReg_ne _ _ (by decide)]
  exact startCore_ie (s := t.stopCore) hr true

/-! ### Interrupts (R47, R48) -/

/-- The interrupt that is pending is the lowest number of 1 to 6 that is raised and enabled. -/
theorem mcPending_eq_some_iff (t : State) (n : Nat) : t.mcPending = some n ↔ 1 ≤ n ∧ n ≤ 6
    ∧ (t.reg 0x200).getLsbD n = true ∧ (t.reg 0x208).getLsbD n = true
    ∧ ∀ m, 1 ≤ m → m < n → (t.reg 0x200).getLsbD m = false ∨ (t.reg 0x208).getLsbD m = false := by
  rw [State.mcPending, List.find?_range_eq_some]
  simp only [Bool.and_eq_true, decide_eq_true_eq, List.mem_range, Bool.not_eq_true', Bool.and_eq_false_iff,
    decide_eq_false_iff_not]
  constructor
  · rintro ⟨⟨⟨h1, hp⟩, he⟩, h6, hlow⟩
    exact ⟨h1, by omega, hp, he, fun m hm hmn => (hlow m hmn).imp_left fun h => h.resolve_left fun hge => hge hm⟩
  · rintro ⟨h1, h6, hp, he, hlow⟩
    refine ⟨⟨⟨h1, hp⟩, he⟩, by omega, fun m hmn => ?_⟩
    by_cases hm : 1 ≤ m
    · exact (hlow m hm hmn).imp_left .inr
    · exact .inl (.inl hm)

theorem mcTake_eq_some_iff (t : State) (n : Nat) : t.mcTake = some n ↔ t.core.running = true ∧ t.ie = true
    ∧ (∀ k ∈ (t.cl mcCluster).cohorts, k.part = none) ∧ t.mcPending = some n := by
  simp [State.mcTake, and_assoc]

/-- A slot of the core at an interrupt's boundary enters the interrupt's vector. -/
theorem step_interrupt {s t : State} {sl n : Nat} (hturn : s.takeTurn = (.issue mcCluster sl, t))
    (hopen : t.tick.sliceOpen mcCluster sl = true) (hpassed : (t.tick.cl mcCluster).passedBy sl = false)
    (htake : t.tick.mcTake = some n) :
    step s = .next (t.tick.mcEnter n (t.tick.fibre mcCluster 0 0).pc false) := by
  simp [step, hturn, State.issueSlot, hopen, hpassed, State.mcBoundary, htake]

/-- Settles O15: an entry of the vector table takes one of three ways, a takeover one of two, and an interrupt is taken at the
boundary where `mcTake` finds one. -/
theorem coreTrapsAndInterrupts : Obligations.CoreTrapsAndInterrupts := fun t hwf =>
  ⟨fun _ _ _ _ _ hie hvec hu => mcEnter_pass_effect hie hvec hu,
    fun n pc hie => mcEnter_trap_masked hie n pc,
    fun _ pc _ _ _ hie hvec => mcEnter_fail pc hie hvec,
    fun _ pc _ _ _ hie hvec => mcEnter_wait pc hie hvec,
    fun _ iw q hx => takeTrap_core t hx iw q,
    fun hd1 => ⟨takeover_of_d1 hd1, takeover_of_d1 hd1 ▸ rfl⟩,
    fun hd0 => takeover_of_d0 hwf hd0,
    fun _ _ _ hturn hopen hpassed htake => step_interrupt hturn hopen hpassed htake,
    fun n => by rw [mcTake_eq_some_iff, mcPending_eq_some_iff]⟩

end Sys2Proof.Proofs.ManagementCore
end

section
/-! A step's turn: the instruction that it fetches, decodes and runs, and what passes while nothing is at work (R87, R178, R287). -/
namespace Sys2Proof.Proofs.StepTurn
open Sys2Proof.Machine

/-! ### Fetch and decode (R287) -/

/-- A fetch that yields bytes yields as many as it was asked for. -/
theorem fetch_length {s t : State} {c asid va n : Nat} {bs : List Byte} (h : s.fetch c asid va n = (.ok bs, t)) :
    bs.length = n := by
  unfold State.fetch at h
  dsimp only at h
  split at h
  · split at h
    · cases h
    · cases h
      simp
  all_goals cases h

/-- What is found at an aligned PC whose instruction stays in its block: the instruction that the bytes of its length decode to. -/
theorem found_run {s t w : State} {x : Ctx} {head bs rest : List Byte} {i : Instr} (halign : x.pc.toNat % 4 = 0)
    (hfetch : s.fetch x.c x.team.space x.pc.toNat (min 8 (32 - x.pc.toNat % 32)) = (.ok head, t))
    (hroom : x.pc.toNat % 32 + fetchSize (head.headD 0) ≤ 32)
    (hbs : fetchSize (head.headD 0) = 8 ∧ bs = head ∧ w = t
      ∨ 8 < fetchSize (head.headD 0) ∧ t.fetch x.c x.team.space x.pc.toNat (fetchSize (head.headD 0)) = (.ok bs, w))
    (hdec : decodeBytes bs = .ok (i, rest)) : s.found x = (.run i, w) := by
  have hlen : head.length = 8 := (fetch_length hfetch).trans (by omega)
  have hmin : min (fetchSize (head.headD 0)) (32 - x.pc.toNat % 32) = fetchSize (head.headD 0) := by omega
  have hrun : decodeFound x (fetchSize (head.headD 0)) bs = .run i := by
    have hok : ¬(x.pc.toNat % 4 ≠ 0 ∨ x.pc.toNat % 32 + fetchSize (head.headD 0) > 32) := by omega
    simp only [decodeFound, if_neg hok, hdec]
  unfold State.found
  simp only [hfetch, hmin, hlen]
  rcases hbs with ⟨hshort, rfl, rfl⟩ | ⟨hlong, hfetch2⟩
  · rw [if_pos (by omega), hrun]
  · rw [if_neg (by omega), hfetch2]
    simp only [hrun]

theorem issueCohort_run {v w : State} {c id : Nat} {x : Ctx} {i : Instr} {run : Instr → State → Out}
    (hx : v.ctxOf c id = some x) (hfound : State.found { v with cur := some (c, id) } x = (.run i, w)) :
    v.issueCohort c id run = run i w := by
  simp only [State.issueCohort, hx, hfound]

/-! ### The slot (R178) -/

theorem issueFirst_alone (v : State) (c id : Nat) (run : Instr → State → Out) :
    v.issueFirst c run [id] = v.issueCohort c id run := rfl

theorem issueFirst_wentOn {v y : State} {c id : Nat} {run : Instr → State → Out} (others : List Nat)
    (hy : v.issueCohort c id run = .next y) (hon : y.wentOn v c id = true) : v.issueFirst c run (id :: others) = .next y := by
  cases others with
  | nil => exact hy
  | cons o os => simp only [State.issueFirst, hy, hon, if_true]

theorem issueFirst_next {v y : State} {c id : Nat} {run : Instr → State → Out} {others : List Nat}
    (hy : v.issueCohort c id run = .next y) (hon : y.wentOn v c id = false) (ho : others ≠ []) :
    v.issueFirst c run (id :: others) = y.issueFirst c run others := by
  cases others with
  | nil => exact absurd rfl ho
  | cons o os => simp [State.issueFirst, hy, hon]

/-- The state in which a slot's candidates are tried: the core no longer waits (R425). -/
def awake (s : State) (c : Nat) : State := if c = mcCluster then { s with core := { s.core with wfi := false } } else s

theorem issueSlot_open {s : State} {c slice : Nat} {run : Instr → State → Out} (hc : c ≤ mcCluster)
    (hopen : s.sliceOpen c slice = true) (hpassed : (s.cl c).passedBy slice = false)
    (hmc : c = mcCluster → s.mcBoundary = none) :
    s.issueSlot c slice run = (awake s c).issueFirst c run (s.candidates c slice) := by
  have hb : (if c = mcCluster then s.mcBoundary else none) = none := by
    split
    · exact hmc ‹_›
    · rfl
  have hgo : ¬(c > mcCluster ∨ !s.sliceOpen c slice ∨ (s.cl c).passedBy slice) := by
    simp [hopen, hpassed, Nat.not_lt.2 hc]
  simp only [State.issueSlot, if_neg hgo, hb]
  rfl

theorem step_issue {s u : State} {c slice : Nat} (h : s.takeTurn = (.issue c slice, u)) :
    step s = u.tick.issueSlot c slice exec := by
  simp only [step, h]

theorem step_event {s u : State} {i : Instr} (h : s.takeTurn = (.event i, u)) (hi : isEvent i = true) :
    step s = exec i u.tick := by
  simp only [step, h, hi, if_true]

theorem takeTurn_cons {s : State} {a : Turn} {r : List Turn} (h : s.agenda = a :: r) :
    s.takeTurn = (a, { s with agenda := r }) := by
  simp only [State.takeTurn, h]

/-! ### What passes while nothing is at work (R87, R93) -/

/-- Nothing is at work and nothing waits: no step, task, transfer or matrix operation, nothing that time, a page or a line would
let go on, and no request beyond the miss-status entries. -/
structure Idle (s : State) : Prop where
  steps : s.steps = []
  notices : s.notices = []
  pkts : s.pkts = []
  handlers : s.handlers = []
  stalled : s.stalled = []
  tasks : s.tasks = []
  xfers : s.xfers = []
  boot : s.boot.stage = 0
  errs : s.errs = []
  ascmd : s.asBusy = false
  mig : ∀ m, s.mig = some m → m.begun = true
  queues : ∀ q ∈ s.queues, q.2.enable = true → q.2.state ≠ .disabled
  clusters : ∀ k ∈ s.clusters, k.pend.length ≤ 512 ∧ ∀ tm ∈ k.teams, tm.sysw = [] ∧ tm.matq = []

theorem length_tickCycles (n : Nat → Nat) (c : Nat) (l : List Cluster) : (tickCycles n c l).length = l.length := by
  induction l generalizing c with
  | nil => rfl
  | cons k ks ih => simp [tickCycles, ih]

theorem atD_tickCycles (n : Nat → Nat) (d : Cluster) (c j : Nat) (l : List Cluster) (hj : j < l.length) :
    atD (tickCycles n c l) j d = { atD l j d with cycle := (atD l j d).cycle + n (c + j) } := by
  induction l generalizing c j with
  | nil => exact absurd hj (Nat.not_lt_zero j)
  | cons k ks ih =>
    cases j with
    | zero => rfl
    | succ j =>
      have := ih (c + 1) j (Nat.lt_of_succ_lt_succ hj)
      rwa [Nat.add_right_comm, Nat.add_assoc] at this

/-- Cycles that pass change a cluster's cycle count alone. -/
theorem mem_tickCycles {n : Nat → Nat} {c : Nat} {l : List Cluster} {k : Cluster} (hk : k ∈ tickCycles n c l) :
    ∃ h ∈ l, ∃ m, k = { h with cycle := m } := by
  induction l generalizing c with
  | nil => cases hk
  | cons h t ih =>
    rcases List.mem_cons.1 hk with rfl | hk
    · exact ⟨h, List.mem_cons_self, _, rfl⟩
    · obtain ⟨h', hm, e⟩ := ih hk
      exact ⟨h', List.mem_cons_of_mem _ hm, e⟩

/-- A left fold whose every step leaves the state leaves it. -/
theorem foldl_id {α : Type} {g : State → α → State} {l : List α} {s : State} (h : ∀ a ∈ l, g s a = s) : l.foldl g s = s := by
  induction l with
  | nil => rfl
  | cons a l ih =>
    rw [List.foldl_cons, h a List.mem_cons_self]
    exact ih fun b hb => h b (List.mem_cons_of_mem _ hb)

namespace Idle
variable {s : State}

theorem misses (h : Idle s) (c : Nat) : s.misses c = [] := by
  have hl : (s.cl c).pend.length ≤ 512 := by
    by_cases hc : c < s.clusters.length
    · have hm : s.cl c ∈ s.clusters := by
        simp [State.cl, atD, hc]
      exact (h.clusters _ hm).1
    · simp [State.cl, atD_of_ge _ _ _ (Nat.le_of_not_lt hc), Cluster.reset]
  rw [State.misses, if_pos hl]

theorem countHeld (h : Idle s) : s.countHeld = s :=
  foldl_id fun c _ => by simp [h.misses c]

/-- With no step declared, time and the clusters' clocks are all that moves. -/
theorem pass_eq (h : Idle s) : s.pass = { s with
    ptime := s.timeNext
    clusters := tickCycles s.cyclesNow 0 s.clusters
    free := s.free + 1 } := by
  simp [State.pass, h.steps]

theorem pass (h : Idle s) : Idle s.pass := by
  have hcl : ∀ k ∈ tickCycles s.cyclesNow 0 s.clusters, k.pend.length ≤ 512 ∧ ∀ tm ∈ k.teams, tm.sysw = [] ∧ tm.matq = [] :=
    fun k hk => by
      obtain ⟨k', hm, _, rfl⟩ := mem_tickCycles hk
      exact h.clusters k' hm
  rw [h.pass_eq]
  exact { h with clusters := hcl }

theorem settleRegs (h : Idle s) : s.settleRegs = s := by
  have hk : ∀ k ∈ s.clusters, (k.teams.any fun t => !t.sysw.isEmpty) = false := fun k hm => by
    simpa using fun t ht => ((h.clusters k hm).2 t ht).1
  have hl : s.clusters.map (fun (k : Cluster) =>
      if k.teams.any fun t => !t.sysw.isEmpty then { k with teams := k.teams.map fun t => t.sysSettle (some k.cycle) } else k)
      = s.clusters := (List.map_congr_left fun k hm => by rw [hk k hm]; rfl).trans (List.map_id _)
  rw [State.settleRegs, hl]

theorem stream (h : Idle s) : s.stream = s := by
  have hk : (s.clusters.any fun k => k.teams.any fun t => t.matq.any fun o => o.kind == .mma) = false := by
    simpa using fun k hm t ht o ho => absurd ho (by simp [((h.clusters k hm).2 t ht).2])
  rw [State.stream, hk]
  rfl

theorem moveSome (h : Idle s) : s.moveSome = s := by simp [State.moveSome, h.xfers]
theorem settleFaults (h : Idle s) : s.settleFaults = s := by simp [State.settleFaults, h.tasks]
theorem bootTick (h : Idle s) : s.bootTick = s := by simp [State.bootTick, h.boot]
theorem unstall (h : Idle s) : s.unstall = s := by simp [State.unstall, h.stalled]
theorem logErrs (h : Idle s) (mine : Nat → Bool) : s.logErrs mine = s := by simp [State.logErrs, h.errs]
theorem ascmdResume (h : Idle s) : s.ascmdResume = s := by simp [State.ascmdResume, h.ascmd]

theorem migResume (h : Idle s) : s.migResume = s := by
  cases hm : s.mig with
  | none => simp only [State.migResume, hm]
  | some m => simp only [State.migResume, hm, h.mig m hm, if_true]

theorem queueResume (h : Idle s) : s.queueResume = s :=
  foldl_id fun q hq => by
    have := h.queues q hq
    simpa using fun he hd => absurd hd (this he)

theorem resume (h : Idle s) : s.resume = s := by
  rw [State.resume, h.logErrs, h.ascmdResume, h.migResume, h.queueResume]

theorem drainNotices (h : Idle s) : s.drainNotices = s := by
  cases s
  cases h.notices
  rfl

theorem drainPkts (h : Idle s) : s.drainPkts = s := by simp [State.drainPkts, h.pkts]

theorem drainHandlers (h : Idle s) : s.drainHandlers = s := by
  cases s
  cases h.handlers
  rfl

/-- Of what passes with a step, only the passing of time does anything. -/
theorem tick_eq_pass (h : Idle s) : s.tick = s.pass := by
  have hp := h.pass
  rw [State.tick, h.countHeld, hp.settleRegs, hp.stream, hp.moveSome, hp.settleFaults, hp.bootTick, hp.unstall, hp.resume,
    hp.drainNotices, hp.drainPkts, hp.drainHandlers]

theorem tick_eq (h : Idle s) : s.tick = { s with
    ptime := s.timeNext
    clusters := tickCycles s.cyclesNow 0 s.clusters
    free := s.free + 1 } := h.tick_eq_pass.trans h.pass_eq

end Idle

/-! ### Cycles of a cluster (R181, R184) -/

theorem cyclesNow_of_not_counts {s : State} {c : Nat} (h : (s.cl c).counts = false) : s.cyclesNow c = Config.cycles c s.free := by
  simp [State.cyclesNow, h]

/-- A cluster that counts moves on by a cycle at most, and by none while its former or a split is due. -/
theorem cyclesNow_of_counts {s : State} {c : Nat} (h : (s.cl c).counts = true) : s.cyclesNow c ≤ 1
    ∧ (s.formDue c = true ∨ s.splitDue c = true → s.cyclesNow c = 0) := by
  have he : s.cyclesNow c = if s.formDue c || s.splitDue c then 0 else min (Config.cycles c s.free) 1 := by
    simp [State.cyclesNow, h]
  rw [he]
  refine ⟨?_, fun hd => if_pos (by simpa using hd)⟩
  split <;> omega

/-! ### A step -/

/-- A slot's turn: the instruction of the first candidate, or the next one's slot. -/
theorem step_of_slot {s u t w : State} {c slice id n : Nat} {others : List Nat} {x : Ctx} {head bs rest : List Byte} {i : Instr}
    (hturn : s.takeTurn = (.issue c slice, u)) (hc : c ≤ mcCluster) (hopen : u.tick.sliceOpen c slice = true)
    (hpassed : (u.tick.cl c).passedBy slice = false) (hmc : c = mcCluster → u.tick.mcBoundary = none)
    (hcand : u.tick.candidates c slice = id :: others) (hx : (awake u.tick c).ctxOf c id = some x) (halign : x.pc.toNat % 4 = 0)
    (hfetch : State.fetch { awake u.tick c with cur := some (c, id) } x.c x.team.space x.pc.toNat
      (min 8 (32 - x.pc.toNat % 32)) = (.ok head, t))
    (hn : n = fetchSize (head.headD 0)) (hroom : x.pc.toNat % 32 + n ≤ 32)
    (hbs : n = 8 ∧ bs = head ∧ w = t ∨ 8 < n ∧ t.fetch x.c x.team.space x.pc.toNat n = (.ok bs, w))
    (hdec : decodeBytes bs = .ok (i, rest)) :
    (others = [] → step s = exec i w)
      ∧ (∀ y : State, exec i w = .next y → y.wentOn (awake u.tick c) c id = true → step s = .next y)
      ∧ ∀ y : State, exec i w = .next y → y.wentOn (awake u.tick c) c id = false → others ≠ [] →
          step s = y.issueFirst c exec others := by
  subst hn
  have hslot : step s = (awake u.tick c).issueFirst c exec (id :: others) := by
    rw [step_issue hturn, issueSlot_open hc hopen hpassed hmc, hcand]
  have hrun : (awake u.tick c).issueCohort c id exec = exec i w := issueCohort_run hx (found_run halign hfetch hroom hbs hdec)
  rw [hslot]
  refine ⟨?_, fun y hy hon => issueFirst_wentOn others (hrun.trans hy) hon, fun y hy hon ho => issueFirst_next (hrun.trans hy) hon ho⟩
  rintro rfl
  exact (issueFirst_alone _ _ _ _).trans hrun

/-- What passes when nothing is at work. -/
theorem Idle.tick_passes {s : State} (h : Idle s) :
    s.tick.ptime = max s.ptime (min (s.ptime + Config.elapsed s.free) s.due) ∧ s.tick.free = s.free + 1
      ∧ (∀ c, c < s.clusters.length → s.tick.cl c = { s.cl c with cycle := (s.cl c).cycle + s.cyclesNow c })
      ∧ s.tick = { s with ptime := s.tick.ptime, free := s.tick.free, clusters := s.tick.clusters } := by
  rw [h.tick_eq]
  refine ⟨rfl, rfl, fun c hc => ?_, rfl⟩
  have := atD_tickCycles s.cyclesNow Cluster.reset 0 c s.clusters hc
  rwa [Nat.zero_add] at this

/-- Settles O5: a slot's turn runs what was fetched and decoded, an event's turn runs the event, and with nothing at work `tick` is
the passing of time alone. -/
theorem stepRunsDecoded : Obligations.StepRunsDecoded := by
  refine ⟨fun s u t w c slice id n others x head bs rest i hturn hc hopen hpassed hmc hcand => ?_, fun s u i =>
    ⟨fun hturn hi => step_event hturn hi, fun a r ha => takeTurn_cons ha, ?_⟩⟩
  · intro v r hx halign hfetch hn hroom hbs hdec
    exact step_of_slot hturn hc hopen hpassed hmc hcand hx halign hfetch hn hroom hbs hdec
  · intro steps notices pkts handlers stalled tasks xfers boot errs ascmd mig queues clusters
    have hidle : Idle s :=
      { steps, notices, pkts, handlers, stalled, tasks, xfers, boot, errs, ascmd, mig, queues, clusters }
    obtain ⟨hptime, hfree, hcl, hrest⟩ := hidle.tick_passes
    exact ⟨hptime, hfree, hcl, fun _ => cyclesNow_of_not_counts, fun _ => cyclesNow_of_counts, hrest⟩

end Sys2Proof.Proofs.StepTurn
end

section
/-! What the package does at home, in its tables of translations and in its rings leaves the work in hand as it is: package time,
the tasks and their numbering, the steps and the timeline counters. -/
namespace Sys2Proof.Proofs.WorkInHand
open Sys2Proof.Machine

/-- The work in hand: package time, the graph window with its next SEQ (R65), the step table (R90) and the counters (R405). -/
def work (s : State) : Nat × List Task × Nat × List Step × Tab Timeline := (s.ptime, s.tasks, s.seqNext, s.steps, s.tl)

theorem ptime_of_work {s t : State} (h : work t = work s) : t.ptime = s.ptime := congrArg (·.1) h
theorem tasks_of_work {s t : State} (h : work t = work s) : t.tasks = s.tasks := congrArg (·.2.1) h
theorem seqNext_of_work {s t : State} (h : work t = work s) : t.seqNext = s.seqNext := congrArg (·.2.2.1) h
theorem steps_of_work {s t : State} (h : work t = work s) : t.steps = s.steps := congrArg (·.2.2.2.1) h
theorem tl_of_work {s t : State} (h : work t = work s) : t.tl = s.tl := congrArg (·.2.2.2.2) h

theorem task?_of_work {s t : State} (h : work t = work s) (seq : Nat) : t.task? seq = s.task? seq := by
  rw [State.task?, tasks_of_work h, State.task?]

theorem timeline_of_work {s t : State} (h : work t = work s) (key : Nat) : t.timeline key = s.timeline key := by
  rw [State.timeline, tl_of_work h, State.timeline]

/-- In a list whose keys are all different a key names one element; here because the package's files import no library. -/
theorem eq_of_key_eq {α β : Type} {key : α → β} {l : List α} (hn : (l.map key).Nodup) {x y : α} (hx : x ∈ l) (hy : y ∈ l)
    (h : key x = key y) : x = y := by
  induction l with
  | nil => cases hx
  | cons z l ih =>
    rw [List.map_cons, List.nodup_cons] at hn
    obtain ⟨hz, hl⟩ := hn
    rcases List.mem_cons.1 hx with rfl | hxl <;> rcases List.mem_cons.1 hy with rfl | hyl
    · rfl
    · exact absurd (List.mem_map.2 ⟨y, hyl, h.symm⟩) hz
    · exact absurd (List.mem_map.2 ⟨x, hxl, h⟩) hz
    · exact ih hl hxl hyl

/-- A chain of updates that each leave the work in hand. -/
theorem work_foldl {α : Type} {g : State → α → State} (hg : ∀ s a, work (g s a) = work s) (l : List α) (s : State) :
    work (l.foldl g s) = work s := foldl_eq work g hg l s

/-! ### L2 and HBM (R126, R145) -/

theorem work_l2Drop (s : State) (gone : Nat → Bool) : work (s.l2Drop gone) = work s := by
  unfold State.l2Drop
  dsimp only
  split <;> rfl

theorem work_l2Trim (s : State) (line : Nat) : work (s.l2Trim line) = work s := by
  unfold State.l2Trim
  dsimp only
  split
  · rfl
  · split
    · rfl
    · exact work_l2Drop _ _

theorem work_hbmRead (s : State) (n : Nat) : work (s.hbmRead n) = work s := by
  unfold State.hbmRead
  split
  · rfl
  · dsimp only
    split <;> split <;> rfl

theorem work_l2Read (s : State) (n : Nat) : work (s.l2Read n) = work s := by
  unfold State.l2Read
  split
  · rfl
  · exact (work_l2Trim _ _).trans (work_hbmRead s n)

theorem work_l2Write (s : State) (n : Nat) (whole : Bool) : work (s.l2Write n whole) = work s := by
  unfold State.l2Write
  split
  · rfl
  · refine (work_l2Trim _ _).trans (show work (if whole then s else s.l2Read n) = work s from ?_)
    split
    · rfl
    · exact work_l2Read s n

/-! ### Home memory (R135, R138, R142) -/

theorem work_putRaw (s : State) (cells : List (Nat × Byte)) : work (s.putRaw cells) = work s := by
  have hl2 := work_foldl (fun s n => work_l2Write s n (coversSector (cells.map (·.1)) n)) (sectorsOf (cells.map (·.1))) s
  unfold State.putRaw
  dsimp only
  generalize List.foldl _ s _ = u at hl2 ⊢
  exact hl2

theorem work_mergeOne (s : State) (p : Partial) : work (s.mergeOne p) = work s := by
  unfold State.mergeOne
  dsimp only
  split
  · exact work_l2Read _ _
  · exact (work_putRaw _ _).trans (work_l2Read _ _)

theorem work_mergeLine (s : State) (line : Nat) (die : Option Nat) : work (s.mergeLine line die) = work s := by
  cases die <;> simp only [State.mergeLine] <;> split
  · rfl
  · exact work_foldl work_mergeOne _ _
  · rfl
  · exact work_foldl work_mergeOne _ _

theorem work_touch (s : State) (pas : List Nat) : work (s.touch pas) = work s := by
  unfold State.touch
  split
  · rfl
  · exact work_foldl (fun s l => work_mergeLine s l none) _ s

theorem work_homePut (s : State) (cells : List (Nat × Byte)) : work (s.homePut cells) = work s :=
  (work_putRaw _ _).trans (work_touch _ _)

theorem work_recall (s : State) (by' : Option Nat) (pas : List Nat) : work (s.recall by' pas) = work s := by
  unfold State.recall
  split
  · rfl
  · exact work_foldl (fun s l => work_mergeLine s l none) _ _

theorem work_touchBy (s : State) (by' : Option Nat) (pas : List Nat) : work (s.touchBy by' pas) = work s :=
  (work_touch _ _).trans (work_recall _ _ _)

theorem work_homePutBy (s : State) (cells : List (Nat × Byte)) : work (s.homePutBy cells) = work s :=
  (work_homePut _ _).trans (work_recall _ _ _)

theorem work_homeWrite (s : State) (cells : List (Nat × Byte)) : work (s.homeWrite cells) = work s := by
  unfold State.homeWrite
  dsimp only
  split <;> exact work_homePutBy _ _

/-! ### Registers, interrupts, rings and the error log (R41, R47, R53, R145) -/

theorem work_setReg (s : State) (off : Nat) (v : DWord) : work (s.setReg off v) = work s := rfl

theorem work_countSat (s : State) (off n : Nat) : work (s.countSat off n) = work s := work_setReg _ _ _

theorem work_mcRaise (s : State) (n : Nat) : work (s.mcRaise n) = work s := work_setReg _ _ _

theorem work_raiseMsi (s : State) (fn : Bool) (vec : Nat) : work (s.raiseMsi fn vec) = work s := rfl

theorem work_ringPut (s : State) (base size : Nat) (ok phase : Bool) (tail head lost : Nat) (w : List Nat) :
    work (s.ringPut base size ok phase tail head lost w).2 = work s := by
  unfold State.ringPut
  dsimp only
  split
  · exact work_countSat _ _ _
  · exact (work_setReg _ _ _).trans (work_homeWrite s _)

theorem work_errLog (s : State) (cls die unit index count addr detail : Nat) :
    work (s.errLog cls die unit index count addr detail) = work s := work_ringPut _ _ _ _ _ _ _ _ _

theorem work_errMemory (s : State) (pa detail : Nat) : work (s.errMemory pa detail) = work s :=
  (work_mcRaise _ _).trans (work_errLog _ _ _ _ _ _ _ _)

theorem work_errCorrected (s : State) (die unit index addr detail : Nat) :
    work (s.errCorrected die unit index addr detail) = work s := by
  refine (work_mcRaise _ _).trans ?_
  split
  · exact work_homeWrite s _
  · exact work_errLog _ _ _ _ _ _ _ _

theorem work_logErrs (s : State) (mine : Nat → Bool) : work (s.logErrs mine) = work s := by
  unfold State.logErrs
  split
  · rfl
  · refine work_foldl (fun s x => ?_) _ _
    dsimp only
    split
    · split
      · rfl
      · exact work_errMemory _ _ _
    · exact work_errCorrected _ _ _ _ _ _

theorem work_demandRead (s : State) (pas : List Nat) : work (s.demandRead pas).2 = work s :=
  (work_logErrs _ _).trans (work_foldl work_l2Read (sectorsOf pas) s)

theorem work_demandHome (s : State) (pas : List Nat) : work (s.demandHome pas) = work s :=
  (work_foldl (fun s pa => work_errMemory s pa _) _ _).trans (work_demandRead s pas)

theorem work_homeVal (s : State) (pa n : Nat) : work (s.homeVal pa n).2 = work s := work_touch _ _

theorem work_postNow (s : State) (q : Option Nat) (src code info0 info1 : Nat) (intr : Bool) :
    work (s.postNow q src code info0 info1 intr) = work s := by
  cases q with
  | none => exact work_errLog _ _ _ _ _ _ _ _
  | some q =>
    have hread (d : Nat) : work (((s.demandHome [d]).homeVal d 8).2.homeVal (d + 8) 8).2 = work s :=
      (work_homeVal _ _ _).trans ((work_homeVal _ _ _).trans (work_demandHome _ _))
    unfold State.postNow
    dsimp only
    split
    · exact (work_raiseMsi _ _ _).trans ((work_ringPut _ _ _ _ _ _ _ _ _).trans (hread _))
    · exact (work_ringPut _ _ _ _ _ _ _ _ _).trans (hread _)

theorem work_postEvent (s : State) (q : Option Nat) (src code info0 info1 : Nat) (intr : Bool) :
    work (s.postEvent q src code info0 info1 intr) = work s := by
  unfold State.postEvent State.postAfter
  split
  · rfl
  · exact work_postNow _ _ _ _ _ _ _

/-! ### Translation (R106 to R116) -/

theorem work_tlbPut (s : State) (e : TlbEntry) (va : Nat) : work (s.tlbPut e va) = work s := by
  unfold State.tlbPut
  dsimp only
  split <;> rfl

theorem work_tlbLook (s : State) (agent asid va : Nat) : work (s.tlbLook agent asid va).2 = work s := by
  unfold State.tlbLook
  split
  · rfl
  · split
    · rfl
    · split
      · exact work_tlbPut _ _ _
      · rfl

theorem work_orLeaf (s : State) (e : TlbEntry) (va bit : Nat) : work (s.orLeaf e va bit) = work s := by
  unfold State.orLeaf
  dsimp only
  by_cases hhas : (if bit = 8 then bitOf e.acc (e.leafOf va).2 else bitOf e.dirty (e.leafOf va).2) = true
  · rw [if_pos hhas]
  · rw [if_neg hhas]
    refine (show work _ = work (if bitOf (leVal (s.homeBytes (e.leafOf va).1 8)) bit then s
      else s.homeWriteVal (e.leafOf va).1 8 (leVal (s.homeBytes (e.leafOf va).1 8) + 2 ^ bit)) from rfl).trans ?_
    split
    · rfl
    · exact work_homeWrite s _

theorem work_tlbFill (s : State) (agent asid va : Nat) (w : Walk) : work (s.tlbFill agent asid va w) = work s := by
  cases w with
  | leaf bits pte loc acc dirty =>
    refine (work_orLeaf _ _ _ _).trans ?_
    split
    · exact work_tlbPut _ _ _
    · exact (work_tlbPut _ _ _).trans (work_tlbPut _ _ _)
  | absent r => rfl
  | wait => rfl
  | bad => rfl

theorem work_touchWalk (s : State) (asid va : Nat) : work (s.touchWalk asid va) = work s := by
  refine work_foldl (fun s k => ?_) _ s
  split
  · exact (work_touchBy _ _ _).trans (work_demandHome _ _)
  · rfl

theorem work_xlate (s : State) (agent asid va kind : Nat) : work (s.xlate agent asid va kind).2 = work s := by
  have hlook := work_tlbLook s agent asid va
  unfold State.xlate
  split
  · rfl
  · generalize s.tlbLook agent asid va = look at hlook
    obtain ⟨found, u⟩ := look
    cases found with
    | some e =>
      dsimp only
      split
      · split
        · exact hlook
        · exact (work_orLeaf _ _ _ _).trans hlook
      · exact hlook
    | none =>
      have hwalk : work (u.touchWalk asid va) = work s := (work_touchWalk _ _ _).trans hlook
      dsimp only
      split
      · exact hwalk
      · exact hwalk
      · exact hwalk
      · split
        · exact hwalk
        · exact (work_tlbFill _ _ _ _ _).trans hwalk

theorem work_markDirty (s : State) (agent asid va : Nat) : work (s.markDirty agent asid va) = work s := by
  have hlook := work_tlbLook s agent asid va
  unfold State.markDirty
  generalize s.tlbLook agent asid va = look at hlook
  obtain ⟨found, u⟩ := look
  cases found with
  | some e => exact (work_orLeaf _ _ _ _).trans hlook
  | none =>
    dsimp only
    split
    · split
      · exact (work_orLeaf _ _ _ _).trans ((work_tlbFill _ _ _ _ _).trans hlook)
      · exact (work_tlbFill _ _ _ _ _).trans hlook
    · exact hlook

theorem work_postReplay (s : State) (kind cl asid va : Nat) : work (s.postReplay kind cl asid va) = work s := by
  unfold State.postReplay
  dsimp only
  split
  · rfl
  · split <;> exact work_ringPut s _ _ _ _ _ _ _ _

theorem work_engineXlate (s : State) (agent asid va n kind : Nat) : work (s.engineXlate agent asid va n kind).2.2 = work s := by
  refine foldl_ind (fun acc : Xl × Nat × State => work acc.2.2 = work s) _ (fun acc v h => ?_) _ _ rfl
  have hx : work (acc.2.2.xlate agent asid v kind).2 = work s := (work_xlate _ _ _ _ _).trans h
  dsimp only
  split
  · split <;> exact hx
  · exact h

/-! ### The front end's writes (R44, R62) -/

theorem work_fePut (s : State) (asid va : Nat) (bs : List Byte) : work (s.fePut asid va bs).2 = work s := by
  have hx := work_engineXlate s frontEnd asid va bs.length 5
  unfold State.fePut
  generalize s.engineXlate frontEnd asid va bs.length 5 = r at hx
  obtain ⟨x, at', u⟩ := r
  cases x with
  | ok pa cls =>
    refine foldl_ind (fun acc : Xl × State => work acc.2 = work s) _ (fun acc b h => ?_) _ _ hx
    have hb := work_xlate acc.2 frontEnd asid (va + b.1) 5
    generalize acc.2.xlate frontEnd asid (va + b.1) 5 = y at hb
    obtain ⟨y, w⟩ := y
    cases y with
    | ok pa cls => exact (work_homePutBy _ _).trans ((work_markDirty _ _ _ _).trans (hb.trans h))
    | wait p => exact hb.trans h
    | page => exact hb.trans h
    | access => exact hb.trans h
  | wait p => exact hx
  | page => exact hx
  | access => exact hx

theorem work_noticeBack (s : State) (n : Notice) : work (s.noticeBack n).2 = work s := by
  have hword := work_fePut s n.asid (n.tcba + 38) [BitVec.ofNat 8 n.cause, BitVec.ofNat 8 n.state]
  unfold State.noticeBack
  split
  · rfl
  · dsimp only
    generalize s.fePut n.asid (n.tcba + 38) [BitVec.ofNat 8 n.cause, BitVec.ofNat 8 n.state] = r at hword ⊢
    obtain ⟨x, u⟩ := r
    split
    · dsimp only
      split
      · exact (work_postReplay _ _ _ _ _).trans hword
      · exact hword
    · dsimp only
      split
      · exact (work_fePut _ _ _ _).trans hword
      · exact (work_fePut _ _ _ _).trans ((work_fePut _ _ _ _).trans hword)

theorem work_noticeOne (s : State) (n : Notice) : work (s.noticeOne n) = work s := by
  have hback := work_noticeBack s n
  unfold State.noticeOne
  dsimp only
  split
  · rfl
  · generalize s.noticeBack n = r at hback
    obtain ⟨done, u⟩ := r
    dsimp only
    split
    · exact hback
    · split
      · exact hback
      · generalize (if n.back then [] else n.seqs) = seqs
        split
        · exact hback
        · exact (work_postNow _ _ _ _ _ _ _).trans hback

theorem work_notify (s : State) (n : Notice) : work (s.notify n) = work s := work_foldl work_noticeOne _ _

theorem work_reportTask (s : State) (seq : Nat) (event : Option (Nat × Bool)) : work (s.reportTask seq event) = work s := by
  unfold State.reportTask
  split
  · rfl
  · dsimp only
    split
    · split
      · exact work_postEvent _ _ _ _ _ _ _
      · rfl
    · exact work_notify _ _

end Sys2Proof.Proofs.WorkInHand
end

section
/-! Faults of tasks (R80, R268, R354): the team that faults ends at once, its task once the nanosecond of the fault is over. -/
namespace Sys2Proof.Proofs.TaskFaults
open Sys2Proof.Machine
open Sys2Proof.Proofs.WorkInHand

/-! ### Tasks in the window -/

theorem task?_modTask_self {s : State} {seq : Nat} {k : Task} (h : s.task? seq = some k) {g : Task → Task}
    (hg : ∀ t, (g t).seq = t.seq) : (s.modTask seq g).task? seq = some (g k) := by
  have hk : k.seq = seq := by simpa using List.find?_some h
  have hf : (fun t : Task => t.seq == seq) ∘ (fun t => if t.seq = seq then g t else t) = fun t => t.seq == seq := by
    funext t
    by_cases ht : t.seq = seq <;> simp [ht, hg]
  rw [State.task?] at h
  rw [State.task?, State.modTask, List.find?_map, hf, h]
  simp [hk]

theorem task?_modTask_ne (s : State) {seq q : Nat} (hq : q ≠ seq) {g : Task → Task} (hg : ∀ t, (g t).seq = t.seq) :
    (s.modTask seq g).task? q = s.task? q := by
  have hf : (fun t : Task => t.seq == q) ∘ (fun t => if t.seq = seq then g t else t) = fun t => t.seq == q := by
    funext t
    by_cases ht : t.seq = seq <;> simp [ht, hg]
  rw [State.task?, State.modTask, List.find?_map, hf]
  change Option.map _ (s.task? q) = s.task? q
  cases h : s.task? q with
  | none => rfl
  | some k =>
    have hk : k.seq = q := by simpa using List.find?_some h
    simp [hk, hq]

/-- With no SEQ twice in the window, each of its tasks is found under its own. -/
theorem task?_of_nodup {s : State} (hn : (s.tasks.map (·.seq)).Nodup) {k : Task} (hk : k ∈ s.tasks) :
    s.task? k.seq = some k := by
  have hfound : (s.task? k.seq).isSome := by
    simpa [State.task?] using ⟨k, hk, rfl⟩
  obtain ⟨x, hx⟩ := Option.isSome_iff_exists.1 hfound
  have hseq : x.seq = k.seq := by simpa using List.find?_some hx
  rw [hx, eq_of_key_eq hn (List.mem_of_find?_eq_some hx) hk hseq]

/-! ### Teams that end (R80, R248) -/

/-- A team whose contexts are discarded. -/
def ended (t : Team) : Team := { t with ended := true, fibres := t.fibres.map fun f => { f with live := false, wait := .none } }

theorem ended_ended (t : Team) : (ended t).ended = true := rfl

theorem ended_dead (t : Team) : ∀ f ∈ (ended t).fibres, f.live = false := fun f hf => by
  obtain ⟨_, _, rfl⟩ := List.mem_map.1 hf
  rfl

theorem ended_idem (t : Team) : ended (ended t) = ended t := by
  simp [ended]

/-- A cluster without the cohorts, the outstanding results and the phase operations of a slot's team. -/
def forget (slot : Nat) (k : Cluster) : Cluster := { k with
  cohorts := k.cohorts.filter fun h => h.team != slot
  pend := k.pend.filter fun p => p.kind == .pref || p.slot != slot
  phases := k.phases.filter fun p => p.slot != slot }

theorem discardTeam_eq (s : State) (c slot : Nat) : s.discardTeam c slot = (s.modCl c (forget slot)).modTeam c slot ended := rfl

theorem team?_discardTeam (s : State) (c slot d j : Nat) :
    (s.discardTeam c slot).team? d j = (s.team? d j).map fun t => if (d, j) = (c, slot) then ended t else t := by
  have hforget : (s.modCl c (forget slot)).team? d j = s.team? d j := State.team?_modCl _ _ _ _ _ fun _ => rfl
  rw [discardTeam_eq]
  by_cases hd : d = c
  · subst hd
    by_cases hj : j = slot
    · subst hj
      simp [State.team?_modTeam_self _ _ _ ended fun _ => rfl, hforget]
    · simp [State.team?_modTeam_ne _ _ ended (fun _ => rfl) hj, hforget, hj]
  · simp [State.team?_modTeam_cl_ne _ _ _ ended hd, hforget, hd]

/-- Some teams discarded, by cluster and slot. -/
def discardAll (s : State) (l : List (Nat × Nat)) : State := l.foldl (fun s p => s.discardTeam p.1 p.2) s

theorem discardAll_keeps {γ : Type} (q : State → γ) (hq : ∀ (s : State) c slot, q (s.discardTeam c slot) = q s) (s : State)
    (l : List (Nat × Nat)) : q (discardAll s l) = q s :=
  foldl_eq q (fun (s : State) (p : Nat × Nat) => s.discardTeam p.1 p.2) (fun s p => hq s p.1 p.2) l s

theorem work_discardAll (s : State) (l : List (Nat × Nat)) : work (discardAll s l) = work s :=
  discardAll_keeps work (fun _ _ _ => rfl) s l

theorem saved_discardAll (s : State) (l : List (Nat × Nat)) : (discardAll s l).saved = s.saved :=
  discardAll_keeps (·.saved) (fun _ _ _ => rfl) s l

theorem mem_discardAll (s : State) (l : List (Nat × Nat)) : (discardAll s l).mem = s.mem :=
  discardAll_keeps (·.mem) (fun _ _ _ => rfl) s l

theorem team?_discardAll (l : List (Nat × Nat)) (s : State) (c j : Nat) :
    (discardAll s l).team? c j = (s.team? c j).map fun t => if (c, j) ∈ l then ended t else t := by
  induction l generalizing s with
  | nil => simp [discardAll]
  | cons p l ih =>
    rw [show discardAll s (p :: l) = discardAll (s.discardTeam p.1 p.2) l from rfl, ih, team?_discardTeam, Option.map_map]
    congr 1
    funext t
    by_cases hp : (c, j) = p <;> by_cases hl : (c, j) ∈ l <;> simp [hp, hl, ended_idem]

/-! ### A fault recorded (R80) -/

/-- The fault of a task that is recorded: the first one, and of those of one nanosecond the lowest team index's. -/
def firstFault (old : Option (Nat × Nat × Nat)) (cause index now : Nat) : Nat × Nat × Nat :=
  match old with
  | none => (cause, index, now)
  | some (c, m, a) => if a = now ∧ index < m then (cause, index, a) else (c, m, a)

/-- The resident teams of a task that bear an index. -/
def teamsNamed (s : State) (seq index : Nat) : List (Nat × Nat) :=
  (s.teamsOf seq).filter fun p => match s.team? p.1 p.2 with | some x => x.index == index | none => false

theorem mem_teamsNamed {s : State} {seq index c slot : Nat} {y : Team} (hm : (c, slot) ∈ s.teamsOf seq)
    (hy : s.team? c slot = some y) : (c, slot) ∈ teamsNamed s seq index ↔ y.index = index := by
  simp [teamsNamed, hm, hy]

theorem faultTask_past {s : State} {seq : Nat} {k : Task} (hk : s.task? seq = some k) (hr : k.state ≠ .running)
    (hy : k.state ≠ .ready) (cause index : Nat) : s.faultTask seq cause index = s := by
  simp [State.faultTask, hk, hr, hy]

theorem faultTask_eq {s : State} {seq : Nat} {k : Task} (hk : s.task? seq = some k)
    (hs : k.state = .running ∨ k.state = .ready) (cause index : Nat) : s.faultTask seq cause index
      = (discardAll s (teamsNamed s seq index)).modTask seq fun t =>
          { t with fault := some (firstFault k.fault cause index s.ptime) } := by
  have hlive : ¬(k.state ≠ .running ∧ k.state ≠ .ready) := by
    rcases hs with h | h <;> simp [h]
  have hp : (discardAll s (teamsNamed s seq index)).ptime = s.ptime := ptime_of_work (work_discardAll _ _)
  simp only [State.faultTask, hk, if_neg hlive]
  change State.modTask (discardAll s (teamsNamed s seq index)) seq _ = _
  rw [← hp]
  cases k.fault <;> rfl

/-- What a fault of a READY or RUNNING task does at once: its record is kept, and the team that faulted ends. -/
theorem faultTask_effect {s : State} {seq : Nat} {k : Task} (hk : s.task? seq = some k)
    (hs : k.state = .running ∨ k.state = .ready) (cause index : Nat) :
    let v := s.faultTask seq cause index
    v.task? seq = some { k with fault := some (firstFault k.fault cause index s.ptime) }
      ∧ v.saved = s.saved ∧ v.mem = s.mem
      ∧ ∀ c slot y tm, (c, slot) ∈ s.teamsOf seq → s.team? c slot = some y → v.team? c slot = some tm →
          if y.index = index then tm.ended = true ∧ ∀ fb ∈ tm.fibres, fb.live = false else tm = y := by
  rw [faultTask_eq hk hs]
  have htask : (discardAll s (teamsNamed s seq index)).task? seq = some k := (task?_of_work (work_discardAll _ _) seq).trans hk
  refine ⟨task?_modTask_self htask fun _ => rfl, saved_discardAll _ _, mem_discardAll _ _, fun c slot y tm hmem hy htm => ?_⟩
  have hend : tm = if (c, slot) ∈ teamsNamed s seq index then ended y else y := by
    change (discardAll s (teamsNamed s seq index)).team? c slot = some tm at htm
    rw [team?_discardAll, hy] at htm
    exact (Option.some.inj htm).symm
  rw [hend]
  by_cases hi : y.index = index
  · rw [if_pos hi, if_pos ((mem_teamsNamed hmem hy).2 hi)]
    exact ⟨ended_ended y, ended_dead y⟩
  · rw [if_neg hi, if_neg fun h => hi ((mem_teamsNamed hmem hy).1 h)]

/-! ### A task that becomes FAULTED (R80, items 1 to 3) -/

/-- A FAULTED task. -/
def faulted (k : Task) (cause index : Nat) : Task := { k with
  state := .faulted
  fault := none
  fcause := BitVec.ofNat 8 cause
  fteam := BitVec.ofNat 16 index }

/-- A task FAULTED and its resident and saved teams discarded, before its record. -/
def condemn (s : State) (seq cause index : Nat) : State :=
  State.modTask { discardAll s (s.teamsOf seq) with saved := s.saved.filter fun v => v.team.seq != seq } seq
    fun t => faulted t cause index

theorem faultNow_past {s : State} {seq : Nat} {k : Task} (hk : s.task? seq = some k) (hr : k.state ≠ .running)
    (hy : k.state ≠ .ready) (cause index : Nat) : s.faultNow seq cause index = s := by
  simp [State.faultNow, hk, hr, hy]

theorem faultNow_eq {s : State} {seq : Nat} {k : Task} (hk : s.task? seq = some k)
    (hs : k.state = .running ∨ k.state = .ready) (cause index : Nat) :
    s.faultNow seq cause index = (condemn s seq cause index).reportTask seq (some (0x11, false)) := by
  have hlive : ¬(k.state ≠ .running ∧ k.state ≠ .ready) := by
    rcases hs with h | h <;> simp [h]
  simp only [State.faultNow, hk, if_neg hlive]
  rw [condemn, ← saved_discardAll s (s.teamsOf seq)]
  rfl

theorem task?_condemn_self {s : State} {seq : Nat} {k : Task} (hk : s.task? seq = some k) (cause index : Nat) :
    (condemn s seq cause index).task? seq = some (faulted k cause index) :=
  task?_modTask_self ((task?_of_work (work_discardAll s (s.teamsOf seq)) seq).trans hk) fun _ => rfl

theorem task?_condemn_ne (s : State) {seq q : Nat} (hq : q ≠ seq) (cause index : Nat) :
    (condemn s seq cause index).task? q = s.task? q :=
  (task?_modTask_ne _ hq (g := fun t => faulted t cause index) fun _ => rfl).trans
    (task?_of_work (work_discardAll s (s.teamsOf seq)) q)

theorem ptime_condemn (s : State) (seq cause index : Nat) : (condemn s seq cause index).ptime = s.ptime :=
  show (discardAll s (s.teamsOf seq)).ptime = s.ptime from ptime_of_work (work_discardAll _ _)

theorem saved_condemn (s : State) (seq cause index : Nat) : ∀ m ∈ (condemn s seq cause index).saved, m.team.seq ≠ seq :=
  fun m hm => by simpa using (List.mem_filter.1 hm).2

theorem team?_condemn {s : State} {seq cause index c slot : Nat} {tm : Team} (hm : (c, slot) ∈ s.teamsOf seq)
    (ht : (condemn s seq cause index).team? c slot = some tm) : tm.ended = true ∧ ∀ fb ∈ tm.fibres, fb.live = false := by
  change (discardAll s (s.teamsOf seq)).team? c slot = some tm at ht
  rw [team?_discardAll] at ht
  obtain ⟨y, _, rfl⟩ := Option.map_eq_some_iff.1 ht
  rw [if_pos hm]
  exact ⟨ended_ended y, ended_dead y⟩

/-- What faulting a task now does. -/
theorem faultNow_effect {s : State} {seq : Nat} {k : Task} (hk : s.task? seq = some k)
    (hs : k.state = .running ∨ k.state = .ready) (cause index : Nat) : ∃ v : State,
    s.faultNow seq cause index = v.reportTask seq (some (0x11, false))
      ∧ v.task? seq = some (faulted k cause index)
      ∧ (∀ m ∈ v.saved, m.team.seq ≠ seq) ∧ v.mem = s.mem
      ∧ ∀ c slot tm, (c, slot) ∈ s.teamsOf seq → v.team? c slot = some tm →
          tm.ended = true ∧ ∀ fb ∈ tm.fibres, fb.live = false :=
  ⟨condemn s seq cause index, faultNow_eq hk hs cause index, task?_condemn_self hk cause index, saved_condemn s seq cause index,
    mem_discardAll s _, fun _ _ _ hm ht => team?_condemn hm ht⟩

/-- A fault leaves package time and every other task. -/
theorem faultNow_others (s : State) (seq cause index : Nat) : (s.faultNow seq cause index).ptime = s.ptime
    ∧ ∀ q, q ≠ seq → (s.faultNow seq cause index).task? q = s.task? q := by
  cases hk : s.task? seq with
  | none =>
    have hid : s.faultNow seq cause index = s := by simp only [State.faultNow, hk]
    exact hid.symm ▸ ⟨rfl, fun _ _ => rfl⟩
  | some k =>
    by_cases hs : k.state = .running ∨ k.state = .ready
    · rw [faultNow_eq hk hs]
      have hreport := work_reportTask (condemn s seq cause index) seq (some (0x11, false))
      exact ⟨(ptime_of_work hreport).trans (ptime_condemn s seq cause index),
        fun q hq => (task?_of_work hreport q).trans (task?_condemn_ne s hq cause index)⟩
    · rw [not_or] at hs
      rw [faultNow_past hk hs.1 hs.2]
      exact ⟨rfl, fun _ _ => rfl⟩

theorem task?_faultNow_self {s : State} {seq : Nat} {k : Task} (hk : s.task? seq = some k) (cause index : Nat) :
    (s.faultNow seq cause index).task? seq
      = some (if k.state = .running ∨ k.state = .ready then faulted k cause index else k) := by
  by_cases hs : k.state = .running ∨ k.state = .ready
  · rw [faultNow_eq hk hs, task?_of_work (work_reportTask _ _ _), task?_condemn_self hk, if_pos hs]
  · rw [if_neg hs]
    rw [not_or] at hs
    rw [faultNow_past hk hs.1 hs.2, hk]

/-! ### The end of a nanosecond (R80) -/

/-- A task FAULTED if its recorded fault lies in an earlier nanosecond. -/
def settleFault (s : State) (t : Task) : State :=
  match t.fault with
  | some (cause, index, at') => if at' < s.ptime then s.faultNow t.seq cause index else s
  | none => s

theorem settleFaults_eq (s : State) : s.settleFaults = s.tasks.foldl settleFault s := rfl

/-- A task as the end of the nanoseconds before `now` leaves it. -/
def settled (k : Task) (now : Nat) : Task :=
  match k.fault with
  | none => k
  | some (c, m, a) => if a < now ∧ (k.state = .running ∨ k.state = .ready) then faulted k c m else k

theorem settleFault_others (s : State) (t : Task) : (settleFault s t).ptime = s.ptime
    ∧ ∀ q, q ≠ t.seq → (settleFault s t).task? q = s.task? q := by
  unfold settleFault
  split
  · split
    · exact faultNow_others _ _ _ _
    · exact ⟨rfl, fun _ _ => rfl⟩
  · exact ⟨rfl, fun _ _ => rfl⟩

theorem task?_settleFault_self {s : State} {k : Task} (hk : s.task? k.seq = some k) :
    (settleFault s k).task? k.seq = some (settled k s.ptime) := by
  unfold settleFault settled
  split
  · rename_i c m a hf
    by_cases ha : a < s.ptime
    · rw [if_pos ha, task?_faultNow_self hk]
      simp only [hf, ha, true_and]
    · rw [if_neg ha, hk]
      simp only [hf, ha, false_and, if_false]
  · rename_i hf
    simp only [hk, hf]

/-- Faults of other tasks, one after the other. -/
theorem settleFault_foldl_others {l : List Task} {q : Nat} (hq : q ∉ l.map (·.seq)) (s : State) :
    (l.foldl settleFault s).task? q = s.task? q := by
  induction l generalizing s with
  | nil => rfl
  | cons t l ih =>
    obtain ⟨ht, hl⟩ := not_or.1 (mt List.mem_cons.2 hq)
    rw [List.foldl_cons, ih hl, (settleFault_others s t).2 q ht]

theorem task?_settleFault_foldl {l : List Task} (hn : (l.map (·.seq)).Nodup) {k : Task} (hk : k ∈ l) {s : State}
    (hs : s.task? k.seq = some k) : (l.foldl settleFault s).task? k.seq = some (settled k s.ptime) := by
  induction l generalizing s with
  | nil => cases hk
  | cons t l ih =>
    obtain ⟨hnot, hn⟩ := List.nodup_cons.1 hn
    rw [List.foldl_cons]
    rcases List.mem_cons.1 hk with rfl | hk
    · rw [settleFault_foldl_others hnot, task?_settleFault_self hs]
    · have hne : k.seq ≠ t.seq := fun h => hnot (List.mem_map.2 ⟨k, hk, h⟩)
      obtain ⟨hp, ho⟩ := settleFault_others s t
      rw [ih hn hk ((ho _ hne).trans hs), hp]

theorem task?_settleFaults {s : State} (hn : (s.tasks.map (·.seq)).Nodup) {k : Task} (hk : k ∈ s.tasks) :
    s.settleFaults.task? k.seq = some (settled k s.ptime) := by
  rw [settleFaults_eq]
  exact task?_settleFault_foldl hn hk (task?_of_nodup hn hk)

/-! ### A trap that cannot be handled (R268, R354) -/

section
variable {t u : State} {x : Ctx} {q : Trap} (iw : Code) (hx : x.isMc = false)
include hx

theorem takeTrap_unhandled (h : x.team.trapv = 0 ∨ ∃ p ∈ q.hits, (x.fib p.1).tm = true) :
    t.takeTrap x iw q = t.faultTask x.team.seq q.cause x.team.index := by
  have hany : x.team.trapv = 0 ∨ (q.hits.any fun p => (x.fib p.1).tm) = true := h.imp_right List.any_eq_true.2
  rw [State.takeTrap, hx, if_neg Bool.false_ne_true, if_pos hany]

theorem takeTrap_handled (hv : x.team.trapv ≠ 0) (ht : ∀ p ∈ q.hits, (x.fib p.1).tm = false) :
    (t.padCheck x.c x.team.space x.team.trapv.toNat 4 x.team.etag.toNat = (.fail, u) →
        t.takeTrap x iw q = u.faultTask x.team.seq 0x04 x.team.index)
      ∧ (t.padCheck x.c x.team.space x.team.trapv.toNat 4 x.team.etag.toNat = (.wait, u) → t.takeTrap x iw q = u) := by
  have hany : ¬(x.team.trapv = 0 ∨ (q.hits.any fun p => (x.fib p.1).tm) = true) := by
    rw [not_or, List.any_eq_true]
    exact ⟨hv, fun ⟨p, hp, htm⟩ => Bool.false_ne_true ((ht p hp).symm.trans htm)⟩
  constructor <;> intro hpad <;> rw [State.takeTrap, hx, if_neg Bool.false_ne_true, if_neg hany, hpad]

end

/-- Settles O14: a trap that no handler takes is a fault of its task, which stands beside the task until its nanosecond is over. -/
theorem trapFaults : Obligations.TrapFaults := fun t u x iw q hx => by
  refine ⟨takeTrap_unhandled iw hx, fun hv ht => takeTrap_handled iw hx hv ht,
    fun seq cause index k hk => ⟨?_, fun hs => ⟨?_, ?_⟩⟩, ?_⟩
  · exact fun hr hy => ⟨faultTask_past hk hr hy cause index, faultNow_past hk hr hy cause index⟩
  · exact faultTask_effect hk hs cause index
  · exact faultNow_effect hk hs cause index
  · intro hn k hk
    exact task?_settleFaults hn hk

end Sys2Proof.Proofs.TaskFaults
end

section
/-! Tasks that device code launches and the steps it declares (R78, R90, R91, R417 to R419). -/
namespace Sys2Proof.Proofs.DeclaredWork
open Sys2Proof.Machine
open Sys2Proof.Proofs.WorkInHand

/-! ### Acceptance of a task (R62, R65) -/

/-- An entry of the window with a SEQ, made for a TCB of a space. -/
def IsFor (n asid a : Nat) (c : Tcb) (x : Task) : Prop := x.seq = n ∧ x.asid = asid ∧ x.tcba = a ∧ x.tcb = c

/-- The window holds such an entry. -/
def Holds (s : State) (n asid a : Nat) (c : Tcb) : Prop := ∃ x ∈ s.tasks, IsFor n asid a c x

section
variable {n asid a : Nat} {c : Tcb} {s : State}

theorem Holds.of_work {t : State} (h : Holds s n asid a c) (hw : work t = work s) : Holds t n asid a c := by
  unfold Holds
  rw [tasks_of_work hw]
  exact h

theorem Holds.modTask (h : Holds s n asid a c) (q : Nat) {g : Task → Task}
    (hg : ∀ x, IsFor n asid a c x → IsFor n asid a c (g x)) : Holds (s.modTask q g) n asid a c := by
  obtain ⟨x, hx, hfor⟩ := h
  refine ⟨_, List.mem_map_of_mem hx, ?_⟩
  split
  · exact hg x hfor
  · exact hfor

theorem Holds.taskReady (h : Holds s n asid a c) (q : Nat) : Holds (s.taskReady q) n asid a c :=
  have hready : Holds (s.modTask q fun x => { x with readyAt := s.ptime }) n asid a c := h.modTask q fun _ hx => hx
  (hready.modTask q (g := fun x => { x with state := .ready }) fun _ hx => hx).of_work (work_reportTask _ _ _)

/-- The derivation of links changes the links and the count of entries alone. -/
theorem Holds.derive {x : Task} (h : IsFor n asid a c x) (hx : x ∈ s.tasks) (e : Task) : Holds (s.derive e) n asid a c := by
  refine ⟨_, List.mem_map_of_mem hx, ?_⟩
  dsimp only
  split <;> split
  · exact h
  · exact h
  · split <;> exact h
  · split <;> exact h

theorem Holds.enrol {x : Task} (h : IsFor n asid a c x) : Holds (s.enrol x) n asid a c := by
  have hd : Holds (State.derive { s with tasks := s.tasks ++ [x] } x) n asid a c :=
    Holds.derive h (List.mem_append_right _ (List.mem_singleton_self x)) x
  unfold State.enrol
  dsimp only
  split
  · exact hd
  · exact hd.of_work (work_fePut _ _ _ _)

end

theorem seqNext_enrol (s : State) (x : Task) : (s.enrol x).seqNext = s.seqNext := by
  unfold State.enrol
  dsimp only
  split
  · rfl
  · exact (seqNext_of_work (work_fePut _ _ _ _)).trans rfl

theorem seqNext_taskReady (s : State) (q : Nat) : (s.taskReady q).seqNext = s.seqNext :=
  (seqNext_of_work (work_reportTask _ q none)).trans rfl

/-- One entry of the window launched: its count decides whether it is READY, and its TCB is written. -/
theorem launch_one (s : State) (q : Nat) : s.launch [q] = s.taskReady q ∨ work (s.launch [q]) = work s := by
  simp only [State.launch, List.foldl_cons, List.foldl_nil]
  split
  · split
    · exact .inl rfl
    · exact .inr (work_reportTask _ _ _)
  · exact .inr rfl

/-- One TCB accepted is one new entry of the window, under the next SEQ. -/
theorem acceptTasks_one (s : State) (asid a : Nat) (c : Tcb) (queue : Option Nat) (head : Word) :
    let w := (s.acceptTasks asid [a] [c] queue head).2
    w.seqNext = s.seqNext + 1 ∧ Holds w s.seqNext asid a c := by
  obtain ⟨x, hx, hw⟩ : ∃ x, IsFor s.seqNext asid a c x ∧ (s.acceptTasks asid [a] [c] queue head).2
      = (State.enrol { s with seqNext := s.seqNext + 1 } x).launch [s.seqNext] :=
    ⟨Task.make s.seqNext asid a c none queue head _ _ _, ⟨rfl, rfl, rfl, rfl⟩, rfl⟩
  have hseq := seqNext_enrol { s with seqNext := s.seqNext + 1 } x
  have hheld : Holds (State.enrol { s with seqNext := s.seqNext + 1 } x) s.seqNext asid a c := Holds.enrol hx
  rw [hw]
  rcases launch_one (State.enrol { s with seqNext := s.seqNext + 1 } x) s.seqNext with h | h
  · rw [h]
    exact ⟨(seqNext_taskReady _ _).trans hseq, hheld.taskReady _⟩
  · exact ⟨(seqNext_of_work h).trans hseq, hheld.of_work h⟩

/-! ### TSPAWN of a fibre (R78, R417) -/

section
variable {s u : State} {i : Iss} {h : Nat}

theorem spawnOne_no_space (hno : i.x.isMc = true ∨ (s.space i.team.asid).live = false) : s.spawnOne i h = (2, s) := by
  have hc : (i.x.isMc || !(s.space i.team.asid).live) = true := by rcases hno with hn | hn <;> simp [hn]
  simp only [State.spawnOne, hc, if_true]

theorem spawnWaits_no_space (hno : i.x.isMc = true ∨ (s.space i.team.asid).live = false) : s.spawnWaits i = [] := by
  have hc : (i.x.isMc || !(s.space i.team.asid).live) = true := by rcases hno with hn | hn <;> simp [hn]
  simp only [State.spawnWaits, hc, if_true]

section
variable (hmc : i.x.isMc = false) (hlive : (s.space i.team.asid).live = true)
include hmc hlive

theorem spawnOne_bad (hfe : s.feTcb i.team.asid (i.src 1 h).1 = (.bad, u)) : s.spawnOne i h = (2, u) := by
  simp [State.spawnOne, hmc, hlive, hfe]

theorem spawnOne_ok {c : Tcb} (hfe : s.feTcb i.team.asid (i.src 1 h).1 = (.ok c, u)) : s.spawnOne i h
    = if launchable c = false then (2, u)
      else if u.windowFree = 0 then (1, u)
      else (0, (u.acceptTasks i.team.asid [(i.src 1 h).1] [c] (u.taskQueue i) 0).2) := by
  simp [State.spawnOne, hmc, hlive, hfe]

theorem spawnWaits_bad (hon : i.on = [h]) (hfe : s.feTcb i.team.asid (i.src 1 h).1 = (.bad, u)) : s.spawnWaits i = [] := by
  simp [State.spawnWaits, hmc, hlive, hon, hfe]

theorem spawnWaits_ok (hon : i.on = [h]) {c : Tcb} (hfe : s.feTcb i.team.asid (i.src 1 h).1 = (.ok c, u)) :
    s.spawnWaits i = [] := by
  simp [State.spawnWaits, hmc, hlive, hon, hfe]

theorem spawnWaits_wait (hon : i.on = [h]) {va : Nat} {p : Bool} (hfe : s.feTcb i.team.asid (i.src 1 h).1 = (.wait va p, u)) :
    s.spawnWaits i = [(va, p)] := by
  simp [State.spawnWaits, hmc, hlive, hon, hfe]

end
end

/-! ### The release before it (R132, R155) -/

/-- A cluster without dirty bytes has nothing to send home. -/
theorem release_of_clean {s : State} {c : Nat} (h : (s.cl c).dirty = []) : s.release c = s := by
  simp [State.release, State.flush, Cluster.dirtyCells, h]

theorem mayRelease_of_clean {s : State} {i : Iss} {h : Nat} (hon : i.on = [h]) (hload : s.loading i h = false)
    (hphase : (s.fibre i.cl i.slot h).phase = false)
    (hrepl : ∀ n ∈ s.repl.applied, (s.fibre i.cl i.slot h).repl ≤ n ∧ (s.fibre i.cl i.slot h).saw ≤ n)
    (hclean : (s.cl i.cl).dirty = []) : s.mayRelease i = true := by
  have hahead : s.replAhead (s.fibre i.cl i.slot h) = true := by simpa [State.replAhead] using hrepl
  simp [State.mayRelease, hon, hload, hphase, hahead, State.unflushed, Cluster.dirtyCells, hclean]

theorem mayRelease_of_unguarded {s : State} {i : Iss} (hon : i.on = []) : s.mayRelease i = true := by
  simp [State.mayRelease, hon]

/-! ### TSPAWN (R417) -/

/-- Every guarded fibre's TSPAWN in turn: the results, and the state behind them. -/
def spawnAll (s : State) (i : Iss) : List Res × State :=
  i.on.foldl (fun (a : List Res × State) h =>
    (a.1 ++ [i.resV h (a.2.spawnOne i h).1 none 0], (a.2.spawnOne i h).2)) ([], s)

/-- A TSPAWN past its release: it waits with the pages of its TCBs, or its fibres' tasks are launched. -/
def spawnReleased (s : State) (i : Iss) : State :=
  if !(s.spawnWaits i).isEmpty then
    (s.spawnWaits i).foldl (fun s w => if w.2 then s.postReplay 4 0xFFFF i.team.asid w.1 else s) s
  else (spawnAll s i).2.finish i (spawnAll s i).1

/-- TSPAWN's own effect: the release first. -/
def spawnIssued (s : State) (i : Iss) : State :=
  if !s.mayRelease i then s else spawnReleased (if i.on.isEmpty then s else s.release i.cl) i

section
variable {s t : State} {i : Iss} {f : Fields} (hi : s.Issues (.tspawn f) t i)
include hi

theorem exec_tspawn : exec (.tspawn f) s = .next (spawnIssued t i) := hi.next (go := spawnIssued) rfl rfl

theorem exec_tspawn_guarded (hon : i.on ≠ []) (hmay : t.mayRelease i = true) (hwait : (t.release i.cl).spawnWaits i = []) :
    exec (.tspawn f) s = .next ((spawnAll (t.release i.cl) i).2.finish i (spawnAll (t.release i.cl) i).1) := by
  simp [exec_tspawn hi, spawnIssued, spawnReleased, hon, hmay, hwait]

theorem exec_tspawn_unguarded (hon : i.on = []) : exec (.tspawn f) s = .next (t.finish i []) := by
  simp [exec_tspawn hi, spawnIssued, spawnReleased, spawnAll, State.spawnWaits, mayRelease_of_unguarded hon, hon]

section
variable {h : Nat} (hon : i.on = [h]) (hmay : t.mayRelease i = true) (hclean : (t.cl i.cl).dirty = [])
include hon hmay hclean

/-- A TSPAWN of one fibre that nothing holds is that fibre's, with its status. -/
theorem exec_tspawn_one {v : Nat} {u : State} (hwait : t.spawnWaits i = []) (hv : t.spawnOne i h = (v, u)) :
    exec (.tspawn f) s = .next (u.finish i [i.resV h v none 0]) := by
  have hgo := exec_tspawn_guarded hi (by simp [hon]) hmay (by rw [release_of_clean hclean]; exact hwait)
  simpa [release_of_clean hclean, spawnAll, hon, hv] using hgo

/-- One whose TCB's page waits asks for the page and issues again. -/
theorem exec_tspawn_wait {va : Nat} {p : Bool} (hwait : t.spawnWaits i = [(va, p)]) :
    exec (.tspawn f) s = .next (if p then t.postReplay 4 0xFFFF i.team.asid va else t) := by
  simp [exec_tspawn hi, spawnIssued, spawnReleased, hon, hmay, hwait, release_of_clean hclean]

section
variable (hmc : i.x.isMc = false) (hlive : (t.space i.team.asid).live = true)
include hmc hlive

/-- What TSPAWN answers for a TCB that can be read. -/
theorem exec_tspawn_ok {c : Tcb} {u : State} (hfe : t.feTcb i.team.asid (i.src 1 h).1 = (.ok c, u)) :
    (launchable c = false → exec (.tspawn f) s = .next (u.finish i [i.resV h 2 none 0]))
      ∧ (launchable c = true → u.windowFree = 0 → exec (.tspawn f) s = .next (u.finish i [i.resV h 1 none 0]))
      ∧ (launchable c = true → u.windowFree ≠ 0 → ∃ w : State, exec (.tspawn f) s = .next (w.finish i [i.resV h 0 none 0])
        ∧ w.seqNext = u.seqNext + 1
        ∧ ∃ x ∈ w.tasks, x.seq = u.seqNext ∧ x.asid = i.team.asid ∧ x.tcba = (i.src 1 h).1 ∧ x.tcb = c) := by
  have hspawn := spawnOne_ok hmc hlive hfe
  have hexec {v : Nat} {w : State} (hv : t.spawnOne i h = (v, w)) :
      exec (.tspawn f) s = .next (w.finish i [i.resV h v none 0]) :=
    exec_tspawn_one hi hon hmay hclean (spawnWaits_ok hmc hlive hon hfe) hv
  refine ⟨fun hl => hexec ?_, fun hl hfull => hexec ?_, fun hl hroom =>
    ⟨_, hexec ?_, acceptTasks_one u _ _ _ (u.taskQueue i) 0⟩⟩
  · rw [hspawn, if_pos hl]
  · rw [hspawn, if_neg (by simp [hl]), if_pos hfull]
  · rw [hspawn, if_neg (by simp [hl]), if_neg hroom]

end
end
end

/-! ### Steps that are missed (R91) -/

theorem work_missRecord (s : State) (p : Step) (v : Nat) : work (s.postEvent p.queue 2 0x21 p.info v false) = work s :=
  work_postEvent _ _ _ _ _ _ _

theorem steps_missStep (s : State) (p : Step) (v : Nat) : (s.missStep p v).steps = s.steps.filter fun x => x.slot != p.slot := by
  rw [← steps_of_work (work_missRecord s p v), State.missStep]

theorem ptime_missStep (s : State) (p : Step) (v : Nat) : (s.missStep p v).ptime = s.ptime := by
  rw [← ptime_of_work (work_missRecord s p v), State.missStep]

theorem timeline_missStep (s : State) (p : Step) (v key : Nat) : (s.missStep p v).timeline key = s.timeline key := by
  rw [← timeline_of_work (work_missRecord s p v) key]
  rfl

/-- Steps missed one after the other, each with what its counter holds. -/
def missAll (s : State) (l : List Step) : State := l.foldl (fun s p => s.missStep p (s.timeline p.ref.toNat).value.toNat) s

theorem mem_steps_missAll {l : List Step} {s : State} {p : Step} :
    p ∈ (missAll s l).steps ↔ p ∈ s.steps ∧ ∀ q ∈ l, p.slot ≠ q.slot := by
  induction l generalizing s with
  | nil => simp [missAll]
  | cons q l ih =>
    rw [show missAll s (q :: l) = missAll (s.missStep q (s.timeline q.ref.toNat).value.toNat) l from rfl, ih, steps_missStep]
    simp [and_assoc]

theorem lateSteps_eq (s : State) (which : Step → Bool) :
    s.lateSteps which = missAll s (s.steps.filter fun p => which p && decide (p.t.toNat < s.ptime)) := rfl

theorem ptime_lateSteps (s : State) (which : Step → Bool) : (s.lateSteps which).ptime = s.ptime :=
  foldl_eq (fun s : State => s.ptime) _ (fun s p => ptime_missStep s p _) _ s

theorem timeline_lateSteps (s : State) (which : Step → Bool) (key : Nat) : (s.lateSteps which).timeline key = s.timeline key :=
  foldl_eq (fun s : State => s.timeline key) _ (fun s p => timeline_missStep s p _ key) _ s

/-- With no slot twice in the table, the steps that stay are those whose T has not passed. -/
theorem mem_steps_lateSteps {s : State} (hn : (s.steps.map (·.slot)).Nodup) (p : Step) :
    p ∈ (s.lateSteps fun _ => true).steps ↔ p ∈ s.steps ∧ s.ptime ≤ p.t.toNat := by
  rw [lateSteps_eq, mem_steps_missAll]
  simp only [Bool.true_and, List.mem_filter, decide_eq_true_eq]
  refine and_congr_right fun hp => ⟨fun hstay => ?_, fun hin q ⟨hq, hlate⟩ hslot => ?_⟩
  · exact Nat.le_of_not_lt fun hlate => hstay p ⟨hp, hlate⟩ rfl
  · rw [eq_of_key_eq hn hp hq hslot] at hin
    exact absurd hlate (Nat.not_lt.2 hin)

/-! ### Declarations (R90, R418) -/

/-- The entry that a declaration makes in a slot. -/
def fresh (s : State) (k : Nat) (id : Word) (ref : Half) (n d : DWord) (e : Word) (queue asid : Option Nat) : Step :=
  ⟨k, id, ref, n, d, e, queue, asid, BitVec.allOnes 64, false, s.ptime, [(s.ptime, (s.timeline ref.toNat).value)], 0⟩

/-- The other slots' steps. -/
def others (s : State) (k : Nat) : List Step := s.steps.filter fun x => x.slot != k

/-- An entry put in its slot: met at once, missed at once or declared, `again` or for the first time. -/
def place (s : State) (p : Step) (again : Bool) : Nat × State :=
  let v := (s.timeline p.ref.toNat).value
  let w : State := { s with steps := others s p.slot ++ [p] }
  if p.n.toNat ≤ v.toNat then (2, { s with steps := others s p.slot })
  else if p.t.toNat < s.ptime then (3, w.missStep p v.toNat)
  else (b2n again, w)

section
variable {s : State} {p : Step} {again : Bool}

theorem place_met (hv : p.n.toNat ≤ (s.timeline p.ref.toNat).value.toNat) :
    place s p again = (2, { s with steps := others s p.slot }) := if_pos hv

theorem place_missed (hv : (s.timeline p.ref.toNat).value.toNat < p.n.toNat) (hd : p.t.toNat < s.ptime) :
    place s p again = (3, State.missStep { s with steps := others s p.slot ++ [p] } p (s.timeline p.ref.toNat).value.toNat) :=
  (if_neg (Nat.not_le.2 hv)).trans (if_pos hd)

theorem place_declared (hv : (s.timeline p.ref.toNat).value.toNat < p.n.toNat) (hd : s.ptime ≤ p.t.toNat) :
    place s p again = (b2n again, { s with steps := others s p.slot ++ [p] }) :=
  (if_neg (Nat.not_le.2 hv)).trans (if_neg (Nat.not_lt.2 hd))

end

/-- The lowest slot that no step holds. -/
def freeSlot (s : State) : Option Nat := (List.range 256).find? fun k => s.steps.all fun p => p.slot != k

theorem freeSlot_eq_some {s : State} (h : ∃ k < 256, ∀ p ∈ s.steps, p.slot ≠ k) :
    ∃ k, freeSlot s = some k ∧ (∀ o ∈ s.steps, o.slot ≠ k) ∧ ∀ j < k, ∃ o ∈ s.steps, o.slot = j := by
  obtain ⟨j, hj, hfree⟩ := h
  have hsome : (freeSlot s).isSome := by
    simpa [freeSlot] using ⟨j, hj, hfree⟩
  obtain ⟨k, hk⟩ := Option.isSome_iff_exists.1 hsome
  obtain ⟨hnone, _, hlow⟩ := List.find?_range_eq_some.1 hk
  refine ⟨k, hk, by simpa using hnone, fun m hm => ?_⟩
  simpa using hlow m hm

theorem others_of_free {s : State} {k : Nat} (h : ∀ o ∈ s.steps, o.slot ≠ k) : others s k = s.steps :=
  List.filter_eq_self.2 fun o ho => by simpa using h o ho

section
variable {t u : State} (hu : t.lateSteps (fun _ => true) = u) (strict : Bool) {id : Word} {ref : Half} (n d : DWord) (e : Word)
  (q a : Option Nat)
include hu

theorem declareStep_again {o : Step} (ho : u.steps.find? (fun p => p.id == id) = some o) :
    t.declareStep strict id ref n d e q a
      = if id = 0 ∨ ref.toNat ≥ 0x4000 ∨ (strict && o.asid != a) then (4, u)
        else place u (fresh u o.slot id ref n d e q a) true := by
  subst hu
  simp only [State.declareStep, ho]
  rfl

theorem declareStep_new {k : Nat} (hid : u.steps.find? (fun p => p.id == id) = none) (hk : freeSlot u = some k) :
    t.declareStep strict id ref n d e q a
      = if id = 0 ∨ ref.toNat ≥ 0x4000 then (4, u) else place u (fresh u k id ref n d e q a) false := by
  subst hu
  rw [freeSlot] at hk
  simp only [State.declareStep, hid, hk, Bool.false_eq_true, or_false]
  rfl

theorem declareStep_full (hid : u.steps.find? (fun p => p.id == id) = none) (hk : freeSlot u = none) :
    t.declareStep strict id ref n d e q a = (4, u) := by
  subst hu
  rw [freeSlot] at hk
  simp only [State.declareStep, hid, hk]

/-- An id of 0 and a reserved counter are rejected, whatever the table holds. -/
theorem declareStep_reserved (h : id = 0 ∨ 0x4000 ≤ ref.toNat) : t.declareStep strict id ref n d e q a = (4, u) := by
  cases hold : u.steps.find? fun p => p.id == id with
  | some o => rw [declareStep_again hu strict n d e q a hold, if_pos (h.imp_right .inl)]
  | none =>
    cases hk : freeSlot u with
    | some k => rw [declareStep_new hu strict n d e q a hold hk, if_pos h]
    | none => exact declareStep_full hu strict n d e q a hold hk

theorem declareStep_foreign (hs : strict = true) {o : Step} (ho : u.steps.find? (fun p => p.id == id) = some o)
    (ha : o.asid ≠ a) : t.declareStep strict id ref n d e q a = (4, u) := by
  rw [declareStep_again hu strict n d e q a ho, if_pos (.inr (.inr (by simp [hs, ha])))]

section
variable (hid : id ≠ 0) (href : ref.toNat < 0x4000)
include hid href

/-- A step declared again, neither met nor past, takes its old slot. -/
theorem declareStep_moves {o : Step} (ho : u.steps.find? (fun p => p.id == id) = some o) (ha : strict = true → o.asid = a)
    (hv : (t.timeline ref.toNat).value.toNat < n.toNat) (hd : t.ptime ≤ d.toNat) :
    let r := t.declareStep strict id ref n d e q a
    r.1 = 1 ∧ ∃ p, p.slot = o.slot ∧ p.id = id ∧ p.ref = ref ∧ p.n = n ∧ p.t = d ∧ p.e = e ∧ p.queue = q ∧ p.asid = a
      ∧ r.2.steps = u.steps.filter (fun x => x.slot != o.slot) ++ [p] := by
  have hown : ¬(id = 0 ∨ ref.toNat ≥ 0x4000 ∨ (strict && o.asid != a) = true) := by
    refine not_or.2 ⟨hid, not_or.2 ⟨Nat.not_le.2 href, fun hforeign => ?_⟩⟩
    simp only [Bool.and_eq_true, bne_iff_ne] at hforeign
    exact hforeign.2 (ha hforeign.1)
  rw [← timeline_lateSteps t (fun _ => true), hu] at hv
  rw [← ptime_lateSteps t (fun _ => true), hu] at hd
  rw [declareStep_again hu strict n d e q a ho, if_neg hown, place_declared hv hd]
  exact ⟨rfl, fresh u o.slot id ref n d e q a, rfl, rfl, rfl, rfl, rfl, rfl, rfl, rfl, rfl⟩

/-- A first declaration: met, missed, or in the lowest free slot. -/
theorem declareStep_first (hnone : ∀ p ∈ u.steps, p.id ≠ id) (hroom : ∃ k < 256, ∀ p ∈ u.steps, p.slot ≠ k) :
    let r := t.declareStep strict id ref n d e q a
    let v := (t.timeline ref.toNat).value
    (n.toNat ≤ v.toNat → r.1 = 2 ∧ ∀ p ∈ r.2.steps, p ∈ u.steps)
      ∧ (v.toNat < n.toNat → d.toNat < t.ptime → r.1 = 3)
      ∧ (v.toNat < n.toNat → t.ptime ≤ d.toNat → r.1 = 0 ∧ ∃ p, r.2.steps = u.steps ++ [p] ∧ p.id = id
          ∧ p.ref = ref ∧ p.n = n ∧ p.t = d ∧ p.e = e ∧ p.queue = q ∧ p.asid = a ∧ p.proj = BitVec.allOnes 64
          ∧ p.risk = false ∧ (∀ o ∈ u.steps, p.slot ≠ o.slot)
          ∧ ∀ k < p.slot, ∃ o ∈ u.steps, o.slot = k) := by
  obtain ⟨k, hk, hfree, hlow⟩ := freeSlot_eq_some hroom
  have hold : u.steps.find? (fun p => p.id == id) = none := List.find?_eq_none.2 fun p hp => by simpa using hnone p hp
  rw [declareStep_new hu strict n d e q a hold hk, if_neg (not_or.2 ⟨hid, Nat.not_le.2 href⟩),
    ← timeline_lateSteps t (fun _ => true), ← ptime_lateSteps t (fun _ => true), hu]
  refine ⟨fun hv => ?_, fun hv hd => ?_, fun hv hd => ?_⟩
  · rw [place_met hv]
    exact ⟨rfl, fun p hp => (List.mem_filter.1 hp).1⟩
  · rw [place_missed hv hd]
  · rw [place_declared hv hd]
    exact ⟨rfl, fresh u k id ref n d e q a, congrArg (· ++ _) (others_of_free hfree), rfl, rfl, rfl, rfl, rfl, rfl, rfl, rfl,
      rfl, fun o ho => (hfree o ho).symm, hlow⟩

end
end

/-! ### DLEND and DLQRY (R418, R419) -/

/-- DLSTEP's own effect: the guarded fibres' declarations in turn. -/
def stepsDeclared (f : Fields) (s : State) (i : Iss) : State :=
  let r := i.on.foldl (fun (a : List Res × State) h =>
    let d := a.2.declareStep true (BitVec.ofNat 32 (i.src 1 h).1) (BitVec.ofNat 16 f.imm.toNat)
      (BitVec.ofNat 64 (i.src 3 h).1) (BitVec.ofNat 64 (i.src 2 h).1) f.ext (a.2.taskQueue i) i.stepSpace
    (a.1 ++ [i.resV h d.1 none 0], d.2)) ([], s)
  r.2.finish i r.1

/-- One fibre's DLEND: the step of its id and space ends, once the steps whose T has passed are missed. -/
def endStep (i : Iss) (a : List Res × State) (h : Nat) : List Res × State :=
  let u := a.2.lateSteps fun _ => true
  match u.stepOf i (i.src 1 h).1 with
  | some p => (a.1 ++ [i.resV h 0 none 0], { u with steps := u.steps.filter fun x => x.slot != p.slot })
  | none => (a.1 ++ [i.resV h 1 none 0], u)

/-- DLEND's own effect. -/
def stepsEnded (s : State) (i : Iss) : State :=
  (i.on.foldl (endStep i) ([], s)).2.finish i (i.on.foldl (endStep i) ([], s)).1

section
variable {s t : State} {i : Iss} {f : Fields}

theorem exec_dlstep (hi : s.Issues (.dlstep f) t i) : exec (.dlstep f) s = .next (stepsDeclared f t i) :=
  hi.next (go := stepsDeclared f) rfl rfl

theorem exec_dlend (hi : s.Issues (.dlend f) t i) : exec (.dlend f) s = .next (stepsEnded t i) :=
  hi.next (go := stepsEnded) rfl rfl

theorem exec_dlqry (hi : s.Issues (.dlqry f) t i) :
    exec (.dlqry f) s = .next (t.gives i fun h => i.resV h (Step.query (t.stepOf i (i.src 1 h).1)) (i.src 1 h).2 0) :=
  hi.next (go := fun s i => s.gives i fun h => i.resV h (Step.query (s.stepOf i (i.src 1 h).1)) (i.src 1 h).2 0) rfl rfl

theorem stepsEnded_one {h : Nat} (hon : i.on = [h]) {p : Option Step}
    (hp : (t.lateSteps fun _ => true).stepOf i (i.src 1 h).1 = p) : stepsEnded t i = match p with
      | some p => State.finish { t.lateSteps fun _ => true with
          steps := (t.lateSteps fun _ => true).steps.filter fun x => x.slot != p.slot } i [i.resV h 0 none 0]
      | none => (t.lateSteps fun _ => true).finish i [i.resV h 1 none 0] := by
  cases p <;> simp [stepsEnded, endStep, hon, hp]

end

/-- The words of a query, those for no step written out. -/
theorem query_eq (p : Option Step) : Step.query p = match p with
    | some p => p.proj.toNat + (if p.risk then 2 else 1) * 2 ^ 64 + p.slot * 2 ^ 96
    | none => (2 ^ 64 - 1) + 0 * 2 ^ 64 + 0xFFFFFFFF * 2 ^ 96 := by
  cases p <;> rfl

/-! ### The obligation -/

/-- Settles O52: TSPAWN by what stands against its release and its TCB, the deadline instructions by the step table, whose
declarations go by what the table holds of the id and by the counter. -/
theorem tasksAndDeadlines : Obligations.TasksAndDeadlines := by
  refine ⟨fun s t i f => ⟨exec_tspawn_guarded, fun hi h hon hload hphase hrepl hclean => ?_, exec_tspawn_unguarded, exec_dlstep,
    fun hi => ⟨fun h hon p hp => ?_, _, exec_dlend hi⟩, fun hi => ?_⟩, fun t strict id ref n d e q a => ⟨?_, ?_, ?_, ?_, ?_⟩⟩
  · have hmay := mayRelease_of_clean hon hload hphase hrepl hclean
    refine ⟨fun hno => ?_, fun hmc hlive => ⟨fun u hfe => ?_, fun va p u hfe => ?_⟩, fun c u hmc hlive hfe => ?_⟩
    · exact exec_tspawn_one hi hon hmay hclean (spawnWaits_no_space hno) (spawnOne_no_space hno)
    · exact exec_tspawn_one hi hon hmay hclean (spawnWaits_bad hmc hlive hon hfe) (spawnOne_bad hmc hlive hfe)
    · exact exec_tspawn_wait hi hon hmay hclean (spawnWaits_wait hmc hlive hon hfe)
    · exact exec_tspawn_ok hi hon hmay hclean hmc hlive hfe
  · refine (exec_dlend hi).trans (congrArg _ ((stepsEnded_one hon hp).trans ?_))
    cases p <;> rfl
  · exact (exec_dlqry hi).trans (congrArg (fun r => Host.Outcome.next (t.gives i r))
      (funext fun h => congrArg (fun v => i.resV h v (i.src 1 h).2 0) (query_eq (t.stepOf i (i.src 1 h).1))))
  · exact mem_steps_lateSteps
  · exact declareStep_reserved rfl strict n d e q a
  · exact fun hs o ho ha => declareStep_foreign rfl strict n d e q a hs ho ha
  · exact fun hid href o ho ha hv hd => declareStep_moves rfl strict n d e q a hid href ho ha hv hd
  · exact fun hid href hnone hroom => declareStep_first rfl strict n d e q a hid href hnone hroom

end Sys2Proof.Proofs.DeclaredWork
end

section
/-! A result that waits for a miss-status entry (R131, R276): its arrival changes nothing, so ClusterEvents fails. -/
namespace Sys2Proof.Proofs.HeldMiss
open Sys2Proof.Machine

/-! ### Results that are held -/

/-- A result behind 120 earlier ones of its sector is held: they have the places of the sector's entry (R131). -/
theorem heldMiss_of_full_entry {s : State} {c k : Nat} {p : Pend} {m : Nat × Nat} (hp : (s.cl c).pend[k]? = some p)
    (hm : s.missOf c p = some m) (hfull : 120 ≤ (((s.cl c).pend.take k).filter fun q => s.missOf c q == some m).length) :
    s.heldMiss c k = true := by
  simp only [State.heldMiss, hp, hm, hfull, decide_true, Bool.or_true]

/-- The data of a held result does not arrive. -/
theorem loadArrive_of_heldMiss {s : State} {c k : Nat} (h : s.heldMiss c k = true) : s.loadArrive c k = s := by
  cases hp : (s.cl c).pend[k]? with
  | none => simp only [State.loadArrive, hp]
  | some p => simp only [State.loadArrive, hp, h, if_true]

/-! ### The outstanding results after an arrival -/

theorem pend_modCl (s : State) (c d : Nat) {g : Cluster → Cluster} (hg : ∀ k, (g k).pend = k.pend) :
    ((s.modCl c g).cl d).pend = (s.cl d).pend := by
  by_cases hd : d = c
  · subst hd
    by_cases hc : d < s.clusters.length
    · rw [State.cl_modCl _ _ _ hc, hg]
    · rw [State.modCl_of_ge _ _ _ (Nat.le_of_not_lt hc)]
  · rw [State.cl_modCl_ne _ _ hd]

theorem pend_modTeam (s : State) (c k d : Nat) (g : Team → Team) : ((s.modTeam c k g).cl d).pend = (s.cl d).pend :=
  pend_modCl s c d fun _ => rfl

theorem pend_fillRegs (s : State) (c slot h d : Nat) (regs : List Nat) (vs : List VReg) :
    ((s.fillRegs c slot h regs vs).cl d).pend = (s.cl d).pend := by
  rw [State.fillRegs, pend_modCl _ _ _ (by exact fun _ => rfl), pend_modTeam, State.modFibre, pend_modTeam]

theorem pend_orFlags (s : State) (c slot d : Nat) (fl : Flags) : ((s.orFlags c slot fl).cl d).pend = (s.cl d).pend := by
  unfold State.orFlags
  split
  · rfl
  · exact pend_modTeam _ _ _ _ _

/-- A result that arrives leaves one fewer outstanding. -/
theorem length_pend_arrived {s : State} {c k : Nat} {p : Pend} (hc : c < s.clusters.length) (hp : (s.cl c).pend[k]? = some p)
    (q : Pend) (vs : List VReg) (fl : Flags) (slot : Nat) :
    (((((s.modCl c fun x => { x with pend := x.pend.eraseIdx k }).fillPend c q vs fl).wakeFull c slot).cl c).pend).length
      < (s.cl c).pend.length := by
  have hk : k < (s.cl c).pend.length := (List.getElem?_eq_some_iff.1 hp).1
  rw [State.wakeFull, pend_modTeam, State.fillPend, pend_orFlags, pend_fillRegs, State.cl_modCl _ _ _ hc,
    List.length_eraseIdx_of_lt hk]
  omega

/-! ### One lane too many -/

/-- A lane's load of the word at 0x3000, read at home and on its way to v4. -/
def lane : Pend := ⟨.load, 0, 0, [4], 1, 0x1000, 4, .old 0x3000 4 false [VReg.of 5]⟩

/-- Cluster 0 with 121 lanes that wait for one sector. -/
def crowded : State := State.reset.modCl 0 fun k => { k with pend := List.replicate 121 lane }

theorem crowded_lt : 0 < crowded.clusters.length := by decide +kernel

theorem crowded_pend : (crowded.cl 0).pend = List.replicate 121 lane :=
  congrArg Cluster.pend (State.cl_modCl State.reset 0 (fun k => { k with pend := List.replicate 121 lane }) (by decide +kernel))

/-- The last of them has no place in the entry. -/
theorem heldMiss_crowded : crowded.heldMiss 0 120 = true := by
  have hm : crowded.missOf 0 lane = some (crowded.pendSpace 0 lane, 0x3000 / 64) := rfl
  refine heldMiss_of_full_entry (p := lane) (by rw [crowded_pend]; rfl) hm ?_
  rw [crowded_pend, List.take_replicate, List.filter_replicate_of_pos (by rw [hm]; exact beq_self_eq_true _), List.length_replicate]
  decide

/-- Refutes O57: the clause of results fixed at their issue has the arrival of a load's data fill its registers at once, and does
not ask for a place in a miss-status entry; the 121st lane of a sector has none, and its event leaves the state as it is. -/
theorem not_clusterEvents : ¬ Obligations.ClusterEvents := by
  unfold Obligations.ClusterEvents
  intro h
  obtain ⟨-, -, -, -, -, -, hfixed, -⟩ := h crowded crowded 0 crowded_lt
  have hp : (crowded.cl 0).pend[120]? = some lane := by rw [crowded_pend]; rfl
  have harrive := (hfixed 120 lane [VReg.of 5] 0 hp (.inr ⟨rfl, 0x3000, 4, false, rfl⟩)).1 (.inl rfl)
  have hstay : exec (.loadDataArrival 0 120) crowded = .next crowded :=
    congrArg Host.Outcome.next (loadArrive_of_heldMiss heldMiss_crowded)
  have hsame := Host.Outcome.next.inj (hstay.symm.trans harrive)
  have hless := length_pend_arrived crowded_lt hp lane [VReg.of 5] 0 lane.slot
  rw [← hsame] at hless
  exact Nat.lt_irrefl _ hless

end Sys2Proof.Proofs.HeldMiss
end

section
/-! A store of 128 bits (R137, R376) across the end of host memory, through a PRIVBASE that is not a multiple of 256: its second
request goes to a device register, so StoreInstruction fails. -/
namespace Sys2Proof.Proofs.StoreAcrossRegions
open Sys2Proof.Machine

/-! ### The state -/

/-- ST of the 128 bits in v12 to v15 (SZ 6, R374) at the offset in v8 of space 3 (R372). -/
def store : Fields := ⟨.s, 7, false, 0, 0, 0, 0, 8, 12, 0, 30, 0, 0⟩

/-- A fibre whose offset in v8 is 0, with 1 in the third word of its source. -/
def fibre : Fibre := { Fibre.blank 64 1 with
  live := true
  pc := 0x1000
  sets := 1
  v := modAt (List.replicate 64 (VReg.of 0)) 14 fun _ => VReg.of 1 }

/-- A team of space 1 whose PRIVBASE lies 8 bytes before the end of a page (R315). -/
def team : Team := { mcTeam 0x1000 with
  mc := false, seq := 1, asid := 1, regs := 64, privb := 0xFF8, privs := 4096, fibres := [fibre] }

def cohort : Cohort := Cohort.make 7 0 0 0 none [0] [0]

/-- The last 4 KiB of host memory, mapped UNCACHED with RD and WR at address 0, ACCESSED and DIRTY set. -/
def lastPage : TlbEntry := ⟨0, 1, 0, 12, 0, BitVec.ofNat 64 (2 ^ 49 - 4096 + 0x37), 0x101000, 1, 1⟩

/-- The team's cohort in turn, the page in the TLB and the link to the host up. -/
def crossing : State := { State.reset with
  cur := some (0, 7)
  tlb := [lastPage]
  pcie := [true, true]
  spaces := Tab.set Space.reset [] 1 ⟨true, 0, 0x100000, false, 0, 0, false⟩
  clusters := { Cluster.reset with teams := [team], cohorts := [cohort], nextId := 8 } :: List.replicate 160 Cluster.reset }

def ctx : Ctx := ⟨0, team, cohort, [0]⟩
def iss : Iss := crossing.iss ctx 0x201 store {}
/-- Its one lane. -/
def lane : Lane := ⟨0, 0, .mem 0xFF8, 16⟩

/-! ### The premises -/

theorem issues : crossing.Issues (.st store) crossing iss :=
  ⟨⟨0x201, store, ctx, rfl, by decide +kernel, rfl⟩, by decide +kernel⟩

theorem on : iss.on = [0] := by decide +kernel

theorem lanes : iss.on.map (iss.lane 16) = [lane] := by decide +kernel

theorem warm : crossing.Warm iss.cl iss.team.space 0xFF8 := by
  have hfind : crossing.tlbFind iss.cl iss.team.space 0xFF8 = some lastPage := by decide +kernel
  refine ⟨fun e he => ?_, by rw [hfind]; rfl⟩
  cases hfind.symm.trans he
  decide

theorem paOf_lane : crossing.paOf iss.cl iss.team.space 0xFF8 1 = some (2 ^ 49 - 8, 3) := by decide +kernel

theorem quiet : crossing.Quiet iss 1 (iss.on.map (iss.lane 16)) := by
  rw [lanes]
  refine ⟨rfl, by decide +kernel, by decide +kernel, fun l hl => ?_⟩
  cases List.mem_singleton.1 hl
  exact ⟨warm, _, _, paOf_lane, by decide, fun h => absurd h (by decide)⟩

/-! ### The outcome -/

/-- A byte at its home after an instruction. -/
def homeByteAfter (o : Out) (pa : Nat) : Byte := match o with | .next w => w.homeByte pa | _ => 0

/-- Byte 8 of the lane's data. -/
theorem data_byte_8 : BitVec.ofNat 8 ((iss.src 2 0).1 / 2 ^ (8 * 8)) = (1 : Byte) := by decide +kernel

/-- The second request's first byte is that of register offset 0, which no register has: memory keeps 0 there. -/
theorem homeByteAfter_store : homeByteAfter (exec (.st store) crossing) (2 ^ 49) = 0 := by decide +kernel

/-- Refutes O45: of a store that PRIVBASE = 0xFF8 takes across the end of host memory the last 8 bytes are a request to the device
register space, and do not stand at home. R315 allows only multiples of 256 for PRIVBASE; the statement does not ask for
one, nor that more than the lane's first byte lie outside the register space. -/
theorem not_storeInstruction : ¬ Obligations.StoreInstruction := by
  unfold Obligations.StoreInstruction
  intro h
  obtain ⟨-, -, -, -, hframe⟩ := h crossing crossing iss store issues
  have hhits : ∀ l ∈ iss.on.map (iss.lane 16), iss.laneHit l = none := by decide +kernel
  have hroom : (crossing.l1Lines iss.cl).length + (iss.on.map (iss.lane 16)).length ≤ 768 := by decide +kernel
  obtain ⟨w, hw, -, hdata, -⟩ := hframe hhits quiet rfl rfl (by decide) (by decide) hroom
  have hon : (0 : Nat) ∈ iss.on := by rw [on]; exact List.mem_singleton_self 0
  have htgt : (iss.lane 16 0).tgt = .mem 0xFF8 := by decide +kernel
  have halone : ∀ g ∈ iss.on, g ≠ 0 → ¬ crossing.Covers iss 1 (iss.lane 16 g) (2 ^ 49 - 8 + 8) := fun g hg hne =>
    absurd (List.mem_singleton.1 (on ▸ hg)) hne
  obtain ⟨-, hhome, -⟩ := hdata 0 hon 0xFF8 (2 ^ 49 - 8) 3 8 htgt paOf_lane (by decide) halone
  have hwritten : w.homeByte (2 ^ 49) = 1 := (hhome (.inr (.inl rfl))).trans data_byte_8
  have hkept : w.homeByte (2 ^ 49) = 0 := by
    rw [← homeByteAfter_store, hw]
    rfl
  exact absurd (hwritten.symm.trans hkept) (by decide)

end Sys2Proof.Proofs.StoreAcrossRegions
end

section
/-! The memory operations (R380) as operations on bit vectors. -/
namespace Sys2Proof.Proofs.MemoryOperations
open Sys2Proof.Machine

theorem sext_toNat {w : Nat} (hw : 0 < w) (a : BitVec w) : sext w a.toNat = a.toInt := by
  rw [sext_eq hw, BitVec.ofNat_toNat, BitVec.setWidth_eq]

section
variable {w : Nat} (a b : BitVec w)

/-- The value that one of two orders keeps, as a number: a of the old value, b the operand. -/
theorem toNat_keep (p : Bool) : (if p then b else a).toNat = if p then b.toNat else a.toNat := by
  cases p <;> rfl

theorem min_signed (hw : 0 < w) :
    (if sext w b.toNat < sext w a.toNat then b.toNat else a.toNat) = (if b.slt a then b else a).toNat := by
  rw [toNat_keep, sext_toNat hw, sext_toNat hw]
  simp only [BitVec.slt, decide_eq_true_eq]

theorem max_signed (hw : 0 < w) :
    (if sext w b.toNat > sext w a.toNat then b.toNat else a.toNat) = (if a.slt b then b else a).toNat := by
  rw [toNat_keep, sext_toNat hw, sext_toNat hw]
  simp only [BitVec.slt, decide_eq_true_eq, gt_iff_lt]

theorem min_unsigned : min a.toNat b.toNat = (if b.ult a then b else a).toNat := by
  rw [toNat_keep, Nat.min_def]
  simp only [BitVec.ult, decide_eq_true_eq]
  split <;> split <;> omega

theorem max_unsigned : max a.toNat b.toNat = (if a.ult b then b else a).toNat := by
  rw [toNat_keep, Nat.max_def]
  simp only [BitVec.ult, decide_eq_true_eq]
  split <;> split <;> omega

end

/-- The operations of R380, those on 32 bits and those on 64. -/
theorem memOp_eq (a b : BitVec 32) (c d : BitVec 64) :
    memOp 0 a.toNat b.toNat = (a + b).toNat ∧ memOp 1 c.toNat d.toNat = (c + d).toNat
      ∧ memOp 3 a.toNat b.toNat = (if b.slt a then b else a).toNat
      ∧ memOp 4 a.toNat b.toNat = (if a.slt b then b else a).toNat
      ∧ memOp 5 a.toNat b.toNat = (if b.ult a then b else a).toNat
      ∧ memOp 6 a.toNat b.toNat = (if a.ult b then b else a).toNat
      ∧ memOp 7 c.toNat d.toNat = (if d.slt c then d else c).toNat
      ∧ memOp 8 c.toNat d.toNat = (if c.slt d then d else c).toNat
      ∧ memOp 9 c.toNat d.toNat = (if d.ult c then d else c).toNat
      ∧ memOp 10 c.toNat d.toNat = (if c.ult d then d else c).toNat
      ∧ memOp 11 a.toNat b.toNat = (fp32.minmax 0 false false (fp32.decode a.toNat) (fp32.decode b.toNat)).1
      ∧ memOp 12 a.toNat b.toNat = (fp32.minmax 0 false true (fp32.decode a.toNat) (fp32.decode b.toNat)).1
      ∧ memOp 13 a.toNat b.toNat = (a &&& b).toNat ∧ memOp 14 a.toNat b.toNat = (a ||| b).toNat
      ∧ memOp 15 a.toNat b.toNat = (a ^^^ b).toNat ∧ memOp 16 c.toNat d.toNat = (c &&& d).toNat
      ∧ memOp 17 c.toNat d.toNat = (c ||| d).toNat ∧ memOp 18 c.toNat d.toNat = (c ^^^ d).toNat
      ∧ memOp 19 a.toNat b.toNat = b.toNat ∧ memOp 20 c.toNat d.toNat = d.toNat
      ∧ memOp 2 a.toNat b.toNat = (fp32.add 0 .rne (fp32.decode a.toNat) (fp32.decode b.toNat)).1 :=
  ⟨(BitVec.toNat_add a b).symm, (BitVec.toNat_add c d).symm, min_signed a b (by decide), max_signed a b (by decide),
    min_unsigned a b, max_unsigned a b, min_signed c d (by decide), max_signed c d (by decide), min_unsigned c d, max_unsigned c d,
    rfl, rfl, (BitVec.toNat_and a b).symm, (BitVec.toNat_or a b).symm, (BitVec.toNat_xor a b).symm, (BitVec.toNat_and c d).symm,
    (BitVec.toNat_or c d).symm, (BitVec.toNat_xor c d).symm, rfl, rfl, rfl⟩

end Sys2Proof.Proofs.MemoryOperations
end

section
/-! Words at their home: what bringing a sector in and bookkeeping leave (R126, R135, R138), bytes written there (R136, R146), the
partials of R142, and an operation on a LIVE word (R381). -/
namespace Sys2Proof.Proofs.HomeWords
open Sys2Proof.Machine

/-! ### What bookkeeping leaves -/

/-- From `s` to `t` only the L2s, the tables of R135 and R138 and device registers have changed. -/
def Bookkept (s t : State) : Prop := t = { s with l2 := t.l2, svt := t.svt, dir := t.dir, regs := t.regs }

namespace Bookkept
variable {s t u : State}

theorem refl (s : State) : Bookkept s s := rfl

theorem eq (h : Bookkept s t) : t = { s with l2 := t.l2, svt := t.svt, dir := t.dir, regs := t.regs } := h

theorem trans (h : Bookkept s t) (g : Bookkept t u) : Bookkept s u := by
  unfold Bookkept at *
  rw [g, h]

theorem mem (h : Bookkept s t) : t.mem = s.mem := (congrArg State.mem h.eq :)
theorem repl (h : Bookkept s t) : t.repl = s.repl := (congrArg State.repl h.eq :)
theorem pois (h : Bookkept s t) : t.pois = s.pois := (congrArg State.pois h.eq :)
theorem partials (h : Bookkept s t) : t.partials = s.partials := (congrArg State.partials h.eq :)
theorem latent (h : Bookkept s t) : t.latent = s.latent := (congrArg State.latent h.eq :)
theorem errs (h : Bookkept s t) : t.errs = s.errs := (congrArg State.errs h.eq :)
theorem rdc (h : Bookkept s t) : t.rdc = s.rdc := (congrArg State.rdc h.eq :)

theorem homeByte (h : Bookkept s t) (pa : Nat) : t.homeByte pa = s.homeByte pa := by
  rw [State.homeByte, State.viewByte, h.repl, h.mem]
  rfl

theorem homeBytes (h : Bookkept s t) (pa n : Nat) : t.homeBytes pa n = s.homeBytes pa n :=
  List.map_congr_left fun k _ => h.homeByte (pa + k)

theorem poisoned (h : Bookkept s t) (pa : Nat) : t.poisoned pa = s.poisoned pa := by
  rw [State.poisoned, h.pois]
  rfl

/-- Along a chain of updates that keep a property of the state. -/
theorem foldl {α : Type} {g : State → α → State} {P : State → Prop} (hP : ∀ {s t}, Bookkept s t → P s → P t)
    (hg : ∀ s a, P s → Bookkept s (g s a)) (l : List α) (s : State) (hs : P s) : Bookkept s (l.foldl g s) := by
  induction l generalizing s with
  | nil => exact refl s
  | cons a l ih => exact (hg s a hs).trans (ih _ (hP (hg s a hs) hs))

end Bookkept

/-! ### Sectors brought in where HBM has no error (R126, R145) -/

section
variable {s : State} (hs : s.latent = [])
include hs

theorem l2Drop_bookkept (gone : Nat → Bool) : Bookkept s (s.l2Drop gone) := by
  unfold State.l2Drop
  dsimp only
  split
  · exact .refl s
  · simp [Bookkept, hs]

theorem l2Trim_bookkept (line : Nat) : Bookkept s (s.l2Trim line) := by
  unfold State.l2Trim
  dsimp only
  split
  · exact .refl s
  · split
    · exact .refl s
    · exact l2Drop_bookkept hs _

/-- A sector entered in its L2, which may give up a line for it. -/
theorem l2Enter_bookkept (l2 : Tab Nat) (line : Nat) : Bookkept s (State.l2Trim { s with l2 := l2 } line) :=
  Bookkept.trans (t := { s with l2 := l2 }) rfl (l2Trim_bookkept (s := { s with l2 := l2 }) hs line)

theorem hbmRead_of_sound (n : Nat) : s.hbmRead n = s := by
  simp [State.hbmRead, hs]

theorem l2Read_bookkept (n : Nat) : Bookkept s (s.l2Read n) := by
  unfold State.l2Read
  split
  · exact .refl s
  · rw [hbmRead_of_sound hs]
    exact l2Enter_bookkept hs _ _

theorem l2Write_bookkept (n : Nat) (whole : Bool) : Bookkept s (s.l2Write n whole) := by
  unfold State.l2Write
  split
  · exact .refl s
  · cases whole with
    | true => exact l2Enter_bookkept hs _ _
    | false =>
      have hread := l2Read_bookkept hs n
      exact hread.trans (l2Enter_bookkept (hread.latent.trans hs) _ _)

theorem l2Writes_bookkept (l : List Nat) (whole : Nat → Bool) : Bookkept s (l.foldl (fun s n => s.l2Write n (whole n)) s) :=
  Bookkept.foldl (P := fun s => s.latent = []) (fun h e => h.latent.trans e) (fun _ n e => l2Write_bookkept e n (whole n)) l s hs

/-- A read that finds no error. -/
theorem demandRead_of_sound (herrs : s.errs = []) (pas : List Nat) :
    (s.demandRead pas).1 = [] ∧ Bookkept s (s.demandRead pas).2 := by
  have hread := Bookkept.foldl (P := fun s => s.latent = []) (fun h e => h.latent.trans e)
    (fun _ n e => l2Read_bookkept e n) (sectorsOf pas) s hs
  have hnone : ((sectorsOf pas).foldl State.l2Read s).errs = [] := hread.errs.trans herrs
  have hlog : ((sectorsOf pas).foldl State.l2Read s).logErrs (sectorsOf pas).contains = (sectorsOf pas).foldl State.l2Read s := by
    simp [State.logErrs, hnone]
  refine ⟨?_, hread.trans ?_⟩
  · simp [State.demandRead, hlog, hnone]
  · simp [State.demandRead, hlog, hnone, Bookkept]

end

/-! ### Bytes written at their home (R136, R146) -/

theorem lookup_filter_of_keep {p : Nat × Byte → Bool} {a : Nat} {l : List (Nat × Byte)} (h : ∀ c ∈ l, c.1 = a → p c = true) :
    (l.filter p).lookup a = l.lookup a := by
  induction l with
  | nil => rfl
  | cons c l ih =>
    have ih := ih fun x hx => h x (List.mem_cons_of_mem _ hx)
    by_cases hc : c.1 = a
    · rw [List.filter_cons_of_pos (h c List.mem_cons_self hc), List.lookup_cons, List.lookup_cons, ih]
    · have hne : (a == c.1) = false := by simpa using fun e => hc e.symm
      rw [List.lookup_cons, hne, ← ih, List.filter_cons]
      split
      · rw [List.lookup_cons, hne]
      · rfl

theorem lookup_filter_of_drop {p : Nat × Byte → Bool} {a : Nat} {l : List (Nat × Byte)} (h : ∀ c ∈ l, c.1 = a → p c = false) :
    (l.filter p).lookup a = none := by
  refine List.lookup_eq_none_iff.2 fun c hc => ?_
  obtain ⟨hin, hp⟩ := List.mem_filter.1 hc
  simpa using fun e : a = c.1 => absurd (h c hin e.symm) (by simp [hp])

/-- What a REPL update still not in memory gives a byte on its home die. -/
def updated (s : State) (a : Nat) (b : Byte) (u : ReplUpd) : Byte :=
  if u.num ≤ atD s.repl.applied (homeDie a) 0 then (u.cells.reverse.lookup a).getD b else b

theorem homeByte_eq (s : State) (a : Nat) : s.homeByte a = s.repl.pend.foldl (updated s a) (s.mem.byte a) := rfl

/-- A pending update without the bytes that a write at home supersedes. -/
def superseded (s : State) (pas : List Nat) (u : ReplUpd) : ReplUpd :=
  { u with cells := u.cells.filter fun c => !(decide (u.num ≤ atD s.repl.applied (homeDie c.1) 0) && pas.contains c.1) }

theorem updated_superseded_of_mem {s : State} {pas : List Nat} {a : Nat} (ha : a ∈ pas) (b : Byte) (u : ReplUpd) :
    updated s a b (superseded s pas u) = b := by
  unfold updated superseded
  split
  · next hnum =>
    rw [← List.filter_reverse, lookup_filter_of_drop (by rintro c - rfl; simp_all)]
    rfl
  · rfl

theorem updated_superseded_of_not_mem {s : State} {pas : List Nat} {a : Nat} (ha : a ∉ pas) (b : Byte) (u : ReplUpd) :
    updated s a b (superseded s pas u) = updated s a b u := by
  unfold updated superseded
  rw [← List.filter_reverse, lookup_filter_of_keep (by rintro c - rfl; simp [ha])]

section
variable {s : State} (hs : s.latent = []) (cells : List (Nat × Byte))
include hs

theorem mem_putRaw : (s.putRaw cells).mem = cells.foldl (fun m c => m.put c.1 c.2) s.mem := by
  rw [← (l2Writes_bookkept hs (sectorsOf (cells.map (·.1))) (coversSector (cells.map (·.1)))).mem]
  rfl

theorem repl_putRaw : (s.putRaw cells).repl = { s.repl with pend := s.repl.pend.map (superseded s (cells.map (·.1))) } := by
  have hl2 := (l2Writes_bookkept hs (sectorsOf (cells.map (·.1))) (coversSector (cells.map (·.1)))).repl
  unfold State.putRaw
  dsimp only
  rw [hl2]
  rfl

theorem homeByte_putRaw (a : Nat) :
    (s.putRaw cells).homeByte a = (s.repl.pend.map (superseded s (cells.map (·.1)))).foldl (updated s a)
      ((cells.foldl (fun m c => m.put c.1 c.2) s.mem).byte a) := by
  rw [homeByte_eq, mem_putRaw hs]
  unfold updated
  rw [repl_putRaw hs]

theorem homeByte_putRaw_of_mem {a : Nat} (ha : a ∈ cells.map (·.1)) :
    (s.putRaw cells).homeByte a = (cells.foldl (fun m c => m.put c.1 c.2) s.mem).byte a := by
  rw [homeByte_putRaw hs, List.foldl_map]
  exact foldl_eq id _ (fun b u => updated_superseded_of_mem ha b u) _ _

theorem homeByte_putRaw_of_not_mem {a : Nat} (ha : a ∉ cells.map (·.1)) : (s.putRaw cells).homeByte a = s.homeByte a := by
  have hbyte := Memory.byte_puts_ne s.mem cells a fun c hc e => ha (e ▸ List.mem_map_of_mem hc)
  rw [homeByte_putRaw hs, List.foldl_map, hbyte, homeByte_eq]
  exact congrArg (fun g => s.repl.pend.foldl g _) (funext fun b => funext fun u => updated_superseded_of_not_mem ha b u)

end

/-! ### A word of bytes -/

theorem length_leBytes (n v : Nat) : (leBytes n v).length = n := by
  induction n generalizing v with
  | zero => rfl
  | succ n ih => rw [leBytes, List.length_cons, ih]

theorem getElem?_leBytes {n k : Nat} (v : Nat) (h : k < n) : (leBytes n v)[k]? = some (BitVec.ofNat 8 (v / 2 ^ (8 * k))) := by
  induction n generalizing v k with
  | zero => exact absurd h (Nat.not_lt_zero k)
  | succ n ih =>
    cases k with
    | zero => simp [leBytes]
    | succ k =>
      rw [leBytes, List.getElem?_cons_succ, ih _ (Nat.lt_of_succ_lt_succ h), Nat.div_div_eq_div_mul, Nat.mul_succ, Nat.add_comm,
        Nat.pow_add]

/-- The cells of a word's bytes. -/
def wordCells (pa n v : Nat) : List (Nat × Byte) := cellsAt pa (leBytes n v)

theorem keys_wordCells (pa n v : Nat) : (wordCells pa n v).map (·.1) = (List.range n).map (pa + ·) := by
  have hfst : ((List.range n).zip (leBytes n v)).map (·.1) = List.range n := List.map_fst_zip (by simp [length_leBytes])
  unfold wordCells cellsAt
  rw [length_leBytes, List.map_map, ← congrArg (List.map (pa + ·)) hfst, List.map_map]
  rfl

theorem mem_wordCells {pa n v k : Nat} (h : k < n) : (pa + k, BitVec.ofNat 8 (v / 2 ^ (8 * k))) ∈ wordCells pa n v := by
  unfold wordCells cellsAt
  refine List.mem_map.2 ⟨(k, BitVec.ofNat 8 (v / 2 ^ (8 * k))), List.mem_iff_getElem?.2 ⟨k, ?_⟩, rfl⟩
  rw [List.getElem?_zip_eq_some]
  exact ⟨by simp [length_leBytes, h], getElem?_leBytes v h⟩

/-- Of cells with different addresses each is read back. -/
theorem byte_puts_of_mem {m : Memory} {cells : List (Nat × Byte)} {c : Nat × Byte} (hm : m.wf = true)
    (hn : (cells.map (·.1)).Nodup) (hc : c ∈ cells) : (cells.foldl (fun m c => m.put c.1 c.2) m).byte c.1 = c.2 := by
  induction cells generalizing m with
  | nil => cases hc
  | cons d l ih =>
    rw [List.map_cons, List.nodup_cons] at hn
    obtain ⟨hd, hl⟩ := hn
    rcases List.mem_cons.1 hc with rfl | hcl
    · rw [List.foldl_cons, Memory.byte_puts_ne _ l _ fun x hx e => hd (List.mem_map.2 ⟨x, hx, e⟩)]
      exact Memory.byte_put_self _ _ hm
    · exact ih (Memory.wf_put _ _ hm) hl hcl

theorem nodup_offsets (pa n : Nat) : ((List.range n).map (pa + ·)).Nodup :=
  List.pairwise_map.2 (List.nodup_range.imp fun h e => h (Nat.add_left_cancel e))

section
variable {s : State} (hs : s.latent = []) (pa n v : Nat)
include hs

/-- A word written at home reads as written. -/
theorem homeByte_putWord (hm : s.mem.wf = true) {k : Nat} (hk : k < n) :
    (s.putRaw (wordCells pa n v)).homeByte (pa + k) = BitVec.ofNat 8 (v / 2 ^ (8 * k)) := by
  have hin := mem_wordCells (pa := pa) (v := v) hk
  rw [homeByte_putRaw_of_mem hs _ (List.mem_map.2 ⟨_, hin, rfl⟩)]
  exact byte_puts_of_mem hm (by rw [keys_wordCells]; exact nodup_offsets pa n) hin

theorem homeByte_putWord_outside {a : Nat} (ha : a < pa ∨ pa + n ≤ a) :
    (s.putRaw (wordCells pa n v)).homeByte a = s.homeByte a := by
  refine homeByte_putRaw_of_not_mem hs _ fun hin => ?_
  rw [keys_wordCells] at hin
  obtain ⟨k, hk, rfl⟩ := List.mem_map.1 hin
  have hk := List.mem_range.1 hk
  omega

end

/-! ### Partials (R142) -/

/-- Bytes of a memory operation's word (R380). -/
def opBytes (op : Nat) : Nat := if memWide op then 8 else 4

section
variable {s : State} (hs : s.latent = []) {p : Partial}
include hs

/-- A partial is discarded where the sector is poisoned (R384). -/
theorem mergeOne_poisoned (hp : s.poisoned p.pa = true) : Bookkept s (s.mergeOne p) := by
  have hread := l2Read_bookkept hs (p.pa / 64)
  unfold State.mergeOne
  dsimp only
  rw [if_pos ((hread.poisoned _).trans hp)]
  exact hread

/-- Else it becomes a write of the combined word. -/
theorem mergeOne_sound (hp : s.poisoned p.pa = false) : s.mergeOne p = (s.l2Read (p.pa / 64)).putRaw
    (wordCells p.pa (opBytes p.op) (memOp p.op (leVal (s.homeBytes p.pa (opBytes p.op))) p.val.toNat)) := by
  have hread := l2Read_bookkept hs (p.pa / 64)
  unfold State.mergeOne
  dsimp only
  rw [if_neg (by rw [hread.poisoned, hp]; exact Bool.false_ne_true), hread.homeBytes, wordCells, cellsAt, length_leBytes]
  rfl

/-- Of memory a merge changes the partial's word alone. -/
theorem homeByte_mergeOne (hp : s.poisoned p.pa = false) (hm : s.mem.wf = true) :
    (∀ k < opBytes p.op, (s.mergeOne p).homeByte (p.pa + k)
        = BitVec.ofNat 8 (memOp p.op (leVal (s.homeBytes p.pa (opBytes p.op))) p.val.toNat / 2 ^ (8 * k)))
      ∧ ∀ a, a < p.pa ∨ p.pa + opBytes p.op ≤ a → (s.mergeOne p).homeByte a = s.homeByte a := by
  have hread := l2Read_bookkept hs (p.pa / 64)
  have hsound := hread.latent.trans hs
  rw [mergeOne_sound hs hp]
  exact ⟨fun k hk => homeByte_putWord hsound _ _ _ (by rw [hread.mem]; exact hm) hk,
    fun a ha => (homeByte_putWord_outside hsound _ _ _ ha).trans (hread.homeByte a)⟩

end

/-- The one partial of a line that does not wait is merged when the line is reached. -/
theorem touch_partial {s : State} {p : Partial} {a : Nat} (hp : s.partials = [p]) (ha : a / 256 = p.pa / 256)
    (hw : s.lineWaits (256 * (a / 256)) = false) : s.touch [a] = State.mergeOne { s with partials := [] } p := by
  simp [State.touch, State.mergeLine, hp, ha ▸ hw, ha, sortBy, insBy, List.eraseDups_cons]

end Sys2Proof.Proofs.HomeWords
end

section
/-! An operation on a LIVE word at its home (R135, R138, R381): where no partial and no error is in its way, what it finds is memory
as it stands, and it changes the word alone. -/
namespace Sys2Proof.Proofs.LiveWords
open Sys2Proof.Machine Sys2Proof.Proofs.HomeWords
open Sys2Proof.Proofs.StepTurn (foldl_id)

/-! ### Lines of an L1 (R127, R135) -/

theorem nodup_eraseDups : ∀ l : List Nat, l.eraseDups.Nodup
  | [] => List.nodup_nil
  | a :: l => by
    rw [List.eraseDups_cons, List.nodup_cons]
    exact ⟨fun h => by simp at h, nodup_eraseDups _⟩
  termination_by l => l.length
  decreasing_by exact Nat.lt_succ_of_le (List.length_filter_le _ l)

theorem length_eraseDups_le (l : List Nat) : l.eraseDups.length ≤ l.length :=
  (nodup_eraseDups l).length_le_of_subset fun _ h => List.mem_eraseDups.1 h

theorem nodup_l1Lines (s : State) (c : Nat) : (s.l1Lines c).Nodup := nodup_eraseDups _

theorem mem_l1Lines {s : State} {c line : Nat} : line ∈ s.l1Lines c ↔
    line ∈ (s.cl c).clean.map (·.no / 4) ++ (s.cl c).dirty.map (·.1 / 256) ∨ ∃ e ∈ s.dir, e.owner = some c ∧ e.line = line := by
  simp [State.l1Lines, or_assoc, and_assoc]

/-- A line in the L1 stands there as clean or dirty bytes or as a privatised copy: only the copies depend on the directory. -/
theorem mem_l1Lines_of_clusters {s t : State} {c line : Nat} (hc : t.clusters = s.clusters) (ht : line ∈ t.l1Lines c)
    (hdir : ∀ e ∈ t.dir, e.owner = some c → e.line = line → line ∈ s.l1Lines c) : line ∈ s.l1Lines c := by
  rcases mem_l1Lines.1 ht with hbytes | ⟨e, he, howner, hline⟩
  · exact mem_l1Lines.2 (.inl (by rwa [State.cl, hc] at hbytes))
  · exact hdir e he howner hline

/-- An L1 with room gives nothing up. -/
theorem l1Trim_of_room {s : State} {c : Nat} (h : (s.l1Lines c).length ≤ 768) (line : Nat) : s.l1Trim c line = s := by
  unfold State.l1Trim
  split
  · rfl
  · rw [Nat.sub_eq_zero_of_le h]
    rfl

/-! ### Where no partial stands -/

section
variable {s : State} (hp : s.partials = [])
include hp

theorem mergeLine_of_no_partial (line : Nat) (die : Option Nat) : s.mergeLine line die = s := by
  cases die <;> simp [State.mergeLine, hp, sortBy]

theorem touch_of_no_partial (pas : List Nat) : s.touch pas = s := by
  simp [State.touch, hp]

/-- A recall only changes the tables of R135 and R138, and takes copies back. -/
theorem recall_of_no_partial (by' : Option Nat) (pas : List Nat) : ∃ svt dir, s.recall by' pas = { s with svt := svt, dir := dir }
    ∧ ∀ e ∈ dir, e.owner.isSome = true → e ∈ s.dir := by
  unfold State.recall
  split
  · exact ⟨s.svt, s.dir, rfl, fun e he _ => he⟩
  · dsimp only
    rw [foldl_id fun line _ => mergeLine_of_no_partial (by exact hp) line none]
    refine ⟨_, _, rfl, fun e he howner => ?_⟩
    obtain ⟨o, ho, rfl⟩ := List.mem_map.1 he
    split at howner
    · cases howner
    · rwa [if_neg ‹_›]

theorem recall_bookkept (by' : Option Nat) (pas : List Nat) : Bookkept s (s.recall by' pas) := by
  obtain ⟨svt, dir, heq, -⟩ := recall_of_no_partial hp by' pas
  rw [heq]
  rfl

theorem l1Lines_recall_subset (by' : Option Nat) (pas : List Nat) (c : Nat) : (s.recall by' pas).l1Lines c ⊆ s.l1Lines c := by
  obtain ⟨svt, dir, heq, hdir⟩ := recall_of_no_partial hp by' pas
  rw [heq]
  intro line hline
  exact mem_l1Lines_of_clusters (t := { s with svt := svt, dir := dir }) rfl hline fun e he howner hl =>
    mem_l1Lines.2 (.inr ⟨e, hdir e he (by rw [howner]; rfl), howner, hl⟩)

end

/-! ### The home directory (R135) -/

/-- A line's entry renewed in the directory, for one that the cluster may hold from now on. -/
def renewed (s : State) (line : Nat) (e : DirLine) : State := { s with dir := s.dir.filter (fun x => x.line != line) ++ [e] }

theorem l1Lines_renewed_subset (s : State) (c : Nat) {line : Nat} {e : DirLine} (he : e.line = line) :
    (renewed s line e).l1Lines c ⊆ line :: s.l1Lines c := by
  intro l hl
  by_cases hline : l = line
  · exact hline ▸ List.mem_cons_self
  · refine List.mem_cons_of_mem _ (mem_l1Lines_of_clusters (t := renewed s line e) rfl hl fun o ho howner hol => ?_)
    rcases List.mem_append.1 ho with hold | hnew
    · exact mem_l1Lines.2 (.inr ⟨o, (List.mem_filter.1 hold).1, howner, hol⟩)
    · rw [List.mem_singleton.1 hnew, he] at hol
      exact absurd hol.symm hline

/-- Accesses to lines, each of which enters the directory and perhaps the L1, give nothing up while the L1 has room for all. -/
theorem renewals_bookkept {g : State → Nat → State} {c : Nat}
    (hg : ∀ s line, ∃ e : DirLine, e.line = line ∧ g s line = (renewed s line e).l1Trim c line) (lines : List Nat) (s : State)
    (hroom : (s.l1Lines c).length + lines.length ≤ 768) : Bookkept s (lines.foldl g s) := by
  induction lines generalizing s with
  | nil => exact .refl s
  | cons line lines ih =>
    obtain ⟨e, he, hstep⟩ := hg s line
    have hlen : ((renewed s line e).l1Lines c).length ≤ (s.l1Lines c).length + 1 :=
      (nodup_l1Lines _ c).length_le_of_subset (l1Lines_renewed_subset s c he)
    rw [List.length_cons] at hroom
    rw [List.foldl_cons, hstep, l1Trim_of_room (by omega)]
    exact Bookkept.trans (t := renewed s line e) rfl (ih _ (by omega))

section
variable {s : State} (hp : s.partials = [])
include hp

theorem dirTouch_bookkept {c : Nat} (w : Bool) (pas : List Nat) (hroom : (s.l1Lines c).length + pas.length ≤ 768) :
    Bookkept s (s.dirTouch c w pas) := by
  have hkept : ((s.recall (some c) pas).l1Lines c).length ≤ (s.l1Lines c).length :=
    (nodup_l1Lines _ c).length_le_of_subset (l1Lines_recall_subset hp _ _ c)
  have hlines : ((pas.map (· / 256)).eraseDups).length ≤ pas.length := by
    simpa using length_eraseDups_le (pas.map (· / 256))
  exact (recall_bookkept hp (some c) pas).trans
    (renewals_bookkept (fun s line => ⟨_, rfl, rfl⟩) (pas.map (· / 256)).eraseDups _ (by omega))

/-! ### Synchronisation variables (R138) -/

theorem svtTouch_bookkept (c pa : Nat) : Bookkept s (s.svtTouch c pa) := by
  unfold State.svtTouch
  split
  · exact .refl s
  · dsimp only
    split
    · rfl
    · split
      · rfl
      · split
        · rfl
        · rw [mergeLine_of_no_partial (by exact hp)]
          rfl

end

/-! ### The word found, and the operation on it (R381) -/

/-- The end of State.wordReady: a word that is not in the L1 is read at home, its line's partials merged. -/
def wordFound (s : State) (here : Bool) (pa : Nat) : Poison × State :=
  let (found, s) := if here then ([], s) else s.demandRead [pa]
  let s := if here then s else s.touch [pa]
  (if s.poisoned pa then some (pa / 64 * 64, !found.isEmpty) else none, s)

section
variable {s : State} (hp : s.partials = []) (hl : s.latent = []) (he : s.errs = [])
include hp hl he

theorem wordFound_sound (here : Bool) (pa : Nat) :
    (wordFound s here pa).1 = (if s.poisoned pa then some (pa / 64 * 64, false) else none)
      ∧ Bookkept s (wordFound s here pa).2 := by
  cases here with
  | true => exact ⟨rfl, .refl s⟩
  | false =>
    obtain ⟨hnone, hread⟩ := demandRead_of_sound hl he [pa]
    have htouch := touch_of_no_partial (hread.partials.trans hp) [pa]
    simp [wordFound, hnone, htouch, hread.poisoned, hread]

variable {c pa n : Nat} (hroom : (s.l1Lines c).length + n ≤ 768) (tab : Bool)
include hroom

/-- What stands before an operation on a LIVE word is bookkeeping, and the poison it meets that of the word's sector. -/
theorem wordReady_live (w : Bool) : (s.wordReady c pa 1 n w tab).1 = (if s.poisoned pa then some (pa / 64 * 64, false) else none)
    ∧ Bookkept s (s.wordReady c pa 1 n w tab).2 := by
  have hend {u : State} (hu : Bookkept s u) (here : Bool) :
      (wordFound u here pa).1 = (if s.poisoned pa then some (pa / 64 * 64, false) else none)
        ∧ Bookkept s (wordFound u here pa).2 := by
    obtain ⟨hpois, hv⟩ := wordFound_sound (hu.partials.trans hp) (hu.latent.trans hl) (hu.errs.trans he) here pa
    exact ⟨by rw [hpois, hu.poisoned], hu.trans hv⟩
  have hdir : Bookkept s (s.dirTouch c w ((List.range n).map (pa + ·))) := dirTouch_bookkept hp w _ (by simpa using hroom)
  cases tab with
  | true =>
    have hback := hdir.trans (recall_bookkept (hdir.partials.trans hp) (some c) ((List.range n).map (pa + ·)))
    exact hend (hback.trans (svtTouch_bookkept (hback.partials.trans hp) c pa)) _
  | false => exact hend (hdir.trans (recall_bookkept (hdir.partials.trans hp) none ((List.range n).map (pa + ·)))) false

/-- An operation on a poisoned word stops (R384). -/
theorem atHome_poisoned (g : Nat → Nat) (hpois : s.poisoned pa = true) :
    (s.atHome c pa 1 n tab g).1 = 0 ∧ (s.atHome c pa 1 n tab g).2.1 = some (pa / 64 * 64, false)
      ∧ Bookkept s (s.atHome c pa 1 n tab g).2.2 := by
  obtain ⟨hword, hkept⟩ := wordReady_live hp hl he hroom tab true
  rw [if_pos hpois] at hword
  unfold State.atHome
  generalize s.wordReady c pa 1 n true tab = r at hword hkept
  obtain ⟨p, u⟩ := r
  dsimp only at hword hkept
  subst hword
  exact ⟨rfl, rfl, hkept⟩

/-- Any other reads the old value and writes the new one in one act (R381). -/
theorem atHome_sound (g : Nat → Nat) (hpois : s.poisoned pa = false) : ∃ u, Bookkept s u
    ∧ s.atHome c pa 1 n tab g = (leVal (s.homeBytes pa n), none, u.putRaw (wordCells pa n (g (leVal (s.homeBytes pa n))))) := by
  obtain ⟨hword, hkept⟩ := wordReady_live hp hl he hroom tab true
  rw [hpois] at hword
  unfold State.atHome
  generalize s.wordReady c pa 1 n true tab = r at hword hkept
  obtain ⟨p, u⟩ := r
  dsimp only at hword hkept
  subst hword
  refine ⟨u, hkept, ?_⟩
  rw [← hkept.homeBytes]
  rfl

/-- Of memory such an operation changes the word alone. -/
theorem homeByte_atHome (g : Nat → Nat) (hpois : s.poisoned pa = false) (hm : s.mem.wf = true) :
    (s.atHome c pa 1 n tab g).1 = leVal (s.homeBytes pa n) ∧ (s.atHome c pa 1 n tab g).2.1 = none
      ∧ (∀ k < n, (s.atHome c pa 1 n tab g).2.2.homeByte (pa + k) = BitVec.ofNat 8 (g (leVal (s.homeBytes pa n)) / 2 ^ (8 * k)))
      ∧ ∀ a, a < pa ∨ pa + n ≤ a → (s.atHome c pa 1 n tab g).2.2.homeByte a = s.homeByte a := by
  obtain ⟨u, hkept, hop⟩ := atHome_sound hp hl he hroom tab g hpois
  have hsound := hkept.latent.trans hl
  rw [hop]
  exact ⟨rfl, rfl, fun k hk => homeByte_putWord hsound _ _ _ (by rw [hkept.mem]; exact hm) hk,
    fun a ha => (homeByte_putWord_outside hsound _ _ _ ha).trans (hkept.homeByte a)⟩

end

end Sys2Proof.Proofs.LiveWords
end

section
/-! What work at home leaves of the clusters: all of it (R126, R135, R136, R138, R142, R145), translation included (R113). -/
namespace Sys2Proof.Proofs.HomeFrame
open Sys2Proof.Machine

/-- A chain of updates that each leave the clusters. -/
theorem clusters_foldl {α : Type} {g : State → α → State} (hg : ∀ s a, (g s a).clusters = s.clusters) (l : List α) (s : State) :
    (l.foldl g s).clusters = s.clusters := foldl_eq (fun s : State => s.clusters) g hg l s

/-! ### L2 and home memory -/

@[simp] theorem clusters_l2Drop (s : State) (gone : Nat → Bool) : (s.l2Drop gone).clusters = s.clusters := by
  unfold State.l2Drop
  dsimp only
  split <;> rfl

@[simp] theorem clusters_l2Trim (s : State) (line : Nat) : (s.l2Trim line).clusters = s.clusters := by
  unfold State.l2Trim
  dsimp only
  split
  · rfl
  · split
    · rfl
    · exact clusters_l2Drop _ _

@[simp] theorem clusters_hbmRead (s : State) (n : Nat) : (s.hbmRead n).clusters = s.clusters := by
  unfold State.hbmRead
  split
  · rfl
  · dsimp only
    split <;> split <;> rfl

@[simp] theorem clusters_l2Read (s : State) (n : Nat) : (s.l2Read n).clusters = s.clusters := by
  unfold State.l2Read
  split
  · rfl
  · exact (clusters_l2Trim _ _).trans (clusters_hbmRead s n)

@[simp] theorem clusters_l2Write (s : State) (n : Nat) (whole : Bool) : (s.l2Write n whole).clusters = s.clusters := by
  unfold State.l2Write
  split
  · rfl
  · refine (clusters_l2Trim _ _).trans (show State.clusters (if whole then s else s.l2Read n) = s.clusters from ?_)
    split
    · rfl
    · exact clusters_l2Read s n

@[simp] theorem clusters_putRaw (s : State) (cells : List (Nat × Byte)) : (s.putRaw cells).clusters = s.clusters := by
  have hl2 := clusters_foldl (g := fun s n => s.l2Write n (coversSector (cells.map (·.1)) n)) (fun s n => clusters_l2Write s n _)
    (sectorsOf (cells.map (·.1))) s
  unfold State.putRaw
  dsimp only
  generalize List.foldl _ s _ = u at hl2 ⊢
  exact hl2

@[simp] theorem clusters_mergeOne (s : State) (p : Partial) : (s.mergeOne p).clusters = s.clusters := by
  unfold State.mergeOne
  dsimp only
  split <;> simp

@[simp] theorem clusters_mergeLine (s : State) (line : Nat) (die : Option Nat) : (s.mergeLine line die).clusters = s.clusters := by
  cases die <;> simp only [State.mergeLine] <;> split
  · rfl
  · exact clusters_foldl clusters_mergeOne _ _
  · rfl
  · exact clusters_foldl clusters_mergeOne _ _

@[simp] theorem clusters_touch (s : State) (pas : List Nat) : (s.touch pas).clusters = s.clusters := by
  unfold State.touch
  split
  · rfl
  · exact clusters_foldl (fun s l => clusters_mergeLine s l none) _ s

@[simp] theorem clusters_homePut (s : State) (cells : List (Nat × Byte)) : (s.homePut cells).clusters = s.clusters := by
  simp [State.homePut]

@[simp] theorem clusters_recall (s : State) (by' : Option Nat) (pas : List Nat) : (s.recall by' pas).clusters = s.clusters := by
  unfold State.recall
  split
  · rfl
  · exact clusters_foldl (fun s l => clusters_mergeLine s l none) _ _

@[simp] theorem clusters_homePutBy (s : State) (cells : List (Nat × Byte)) : (s.homePutBy cells).clusters = s.clusters := by
  simp [State.homePutBy]

@[simp] theorem clusters_homeWrite (s : State) (cells : List (Nat × Byte)) : (s.homeWrite cells).clusters = s.clusters := by
  unfold State.homeWrite
  dsimp only
  split <;> exact clusters_homePutBy _ _

/-! ### The error log -/

@[simp] theorem clusters_setReg (s : State) (off : Nat) (v : DWord) : (s.setReg off v).clusters = s.clusters := rfl
@[simp] theorem clusters_countSat (s : State) (off n : Nat) : (s.countSat off n).clusters = s.clusters := rfl
@[simp] theorem clusters_mcRaise (s : State) (n : Nat) : (s.mcRaise n).clusters = s.clusters := rfl

@[simp] theorem clusters_countCl (s : State) (c r n : Nat) : (s.countCl c r n).clusters = s.clusters := by
  unfold State.countCl
  split <;> rfl

@[simp] theorem clusters_ringPut (s : State) (base size : Nat) (ok phase : Bool) (tail head lost : Nat) (w : List Nat) :
    (s.ringPut base size ok phase tail head lost w).2.clusters = s.clusters := by
  unfold State.ringPut
  dsimp only
  split <;> simp

@[simp] theorem clusters_errLog (s : State) (cls die unit index count addr detail : Nat) :
    (s.errLog cls die unit index count addr detail).clusters = s.clusters := by simp [State.errLog]

@[simp] theorem clusters_errMemory (s : State) (pa detail : Nat) : (s.errMemory pa detail).clusters = s.clusters := by
  simp [State.errMemory]

@[simp] theorem clusters_errCorrected (s : State) (die unit index addr detail : Nat) :
    (s.errCorrected die unit index addr detail).clusters = s.clusters := by
  refine (clusters_mcRaise _ _).trans ?_
  split
  · exact clusters_homeWrite s _
  · exact clusters_errLog _ _ _ _ _ _ _ _

@[simp] theorem clusters_logErrs (s : State) (mine : Nat → Bool) : (s.logErrs mine).clusters = s.clusters := by
  unfold State.logErrs
  split
  · rfl
  · refine clusters_foldl (fun s x => ?_) _ _
    dsimp only
    split
    · split
      · rfl
      · exact clusters_errMemory _ _ _
    · exact clusters_errCorrected _ _ _ _ _ _

@[simp] theorem clusters_demandRead (s : State) (pas : List Nat) : (s.demandRead pas).2.clusters = s.clusters :=
  (clusters_logErrs _ _).trans (clusters_foldl clusters_l2Read (sectorsOf pas) s)

/-! ### REPL memory (R136) -/

@[simp] theorem clusters_replFold (s : State) : s.replFold.clusters = s.clusters := by
  have hl2 (pas : List Nat) := clusters_foldl (g := fun s n => s.l2Write n (coversSector pas n)) (fun s n => clusters_l2Write s n _)
    (sectorsOf pas) s
  unfold State.replFold
  dsimp only
  generalize List.flatMap _ _ = pas
  replace hl2 := hl2 pas
  generalize List.foldl _ s _ = u at hl2 ⊢
  exact hl2

@[simp] theorem clusters_replApply (s : State) (d n : Nat) : (s.replApply d n).clusters = s.clusters := clusters_replFold _

@[simp] theorem clusters_replAll (s : State) : s.replAll.clusters = s.clusters :=
  clusters_foldl (fun s d => clusters_replApply s d _) _ s

@[simp] theorem clusters_replPut (s : State) (d : Nat) (cells : List (Nat × Byte)) : (s.replPut d cells).2.clusters = s.clusters :=
  clusters_replApply _ _ _

@[simp] theorem clusters_replCatchUp (s : State) (pa : Nat) : (s.replCatchUp pa).clusters = s.clusters := clusters_replApply _ _ _

/-! ### Tables, partials and origins (R138, R141, R217) -/

@[simp] theorem clusters_svtTouch (s : State) (c pa : Nat) : (s.svtTouch c pa).clusters = s.clusters := by
  unfold State.svtTouch
  split
  · rfl
  · dsimp only
    split
    · rfl
    · split
      · rfl
      · split
        · rfl
        · exact clusters_mergeLine _ _ _

@[simp] theorem clusters_redPartial (s : State) (d asid pa op : Nat) (v : DWord) :
    (s.redPartial d asid pa op v).clusters = s.clusters := by
  have hmerge (p : Bool) : (if p then s.mergeLine (pa / 256) (some d) else s).clusters = s.clusters := by
    cases p <;> simp
  unfold State.redPartial
  dsimp only
  generalize List.any s.partials _ = clash
  replace hmerge := hmerge clash
  generalize (if clash = true then s.mergeLine (pa / 256) (some d) else s) = u at hmerge ⊢
  rw [apply_ite State.clusters]
  exact (ite_self _).trans hmerge

@[simp] theorem clusters_evictRdc (s : State) (d line : Nat) : (s.evictRdc d line).clusters = s.clusters := by
  unfold State.evictRdc
  split
  · rfl
  · refine (show _ = State.clusters (if s.partials.any fun p => p.die == d && p.pa / 256 == line then s.mergeLine line none
      else s) from rfl).trans ?_
    split
    · exact clusters_mergeLine _ _ _
    · rfl

@[simp] theorem clusters_rdcTrim (s : State) (d line : Nat) : (s.rdcTrim d line).clusters = s.clusters := by
  unfold State.rdcTrim
  dsimp only
  split
  · rfl
  · split
    · rfl
    · exact clusters_evictRdc _ _ _

@[simp] theorem clusters_origin (s : State) (c cause : Nat) (pc : Addr) (addr asid slot h : Nat) :
    (s.origin c cause pc addr asid slot h).2.clusters = s.clusters := by
  unfold State.origin
  dsimp only
  split
  · rfl
  · split <;> rfl

@[simp] theorem clusters_originFor (s : State) (m : Memo) (c cause key addr : Nat) (pc : Addr) (asid slot h : Nat) :
    (s.originFor m c cause key addr pc asid slot h).2.2.clusters = s.clusters := by
  unfold State.originFor
  split
  · rfl
  · exact clusters_origin _ _ _ _ _ _ _ _

/-! ### DIRTY of a leaf (R113) -/

@[simp] theorem clusters_tlbPut (s : State) (e : TlbEntry) (va : Nat) : (s.tlbPut e va).clusters = s.clusters := by
  unfold State.tlbPut
  dsimp only
  split <;> rfl

@[simp] theorem clusters_tlbLook (s : State) (agent asid va : Nat) : (s.tlbLook agent asid va).2.clusters = s.clusters := by
  unfold State.tlbLook
  split
  · rfl
  · split
    · rfl
    · split
      · exact clusters_tlbPut _ _ _
      · rfl

@[simp] theorem clusters_orLeaf (s : State) (e : TlbEntry) (va bit : Nat) : (s.orLeaf e va bit).clusters = s.clusters := by
  unfold State.orLeaf
  dsimp only
  by_cases hhas : (if bit = 8 then bitOf e.acc (e.leafOf va).2 else bitOf e.dirty (e.leafOf va).2) = true
  · rw [if_pos hhas]
  · rw [if_neg hhas]
    refine (show State.clusters _ = State.clusters (if bitOf (leVal (s.homeBytes (e.leafOf va).1 8)) bit then s
      else s.homeWriteVal (e.leafOf va).1 8 (leVal (s.homeBytes (e.leafOf va).1 8) + 2 ^ bit)) from rfl).trans ?_
    split
    · rfl
    · exact clusters_homeWrite s _

@[simp] theorem clusters_tlbFill (s : State) (agent asid va : Nat) (w : Walk) : (s.tlbFill agent asid va w).clusters = s.clusters := by
  cases w with
  | leaf bits pte loc acc dirty =>
    refine (clusters_orLeaf _ _ _ _).trans ?_
    split <;> simp
  | absent r => rfl
  | wait => rfl
  | bad => rfl

@[simp] theorem clusters_markDirty (s : State) (agent asid va : Nat) : (s.markDirty agent asid va).clusters = s.clusters := by
  have hlook := clusters_tlbLook s agent asid va
  unfold State.markDirty
  generalize s.tlbLook agent asid va = look at hlook
  obtain ⟨found, u⟩ := look
  cases found with
  | some e => exact (clusters_orLeaf _ _ _ _).trans hlook
  | none =>
    dsimp only
    split
    · split
      · exact (clusters_orLeaf _ _ _ _).trans ((clusters_tlbFill _ _ _ _ _).trans hlook)
      · exact (clusters_tlbFill _ _ _ _ _).trans hlook
    · exact hlook

end Sys2Proof.Proofs.HomeFrame
end

section
/-! The register windows of a team's fibres (R203): what a lane of an atomic does on its way leaves them, but for its destinations,
which it empties (R207, R381). -/
namespace Sys2Proof.Proofs.RegisterWindows
open Sys2Proof.Machine Sys2Proof.Proofs.HomeFrame

/-! ### The windows -/

/-- The vector registers of a team's fibres. -/
def windows (s : State) (c slot : Nat) : Option (List (List VReg)) := (s.team? c slot).map fun t => t.fibres.map (·.v)

theorem v_fibre (s : State) (c slot h : Nat) : (s.fibre c slot h).v = atD ((windows s c slot).getD []) h [] := by
  unfold State.fibre windows
  cases s.team? c slot with
  | none => rfl
  | some t =>
    simp only [Team.fibre, atD, List.getD_eq_getElem?_getD, Option.map_some, Option.getD_some, List.getElem?_map]
    cases t.fibres[h]? <;> rfl

theorem reg_of_windows {s t : State} (h : windows t = windows s) (c slot k r : Nat) :
    (t.fibre c slot k).reg r = (s.fibre c slot k).reg r := by
  rw [Fibre.reg, v_fibre, h, ← v_fibre, Fibre.reg]

theorem windows_foldl {α : Type} {g : State → α → State} (hg : ∀ s a, windows (g s a) = windows s) (l : List α) (s : State) :
    windows (l.foldl g s) = windows s := foldl_eq windows g hg l s

theorem windows_of_clusters {s t : State} (h : t.clusters = s.clusters) : windows t = windows s := by
  unfold windows State.team? State.cl
  rw [h]

theorem windows_modCl (s : State) (c : Nat) {g : Cluster → Cluster} (hg : ∀ k, (g k).teams = k.teams) :
    windows (s.modCl c g) = windows s := by
  funext d slot
  rw [windows, State.team?_modCl _ _ _ _ _ hg, windows]

theorem windows_modTeam (s : State) (c slot : Nat) {g : Team → Team} (hs : ∀ t, (g t).slot = t.slot)
    (hv : ∀ t, (g t).fibres.map (·.v) = t.fibres.map (·.v)) : windows (s.modTeam c slot g) = windows s := by
  funext d j
  unfold windows
  by_cases hd : d = c
  · subst hd
    rw [State.team?_modTeam _ _ _ _ _ hs, Option.map_map]
    refine congrArg (Option.map · _) (funext fun t => ?_)
    dsimp only [Function.comp]
    split
    · exact hv t
    · rfl
  · rw [State.team?_modTeam_cl_ne _ _ _ _ hd]

theorem map_modAt {α β : Type} (f : α → β) (g : β → β) {k : α → α} (hk : ∀ a, f (k a) = g (f a)) (l : List α) (n : Nat) :
    (modAt l n k).map f = modAt (l.map f) n g := by
  induction l generalizing n with
  | nil => rfl
  | cons a l ih => cases n <;> simp [modAt, hk, ih]

theorem modAt_id {α : Type} (l : List α) (n : Nat) : modAt l n id = l := by
  induction l generalizing n with
  | nil => rfl
  | cons a l ih => cases n <;> simp [modAt, ih]

theorem windows_modFibre (s : State) (c slot h : Nat) {g : Fibre → Fibre} (hg : ∀ f, (g f).v = f.v) :
    windows (s.modFibre c slot h g) = windows s :=
  windows_modTeam s c slot (fun _ => rfl) fun t => (map_modAt (·.v) id hg t.fibres h).trans (modAt_id _ _)

theorem windows_modCohort (s : State) (c id : Nat) (g : Cohort → Cohort) : windows (s.modCohort c id g) = windows s :=
  windows_modCl s c fun _ => rfl

/-! ### Caches (R127, R135, R150) -/

theorem windows_countCl (s : State) (c r n : Nat) : windows (s.countCl c r n) = windows s :=
  windows_of_clusters (clusters_countCl s c r n)

theorem windows_dropPref (s : State) (c : Nat) (gone : Nat → Bool) : windows (s.dropPref c gone) = windows s := by
  unfold State.dropPref
  dsimp only
  split
  · rfl
  · exact (windows_modCl _ c (by exact fun _ => rfl)).trans (windows_countCl _ _ _ _)

theorem windows_dropCopies (s : State) (c : Nat) (secs : List Nat) : windows (s.dropCopies c secs) = windows s :=
  (windows_modCl (s.dropPref c secs.contains) c (g := fun k => { k with clean := k.clean.filter fun x => !secs.contains x.no })
    fun _ => rfl).trans (windows_dropPref _ _ _)

theorem windows_flush (s : State) (c : Nat) (p : Nat → Nat → Bool) : windows (s.flush c p) = windows s := by
  unfold State.flush
  dsimp only
  split
  · rfl
  · refine (windows_modCl _ c (by exact fun _ => rfl)).trans ((windows_dropCopies _ _ _).trans (windows_of_clusters ?_))
    refine (clusters_foldl (g := fun s n => s.setPois n true) (fun _ _ => rfl) _ _).trans ?_
    rw [clusters_homePut, clusters_recall]

theorem windows_evictLine (s : State) (c line : Nat) : windows (s.evictLine c line) = windows s := by
  have hgone : windows (((s.flush c fun a _ => a / 256 == line).dropPref c fun n => n / 4 == line).modCl c fun k =>
      { k with clean := k.clean.filter fun x => x.no / 4 != line }) = windows s :=
    (windows_modCl _ c (by exact fun _ => rfl)).trans ((windows_dropPref _ _ _).trans (windows_flush _ _ _))
  unfold State.evictLine
  dsimp only
  generalize State.modCl _ _ _ = u at hgone ⊢
  split <;> exact hgone

theorem windows_l1Trim (s : State) (c line : Nat) : windows (s.l1Trim c line) = windows s := by
  unfold State.l1Trim
  split
  · rfl
  · refine windows_foldl (fun s _ => ?_) _ s
    unfold State.l1Trim1
    dsimp only
    split
    · exact windows_evictLine _ _ _
    · rfl

theorem windows_dirTouch (s : State) (c : Nat) (w : Bool) (pas : List Nat) : windows (s.dirTouch c w pas) = windows s :=
  (windows_foldl (fun s line => by exact windows_l1Trim _ c line) (pas.map (· / 256)).eraseDups _).trans
    (windows_of_clusters (clusters_recall s (some c) pas))

/-! ### An operation where its target executes it (R381 to R384) -/

theorem windows_ite {s t u : State} (p : Prop) [Decidable p] (ht : windows t = windows s) (hu : windows u = windows s) :
    windows (if p then t else u) = windows s := by
  split
  · exact ht
  · exact hu

theorem windows_wordReady (s : State) (c pa cls n : Nat) (w tab : Bool) : windows (s.wordReady c pa cls n w tab).2 = windows s := by
  have hflush := windows_ite (cls = 0) (windows_flush s c fun a _ => a / 8 == pa / 8) rfl
  unfold State.wordReady
  dsimp only
  generalize (if cls = 0 then s.flush c fun a _ => a / 8 == pa / 8 else s) = u at hflush ⊢
  have hdir := (windows_ite (cls = 1) (windows_dirTouch u c w ((List.range n).map (pa + ·))) rfl).trans hflush
  generalize (if cls = 1 then u.dirTouch c w ((List.range n).map (pa + ·)) else u) = v at hdir ⊢
  have hback := (windows_of_clusters (clusters_recall v (if decide (cls ≤ 1) && tab then some c else none)
    ((List.range n).map (pa + ·)))).trans hdir
  generalize State.recall v _ _ = x at hback ⊢
  have hscope := (windows_ite ((decide (cls ≤ 1) && tab) = true) (windows_of_clusters (clusters_svtTouch x c pa)) rfl).trans hback
  generalize (if (decide (cls ≤ 1) && tab) = true then x.svtTouch c pa else x) = y at hscope ⊢
  generalize (decide (cls ≤ 1) && tab && x.heldWord c pa) = here
  cases here with
  | true => exact hscope
  | false => exact (windows_of_clusters ((clusters_touch _ _).trans (clusters_demandRead y [pa]))).trans hscope

theorem windows_atHome (s : State) (c pa cls n : Nat) (tab : Bool) (g : Nat → Nat) :
    windows (s.atHome c pa cls n tab g).2.2 = windows s := by
  have hword := windows_wordReady s c pa cls n true tab
  unfold State.atHome
  generalize s.wordReady c pa cls n true tab = r at hword ⊢
  obtain ⟨p, u⟩ := r
  dsimp only
  split
  · exact hword
  · have hput := (windows_of_clusters (clusters_putRaw u (cellsAt pa (leBytes n (g (leVal (u.homeBytes pa n))))))).trans hword
    dsimp only
    split
    · exact (windows_dropCopies _ _ _).trans hput
    · exact hput

theorem windows_replSeen (s : State) (c slot h : Nat) : windows (s.replSeen c slot h) = windows s :=
  windows_modFibre _ _ _ _ fun _ => rfl

theorem windows_atRepl (s : State) (i : Iss) (dev : Bool) (h pa n : Nat) (g : Nat → Nat) :
    windows (s.atRepl i dev h pa n g).2.2 = windows s := by
  have hread := windows_of_clusters ((clusters_touch _ [pa]).trans
    ((clusters_demandRead (s.replCatchUp pa) [pa]).trans (clusters_replCatchUp s pa)))
  unfold State.atRepl
  dsimp only
  generalize State.touch _ _ = u at hread ⊢
  split
  · exact hread
  · dsimp only
    have hput := (windows_of_clusters (clusters_replPut u (homeDie pa)
      (cellsAt pa (leBytes n (g (leVal (u.homeBytes pa n))))))).trans hread
    generalize State.replPut u _ _ = r at hput ⊢
    refine (windows_replSeen _ _ _ _).trans ((windows_modFibre _ _ _ _ (by exact fun _ => rfl)).trans (windows_ite _ ?_ ?_))
    · exact (windows_of_clusters (clusters_replAll _)).trans hput
    · exact (windows_of_clusters (clusters_replApply _ _ _)).trans hput

theorem windows_atScratch (s : State) (i : Iss) (off n : Nat) (g : Nat → Nat) : windows (s.atScratch i off n g).2.2 = windows s := by
  unfold State.atScratch
  split
  · rfl
  · split
    · rfl
    · exact windows_modTeam _ _ _ (fun _ => rfl) fun _ => rfl

theorem windows_laneOp (s : State) (i : Iss) (dev tab : Bool) (l : Lane × Got) (g : Nat → Nat) :
    windows (s.laneOp i dev tab l g).2.2 = windows s := by
  unfold State.laneOp
  split
  · exact windows_atScratch _ _ _ _ _
  · have hdirty := windows_of_clusters (clusters_markDirty s i.cl i.team.space l.1.va)
    dsimp only
    split
    · exact (windows_atRepl _ _ _ _ _ _ _).trans hdirty
    · exact (windows_atHome _ _ _ _ _ _ _).trans hdirty
  · rfl

/-! ### Destinations emptied (R207) -/

/-- A window whose registers of a list are empty; vz stays as it is. -/
def emptied (regs : List Nat) (v : List VReg) : List VReg :=
  regs.foldl (fun v r => if r = 255 then v else modAt v r fun x => { x with full := false }) v

/-- What emptying one register leaves empty. -/
theorem full_modAt_empty {v : List VReg} {r k : Nat} (h : k = r ∧ k < v.length ∨ (atD v k (VReg.of 0)).full = false) :
    (atD (modAt v r fun x => { x with full := false }) k (VReg.of 0)).full = false := by
  by_cases hk : k = r
  · subst hk
    by_cases hlen : k < v.length
    · rw [atD_modAt_self _ _ _ _ hlen]
    · rw [modAt_of_ge _ _ _ (Nat.le_of_not_lt hlen)]
      exact h.resolve_left fun hl => hlen hl.2
  · rw [atD_modAt_ne _ _ _ hk]
    exact h.resolve_left fun hl => hk hl.1

theorem full_emptied {regs : List Nat} {v : List VReg} {r : Nat}
    (h : r ∈ regs ∧ r ≠ 255 ∧ r < v.length ∨ (atD v r (VReg.of 0)).full = false) :
    (atD (emptied regs v) r (VReg.of 0)).full = false := by
  induction regs generalizing v with
  | nil => exact h.resolve_left fun hl => by cases hl.1
  | cons a regs ih =>
    refine ih (v := if a = 255 then v else modAt v a fun x => { x with full := false }) ?_
    rcases h with ⟨hr, hvz, hlen⟩ | hempty
    · rcases List.mem_cons.1 hr with rfl | hr
      · rw [if_neg hvz]
        exact .inr (full_modAt_empty (.inl ⟨rfl, hlen⟩))
      · refine .inl ⟨hr, hvz, ?_⟩
        split
        · exact hlen
        · rwa [length_modAt]
    · right
      split
      · exact hempty
      · exact full_modAt_empty (.inr hempty)

/-- The windows of a team in which some fibres' destinations are empty. -/
def destsEmptied (i : Iss) (hs : List Nat) (ws : List (List VReg)) : List (List VReg) :=
  hs.foldl (fun ws h => modAt ws h (emptied (i.regsAt 0 h))) ws

theorem length_destsEmptied (i : Iss) (hs : List Nat) (ws : List (List VReg)) : (destsEmptied i hs ws).length = ws.length :=
  foldl_eq List.length _ (fun ws h => by simp) hs ws

theorem full_destsEmptied {i : Iss} {hs : List Nat} {ws : List (List VReg)} {h r : Nat}
    (hr : h ∈ hs ∧ r ∈ i.regsAt 0 h ∧ r ≠ 255 ∧ h < ws.length ∧ r < (atD ws h []).length
      ∨ (atD (atD ws h []) r (VReg.of 0)).full = false) :
    (atD (atD (destsEmptied i hs ws) h []) r (VReg.of 0)).full = false := by
  induction hs generalizing ws with
  | nil => exact hr.resolve_left fun hl => by cases hl.1
  | cons a hs ih =>
    refine ih (ws := modAt ws a (emptied (i.regsAt 0 a))) ?_
    by_cases ha : h = a
    · subst ha
      by_cases hlen : h < ws.length
      · rw [atD_modAt_self _ _ _ _ hlen]
        refine .inr (full_emptied (hr.imp_left fun hl => ?_))
        obtain ⟨-, hin, hvz, -, hreg⟩ := hl
        exact ⟨hin, hvz, hreg⟩
      · rw [modAt_of_ge _ _ _ (Nat.le_of_not_lt hlen)]
        refine .inr (hr.resolve_left fun hl => ?_)
        obtain ⟨-, -, -, hin, -⟩ := hl
        exact hlen hin
    · rw [atD_modAt_ne _ _ _ ha, length_modAt]
      refine hr.imp_left fun hl => ?_
      obtain ⟨hin, hrest⟩ := hl
      exact ⟨(List.mem_cons.1 hin).resolve_left ha, hrest⟩

theorem windows_modFibre_self (s : State) (c slot h : Nat) {g : Fibre → Fibre} {k : List VReg → List VReg}
    (hg : ∀ f, (g f).v = k f.v) : windows (s.modFibre c slot h g) c slot = (windows s c slot).map fun ws => modAt ws h k := by
  unfold windows State.modFibre
  rw [State.team?_modTeam_self s c slot (fun t => t.modFibre h g) fun _ => rfl, Option.map_map, Option.map_map]
  exact congrArg (Option.map · (s.team? c slot)) (funext fun t => map_modAt (fun f : Fibre => f.v) k hg t.fibres h)

theorem windows_request (s : State) (i : Iss) (kind : PendKind) (h : Nat) (regs : List Nat) (code : Nat) (pay : Payload) :
    windows (s.request i kind h regs code pay) i.cl i.slot
      = (windows s i.cl i.slot).map fun ws => modAt ws h (emptied regs) := by
  unfold State.request State.markEmpty
  rw [windows_modCl _ _ (by exact fun _ => rfl), windows_modCohort]
  exact windows_modFibre_self _ _ _ _ fun _ => rfl

/-- What a lane does: the origins of the issue so far, the state, and the lane with its target. -/
abbrev LaneStep := Memo → State → Lane × Got → Memo × State

/-- The lanes' operations in position order. -/
def operated (s : State) (gs : List (Lane × Got)) (one : LaneStep) : State :=
  (gs.foldl (fun acc l => one acc.1 acc.2 l) (([] : Memo), s)).2

/-- A lane leaves the windows of its team but for its fibre's destinations, which it empties. -/
def EmptiesDests (i : Iss) (one : LaneStep) : Prop := ∀ m s l, windows (one m s l).2 i.cl i.slot
  = (windows s i.cl i.slot).map fun ws => modAt ws l.1.h (emptied (i.regsAt 0 l.1.h))

/-- So does a lane of ATOM or ATOMC. -/
theorem emptiesDests_atomLane (i : Iss) (dev : Bool) (g : Lane × Got → Nat → Nat) :
    EmptiesDests i fun m s l => s.atomLane i dev m l (g l) := fun m s l => by
  have hop := windows_laneOp s i dev true l (g l)
  unfold State.atomLane
  dsimp only
  generalize s.laneOp i dev true l (g l) = r at hop ⊢
  obtain ⟨v, p, u⟩ := r
  cases p with
  | none => rw [windows_request, hop]
  | some p =>
    obtain ⟨key, addr, found⟩ := p
    have horigin := (windows_of_clusters (clusters_originFor u m i.cl 0x07 key addr i.x.pc i.team.space i.slot l.1.h)).trans hop
    dsimp only
    generalize u.originFor m i.cl 0x07 key addr i.x.pc i.team.space i.slot l.1.h = q at horigin ⊢
    rw [windows_request]
    exact congrArg (Option.map _)
      (congrFun (congrFun (windows_ite _ ((windows_of_clusters (clusters_errMemory _ _ _)).trans horigin) horigin) _) _)

theorem EmptiesDests.windows_operated {i : Iss} {one : LaneStep} (hone : EmptiesDests i one) (gs : List (Lane × Got)) (s : State) :
    windows (operated s gs one) i.cl i.slot = (windows s i.cl i.slot).map (destsEmptied i (gs.map fun g => g.1.h)) := by
  have hfold (gs : List (Lane × Got)) (m : Memo) (s : State) : windows (gs.foldl (fun acc l => one acc.1 acc.2 l) (m, s)).2 i.cl i.slot
      = (windows s i.cl i.slot).map (destsEmptied i (gs.map fun g => g.1.h)) := by
    induction gs generalizing m s with
    | nil => exact Option.map_id'.symm
    | cons l gs ih =>
      rw [List.foldl_cons, ih, hone, Option.map_map]
      rfl
  exact hfold gs [] s

/-! ### REDs (R383) -/

theorem windows_redAt (s : State) (i : Iss) (op : Nat) (l : Lane × Got) (b : Nat) : windows (s.redAt i op l b) = windows s := by
  have hop := windows_laneOp s i false false l fun old => memOp op old b
  unfold State.redAt
  generalize s.laneOp i false false l (fun old => memOp op old b) = r at hop ⊢
  obtain ⟨v, p, u⟩ := r
  dsimp only
  split
  · exact (windows_of_clusters (clusters_errMemory _ _ _)).trans hop
  · exact hop

theorem windows_redLane (s : State) (i : Iss) (op : Nat) (l : Lane × Got) : windows (s.redLane i op l) = windows s := by
  unfold State.redLane
  dsimp only
  split
  · have hdirty := windows_of_clusters (clusters_markDirty s i.cl i.team.space l.1.va)
    split
    · exact hdirty
    · split
      · rw [windows_of_clusters (clusters_rdcTrim _ _ _), windows_of_clusters (clusters_redPartial _ _ _ _ _ _),
          windows_of_clusters (clusters_recall _ _ _), windows_flush, hdirty]
      · exact windows_redAt _ _ _ _ _
  · exact windows_redAt _ _ _ _ _

theorem windows_operated_red (s : State) (i : Iss) (op : Nat) (gs : List (Lane × Got)) :
    windows (operated s gs fun m s l => (m, s.redLane i op l)) = windows s :=
  foldl_eq (fun a : Memo × State => windows a.2) _ (fun a l => windows_redLane a.2 i op l) gs ([], s)

/-! ### The issue around the lanes -/

theorem windows_account (s : State) (i : Iss) : windows (s.account i) = windows s := by
  unfold State.account State.fresh
  dsimp only
  rw [windows_ite _ rfl (windows_countCl _ _ _ _), windows_modCl _ _ (by exact fun _ => rfl), windows_modCohort,
    windows_modCl _ _ (by exact fun _ => rfl)]

theorem windows_goOn (s : State) (x : Ctx) (stall : Nat) (next : Nat → Addr) : windows (s.goOn x stall next) = windows s :=
  (windows_modCohort _ _ _ _).trans (windows_foldl (fun _ f => windows_modFibre _ _ _ _ (by exact fun _ => rfl)) x.fs s)

end Sys2Proof.Proofs.RegisterWindows
end

section
/-! Lanes that nothing stands before (R113, R266, R373): each is translated without a trace, and what comes before the lanes' own
operations is bookkeeping of the issue. -/
namespace Sys2Proof.Proofs.QuietLanes
open Sys2Proof.Machine Sys2Proof.Proofs.HomeFrame Sys2Proof.Proofs.RegisterWindows
open Sys2Proof.Proofs.StepTurn (foldl_id)

/-! ### Warm addresses (R106, R113) -/

theorem tlbLook_of_find {s : State} {agent asid va : Nat} {e : TlbEntry} (h : s.tlbFind agent asid va = some e) :
    s.tlbLook agent asid va = (some e, s) := by
  simp only [State.tlbLook, h]

theorem orLeaf_accessed {s : State} {e : TlbEntry} {va : Nat} (h : bitOf e.acc (e.leafOf va).2 = true) : s.orLeaf e va 8 = s := by
  simp [State.orLeaf, h]

theorem orLeaf_dirty {s : State} {e : TlbEntry} {va : Nat} (h : bitOf e.dirty (e.leafOf va).2 = true) : s.orLeaf e va 9 = s := by
  simp [State.orLeaf, h]

/-- Nothing is set in the leaf of a warm address. -/
theorem leafHeld_of_set {s : State} {e : TlbEntry} {va : Nat} (hacc : bitOf e.acc (e.leafOf va).2 = true)
    (hdirty : bitOf e.dirty (e.leafOf va).2 = true) (kind : Nat) : s.leafHeld e va kind = false := by
  simp [State.leafHeld, hacc, hdirty]

section
variable {s : State} {c asid va : Nat} (hw : s.Warm c asid va)
include hw

theorem warm_entry : ∃ e, s.tlbFind c asid va = some e ∧ bitOf e.acc (e.leafOf va).2 = true
    ∧ bitOf e.dirty (e.leafOf va).2 = true := by
  obtain ⟨hbits, hin⟩ := hw
  obtain ⟨e, he⟩ := Option.isSome_iff_exists.1 hin
  exact ⟨e, he, hbits e he⟩

theorem markDirty_of_warm : s.markDirty c asid va = s := by
  obtain ⟨e, he, -, hdirty⟩ := warm_entry hw
  rw [State.markDirty, tlbLook_of_find he]
  exact orLeaf_dirty hdirty

/-- Translating a warm address changes nothing. -/
theorem xlate_snd_of_warm (kind : Nat) : (s.xlate c asid va kind).2 = s := by
  obtain ⟨e, he, hacc, hdirty⟩ := warm_entry hw
  unfold State.xlate
  rw [tlbLook_of_find he]
  split
  · rfl
  · dsimp only
    split
    · rw [leafHeld_of_set hacc hdirty, orLeaf_accessed hacc]
      rfl
    · rfl

end

theorem xlate_fst_of_paOf {s : State} {c asid va kind pa cls : Nat} (h : s.paOf c asid va kind = some (pa, cls)) :
    (s.xlate c asid va kind).1 = .ok pa cls := by
  unfold State.paOf at h
  split at h
  · next heq =>
    cases h
    exact heq
  · cases h

/-! ### Quiet lanes (R114, R266, R373) -/

/-- Where a lane that is ready goes. -/
def Proceeds (g : Got) : Prop := (∃ off, g = .scr off) ∨ ∃ pa cls, g = .at pa cls

/-- A lane that translates without a trace. -/
theorem gotLane_of_warm {s : State} {i : Iss} {kind va pa cls : Nat} {l : Lane} (ht : l.tgt = .mem va)
    (hw : s.Warm i.cl i.team.space va) (hpa : s.paOf i.cl i.team.space va kind = some (pa, cls)) :
    s.gotLane i kind l = (.at pa cls, s) := by
  have hx : s.xlate i.cl i.team.space va kind = (.ok pa cls, s) := Prod.ext (xlate_fst_of_paOf hpa) (xlate_snd_of_warm hw kind)
  simp only [State.gotLane, ht, hx]

section
variable {s : State} {i : Iss} {kind : Nat} {ls : List Lane}

/-- The lanes as they are translated. -/
def translated (s : State) (i : Iss) (kind : Nat) (ls : List Lane) : List (Lane × Got) :=
  ls.map fun l => (l, (s.gotLane i kind l).1)

/-- Of quiet accesses every lane is ready, and translating it changes nothing. -/
theorem quiet_lane (hq : s.Quiet i kind ls) {l : Lane} (hl : l ∈ ls) :
    s.gotLane i kind l = ((s.gotLane i kind l).1, s) ∧ Proceeds (s.gotLane i kind l).1 := by
  obtain ⟨-, -, -, hlanes⟩ := hq
  have hlane := hlanes l hl
  split at hlane
  · next off ht =>
    have hgot : s.gotLane i kind l = (.scr off, s) := by simp only [State.gotLane, ht]
    rw [hgot]
    exact ⟨rfl, .inl ⟨off, rfl⟩⟩
  · next va ht =>
    obtain ⟨hwarm, pa, cls, hpa, -⟩ := hlane
    rw [gotLane_of_warm ht hwarm hpa]
    exact ⟨rfl, .inr ⟨pa, cls, rfl⟩⟩
  · exact hlane.elim

theorem gotAll_of_still (h : ∀ l ∈ ls, s.gotLane i kind l = ((s.gotLane i kind l).1, s)) :
    s.gotAll i kind ls = (translated s i kind ls, s) := by
  have hfold (ls : List Lane) (h : ∀ l ∈ ls, s.gotLane i kind l = ((s.gotLane i kind l).1, s)) (acc : List (Lane × Got)) :
      ls.foldl (fun acc l => (acc.1 ++ [(l, (acc.2.gotLane i kind l).1)], (acc.2.gotLane i kind l).2)) (acc, s)
        = (acc ++ translated s i kind ls, s) := by
    induction ls generalizing acc with
    | nil => simp [translated]
    | cons l ls ih =>
      rw [List.foldl_cons, congrArg Prod.snd (h l List.mem_cons_self), ih (fun x hx => h x (List.mem_cons_of_mem _ hx))]
      simp [translated]
  exact hfold ls h []

/-- Lanes that meet no trap and are ready may all proceed. -/
theorem checkLanes_of_quiet (hhit : ∀ l ∈ ls, i.laneHit l = none) (hq : s.Quiet i kind ls) :
    s.checkLanes i kind ls = (.ok (translated s i kind ls), s) := by
  have hready : ∀ g ∈ translated s i kind ls, Proceeds g.2 := fun g hg => by
    obtain ⟨l, hl, rfl⟩ := List.mem_map.1 hg
    exact (quiet_lane hq hl).2
  have hnohit : (ls.filterMap fun l => (i.laneHit l).map fun x => (l.h, x)) = [] :=
    List.filterMap_eq_nil_iff.2 fun l hl => by rw [hhit l hl]; rfl
  have hnofault : ((translated s i kind ls).filterMap fun g => (g.2.hit g.1).map fun x => (g.1.h, x)) = [] :=
    List.filterMap_eq_nil_iff.2 fun g hg => by
      rcases hready g hg with ⟨off, hg⟩ | ⟨pa, cls, hg⟩ <;> rw [hg] <;> rfl
  have hnone : trapOf [] = none := rfl
  simp only [State.checkLanes, hnohit, hnone, gotAll_of_still fun l hl => (quiet_lane hq hl).1, hnofault]
  refine if_pos (List.isEmpty_iff.2 (List.filterMap_eq_nil_iff.2 fun g hg => ?_))
  rcases hready g hg with ⟨off, hg⟩ | ⟨pa, cls, hg⟩ <;> rw [hg]

/-- A lane in memory is one that translates there. -/
theorem gotLane_at {l : Lane} {pa cls : Nat} (h : (s.gotLane i kind l).1 = .at pa cls) :
    ∃ va, l.tgt = .mem va ∧ s.paOf i.cl i.team.space va kind = some (pa, cls) := by
  unfold State.gotLane at h
  split at h
  · cases h
  · cases h
  · next va ht =>
    refine ⟨va, ht, ?_⟩
    unfold State.paOf
    dsimp only at h
    split at h
    · next heq =>
      cases h
      rw [heq]
    · cases h
    · cases h
    · cases h

/-- Nothing holds an access to a word that no peer's window keeps (R29, R382, R383). -/
theorem peerHeld_of_clear (hclear : ∀ l ∈ ls, ∀ va pa cls, l.tgt = .mem va → s.paOf i.cl i.team.space va kind = some (pa, cls) →
    s.peerWaits pa = false) (red : Option Nat) (die : Nat) : s.peerHeld red die (translated s i kind ls) = false := by
  refine List.any_eq_false.2 fun g hg => ?_
  obtain ⟨l, hl, rfl⟩ := List.mem_map.1 hg
  dsimp only
  split
  · next pa cls heq =>
    obtain ⟨va, ht, hpa⟩ := gotLane_at heq
    simp [hclear l hl va pa cls ht hpa]
  · exact Bool.false_ne_true

end

/-! ### Fibres without outstanding loads (R137, R151) -/

section
variable {s : State} {i : Iss}

theorem not_loads {h : Nat} (hload : s.loading i h = false) {p : Pend} (hp : p ∈ (s.cl i.cl).pend) :
    ¬(p.kind = .load ∧ p.slot = i.slot ∧ p.fibre = h) := by
  simpa using List.any_eq_false.1 hload p hp

/-- With no load outstanding none takes its value now. -/
theorem fixLoads_of_not_loading {h : Nat} (hload : s.loading i h = false) (here : Nat → Nat → Nat → Bool) :
    s.fixLoads i h here = s := by
  refine foldl_id fun k _ => ?_
  split
  · rfl
  · next p hp =>
    split
    · exact if_neg (not_loads hload (List.mem_of_getElem? hp))
    · rfl

variable {gs : List (Lane × Got)} (hload : ∀ g ∈ gs, s.loading i g.1.h = false)
include hload

theorem settleLanes_of_not_loading : s.settleLanes i gs = s := by
  refine foldl_id fun g hg => ?_
  split
  · split
    · exact fixLoads_of_not_loading (hload g hg) _
    · rfl
  · rfl

theorem fixPhase_of_not_loading : s.fixPhase i gs = s := by
  refine foldl_id fun g hg => ?_
  split
  · exact fixLoads_of_not_loading (hload g hg) _
  · rfl

/-- None of the fibres' UNCACHED accesses is to be sent behind a load. -/
theorem sendsLater_of_not_loading : s.sendsLater i gs = false := by
  refine List.any_eq_false.2 fun g hg => ?_
  split
  · refine Bool.not_eq_true _ ▸ List.any_eq_false.2 fun p hp => ?_
    simp only [Bool.and_eq_true, beq_iff_eq]
    rintro ⟨⟨⟨hkind, hslot⟩, hfibre⟩, -⟩
    exact not_loads (hload g hg) hp ⟨hkind, hslot, hfibre⟩
  · exact Bool.false_ne_true

end

/-! ### What comes before the lanes' operations -/

/-- The state in which the lanes of an atomic operate: issued, their lines requested, what must come before them performed. -/
def begun (s : State) (i : Iss) (n : Nat) (gs : List (Lane × Got)) : State :=
  (((s.account i).coalesce i 2 n (lineVas (gs.map (·.1)))).fixLanes i gs).fixPhase i gs

/-- With sampling off the coalescer only counts (R124, R148). -/
theorem coalesce_of_unsampled {s : State} (i : Iss) (kind n : Nat) (vas : List Nat) (h : s.regFld 0x980 0 5 = 0) :
    s.coalesce i kind n vas = s.countCl i.cl 0x114 (s.requests i kind n vas).length := by
  have hsel (k : Nat) : (s.countCl i.cl 0x114 k).regFld 0x980 0 5 = 0 := by
    unfold State.countCl
    split
    · rw [State.regFld, State.count, State.reg_setReg_ne _ _ (by unfold clOff; omega)]
      exact h
    · exact h
  unfold State.coalesce State.hotness
  exact if_pos (.inl (hsel _))

theorem regFld_account {s : State} (i : Iss) : (s.account i).regFld 0x980 0 5 = s.regFld 0x980 0 5 := by
  obtain ⟨-, hregs, -⟩ := State.frame_account s i
  rw [State.regFld, hregs 0x980 (by unfold clOff; omega), State.regFld]

theorem pend_account (s : State) (i : Iss) : ((s.account i).cl i.cl).pend = (s.cl i.cl).pend := by
  obtain ⟨-, -, -, hcl, -⟩ := State.frame_account s i
  exact (congrArg Cluster.pend hcl :)

theorem dirty_account (s : State) (i : Iss) : ((s.account i).cl i.cl).dirty = (s.cl i.cl).dirty := by
  obtain ⟨-, -, -, hcl, -⟩ := State.frame_account s i
  exact (congrArg Cluster.dirty hcl :)

theorem loading_of_pend {s t : State} {i : Iss} (h : (t.cl i.cl).pend = (s.cl i.cl).pend) (k : Nat) :
    t.loading i k = s.loading i k := by
  rw [State.loading, h, State.loading]

theorem cl_countCl (s : State) (c r n d : Nat) : (s.countCl c r n).cl d = s.cl d := by
  rw [State.cl, clusters_countCl, State.cl]

theorem pend_scrPort (s : State) (i : Iss) (ls : List Lane) : ((s.scrPort i ls).cl i.cl).pend = (s.cl i.cl).pend := by
  unfold State.scrPort
  dsimp only
  split
  · rfl
  · exact HeldMiss.pend_modCl _ _ _ (by exact fun _ => rfl)

/-- For fibres without outstanding loads all of that is the issue's own bookkeeping. -/
theorem begun_of_quiet {s : State} {i : Iss} {gs : List (Lane × Got)} (hsel : s.regFld 0x980 0 5 = 0)
    (hload : ∀ g ∈ gs, s.loading i g.1.h = false) (n : Nat) :
    ∃ k, begun s i n gs = ((s.account i).countCl i.cl 0x114 k).scrPort i (gs.map (·.1)) := by
  refine ⟨((s.account i).requests i 2 n (lineVas (gs.map (·.1)))).length, ?_⟩
  unfold begun State.fixLanes
  rw [coalesce_of_unsampled _ _ _ _ ((regFld_account i).trans hsel)]
  generalize ((s.account i).requests i 2 n (lineVas (gs.map (·.1)))).length = k
  have hidle : ∀ g ∈ gs, (((s.account i).countCl i.cl 0x114 k).scrPort i (gs.map (·.1))).loading i g.1.h = false := fun g hg => by
    refine (loading_of_pend ((pend_scrPort _ _ _).trans ?_) g.1.h).trans (hload g hg)
    rw [cl_countCl, pend_account]
  rw [settleLanes_of_not_loading hidle, fixPhase_of_not_loading hidle]

theorem windows_scrPort (s : State) (i : Iss) (ls : List Lane) : windows (s.scrPort i ls) = windows s := by
  unfold State.scrPort
  dsimp only
  split
  · rfl
  · exact windows_modCl _ _ (by exact fun _ => rfl)

theorem windows_begun {s : State} {i : Iss} {gs : List (Lane × Got)} (hsel : s.regFld 0x980 0 5 = 0)
    (hload : ∀ g ∈ gs, s.loading i g.1.h = false) (n : Nat) : windows (begun s i n gs) = windows s := by
  obtain ⟨k, hk⟩ := begun_of_quiet hsel hload n
  rw [hk, windows_scrPort, windows_countCl, windows_account]

end Sys2Proof.Proofs.QuietLanes
end

section
/-! ATOM, ATOMC and RED (R379 to R384): their lanes in position order, what completes at once, and the partial of a RED. -/
namespace Sys2Proof.Proofs.AtomicInstructions
open Sys2Proof.Machine Sys2Proof.Proofs.HomeWords Sys2Proof.Proofs.LiveWords Sys2Proof.Proofs.HomeFrame
open Sys2Proof.Proofs.RegisterWindows Sys2Proof.Proofs.QuietLanes

/-! ### The lanes in position order (R381 to R383) -/

/-- The instruction's own effect once its lanes may proceed. -/
def performed (s : State) (i : Iss) (n : Nat) (gs : List (Lane × Got)) (one : LaneStep) : State :=
  (operated (begun s i n gs) gs one).goOn i.x i.stall fun _ => i.next

/-- Bytes of ATOMC's word (R381). -/
def swapBytes (f : Fields) : Nat := if f.m 1 then 8 else 4

/-- The lanes of the three instructions. -/
def atomStep (f : Fields) (i : Iss) : LaneStep := fun m s l =>
  s.atomLane i (f.m 0) m l fun old => memOp f.sc.toNat old (i.src 2 l.1.h).1
def atomcStep (f : Fields) (i : Iss) : LaneStep := fun m s l =>
  s.atomLane i (f.m 0) m l fun old => if old = (i.src 2 l.1.h).1 then (i.src 3 l.1.h).1 else old
def redStep (f : Fields) (i : Iss) : LaneStep := fun m s l => (m, s.redLane i f.sc.toNat l)

section
variable {s t u : State} {i : Iss} {f : Fields} {gs : List (Lane × Got)} {n : Nat}

/-- Lanes that may proceed are performed when their ordering is met; the scratchpad needs none (R164). -/
theorem atomIssue_open {red : Option Nat} {ready : State → Nat → Bool} {one : LaneStep}
    (hcheck : t.checkLanes i 2 (i.on.map (i.lane n)) = (.ok gs, u)) (hlater : u.sendsLater i gs = false)
    (hheld : u.peerHeld red (u.dieOf i.cl) gs = false) (hopen : (∀ g ∈ gs, ∃ o, g.2 = .scr o) ∨ ∀ h ∈ i.on, ready u h = true) :
    t.atomIssue i n red ready one = performed u i n gs one := by
  simp only [State.atomIssue, hcheck, hlater, hheld, Bool.or_false]
  refine if_neg fun hheld => ?_
  obtain ⟨hglobal, hwait⟩ := Bool.and_eq_true_iff.1 hheld
  rcases hopen with hscr | hready
  · obtain ⟨g, hg, hmem⟩ := List.any_eq_true.1 hglobal
    obtain ⟨o, ho⟩ := hscr g hg
    rw [ho] at hmem
    cases hmem
  · rw [List.all_eq_true.2 hready] at hwait
    cases hwait

theorem exec_atom (hi : s.Issues (.atom f) t i) : exec (.atom f) s = .next
    (t.atomIssue i (opBytes f.sc.toNat) none (fun s h => s.scopeReady i (f.m 0) h) (atomStep f i)) :=
  hi.next (go := fun s i => s.atomIssue i (opBytes f.sc.toNat) none (fun s h => s.scopeReady i (f.m 0) h) (atomStep f i)) rfl rfl

theorem exec_atomc (hi : s.Issues (.atomc f) t i) : exec (.atomc f) s = .next
    (t.atomIssue i (swapBytes f) none (fun s h => s.scopeReady i (f.m 0) h) (atomcStep f i)) :=
  hi.next (go := fun s i => s.atomIssue i (swapBytes f) none (fun s h => s.scopeReady i (f.m 0) h) (atomcStep f i)) rfl rfl

theorem exec_red (hi : s.Issues (.red f) t i) : exec (.red f) s = .next
    (t.atomIssue i (opBytes f.sc.toNat) (some f.sc.toNat) (fun _ _ => true) (redStep f i)) :=
  hi.next (go := fun s i => s.atomIssue i (opBytes f.sc.toNat) (some f.sc.toNat) (fun _ _ => true) (redStep f i)) rfl rfl

end

/-! ### What completes at once (R207, R266) -/

theorem fibre_modFibre_of_lt {s : State} {c k h : Nat} (g : Fibre → Fibre) {tm : Team} (ht : s.team? c k = some tm)
    (hl : h < tm.fibres.length) : (s.modFibre c k h g).fibre c k h = g (s.fibre c k h) := by
  unfold State.fibre
  rw [State.modFibre, State.team?_modTeam_self s c k (fun t => t.modFibre h g) fun _ => rfl, ht]
  exact Team.fibre_modFibre_self tm h g hl

theorem team?_of_windows {s : State} {c k : Nat} {ws : List (List VReg)} (h : windows s c k = some ws) :
    ∃ tm, s.team? c k = some tm ∧ tm.fibres.length = ws.length := by
  obtain ⟨tm, ht, rfl⟩ := Option.map_eq_some_iff.1 h
  exact ⟨tm, ht, by simp⟩

theorem pc_setPcs {c k h : Nat} {a : Addr} {ws : List (List VReg)} (hlt : h < ws.length) {fs : List Nat} {s : State}
    (hw : windows s c k = some ws) (hpc : h ∈ fs ∨ (s.fibre c k h).pc = a) :
    ((fs.foldl (fun s f => s.modFibre c k f fun y => { y with pc := a }) s).fibre c k h).pc = a := by
  induction fs generalizing s with
  | nil => exact hpc.resolve_left fun hin => by cases hin
  | cons f fs ih =>
    refine ih ((congrFun (congrFun (windows_modFibre s c k f (by exact fun _ => rfl)) c) k).trans hw) ?_
    by_cases hf : h = f
    · subst hf
      obtain ⟨tm, ht, hlen⟩ := team?_of_windows hw
      exact .inr (by rw [fibre_modFibre_of_lt _ ht (hlen ▸ hlt)])
    · rw [State.fibre_modFibre_ne _ _ fun ⟨_, _, e⟩ => hf e]
      exact hpc.imp_left fun hin => (List.mem_cons.1 hin).resolve_left hf

/-- The fibres of an issue that goes on stand at its next address. -/
theorem pc_goOn {s : State} {i : Iss} {ws : List (List VReg)} (hw : windows s i.cl i.slot = some ws)
    (hlt : ∀ h ∈ i.x.fs, h < ws.length) (stall : Nat) (a : Addr) :
    ∀ h ∈ i.x.fs, ((s.goOn i.x stall fun _ => a).fibre i.cl i.slot h).pc = a := fun h hh => by
  rw [State.goOn, State.passed, State.fibre_modCohort]
  exact pc_setPcs (hlt h hh) hw (.inl hh)

section
variable {t : State} {i : Iss}

/-- What stands before none of an instruction's lanes: no trap, nothing to wait for, no peer's window. -/
def Clear (t : State) (i : Iss) (n : Nat) : Prop :=
  (∀ l ∈ i.on.map (i.lane n), i.laneHit l = none) ∧ t.Quiet i 2 (i.on.map (i.lane n))
    ∧ ∀ l ∈ i.on.map (i.lane n), ∀ va pa cls, l.tgt = .mem va → t.paOf i.cl i.team.space va 2 = some (pa, cls) →
        t.peerWaits pa = false

/-- The lanes of the guarded fibres, each with its target. -/
def lanes (t : State) (i : Iss) (n : Nat) : List (Lane × Got) := translated t i 2 (i.on.map (i.lane n))

theorem fibres_lanes (t : State) (i : Iss) (n : Nat) : (lanes t i n).map (fun g => g.1.h) = i.on := by
  rw [lanes, translated, List.map_map, List.map_map]
  exact List.map_id _

variable {n : Nat} (hc : Clear t i n)
include hc

theorem not_loading_of_clear : ∀ g ∈ lanes t i n, t.loading i g.1.h = false := fun g hg => by
  obtain ⟨-, ⟨-, -, hload, -⟩, -⟩ := hc
  exact hload _ (by rw [← fibres_lanes t i n]; exact List.mem_map_of_mem (f := fun g : Lane × Got => g.1.h) hg)

/-- Nothing leaves such lanes for later. -/
theorem atomIssue_of_clear {red : Option Nat} {ready : State → Nat → Bool} {one : LaneStep}
    (hready : ∀ h ∈ i.on, ready t h = true) :
    t.atomIssue i n red ready one = performed t i n (lanes t i n) one := by
  have hload := not_loading_of_clear hc
  obtain ⟨hhit, hquiet, hpeer⟩ := hc
  exact atomIssue_open (checkLanes_of_quiet hhit hquiet) (sendsLater_of_not_loading hload) (peerHeld_of_clear hpeer _ _) (.inr hready)

theorem windows_begun_of_clear : windows (begun t i n (lanes t i n)) = windows t := by
  have hload := not_loading_of_clear hc
  obtain ⟨-, ⟨-, hsel, -, -⟩, -⟩ := hc
  exact windows_begun hsel hload n

end

/-- The windows of the issuing team. -/
theorem windows_of_issue {t : State} {i : Iss} (hi : i.Of t) : windows t i.cl i.slot = some (i.team.fibres.map (·.v)) := by
  rw [windows, hi.team, Option.map_some]

section
variable {t : State} {i : Iss} {n : Nat} (hi : i.Of t) (hlt : ∀ h ∈ i.x.fs, h < i.team.fibres.length) (hc : Clear t i n)
include hi hlt hc

/-- ATOM and ATOMC go on with their destinations empty. -/
theorem performed_of_clear {one : LaneStep} (hone : EmptiesDests i one) :
    (∀ h ∈ i.x.fs, ((performed t i n (lanes t i n) one).fibre i.cl i.slot h).pc = i.next)
      ∧ ∀ h ∈ i.on, ∀ r ∈ i.regsAt 0 h, r < 255 → r < (t.fibre i.cl i.slot h).v.length →
          (((performed t i n (lanes t i n) one).fibre i.cl i.slot h).reg r).full = false := by
  have hws : windows (operated (begun t i n (lanes t i n)) (lanes t i n) one) i.cl i.slot
      = some (destsEmptied i i.on (i.team.fibres.map (·.v))) := by
    rw [hone.windows_operated, windows_begun_of_clear hc, windows_of_issue hi, fibres_lanes, Option.map_some]
  refine ⟨pc_goOn hws (by simpa [length_destsEmptied] using hlt) _ _, fun h hh r hr hvz hlen => ?_⟩
  rw [v_fibre, windows_of_issue hi, Option.getD_some] at hlen
  rw [Fibre.reg, if_neg (Nat.ne_of_lt hvz), v_fibre, performed, windows_goOn, hws, Option.getD_some]
  exact full_destsEmptied (.inl ⟨hh, hr, Nat.ne_of_lt hvz, by simpa using hlt h (List.mem_filter.1 hh).1, hlen⟩)

/-- RED goes on with its fibres' registers as they were. -/
theorem performed_red_of_clear (f : Fields) :
    (∀ h ∈ i.x.fs, ((performed t i n (lanes t i n) (redStep f i)).fibre i.cl i.slot h).pc = i.next)
      ∧ ∀ h r, ((performed t i n (lanes t i n) (redStep f i)).fibre i.cl i.slot h).reg r = (t.fibre i.cl i.slot h).reg r := by
  have hws : windows (operated (begun t i n (lanes t i n)) (lanes t i n) (redStep f i)) = windows t :=
    (windows_operated_red _ i f.sc.toNat (lanes t i n)).trans (windows_begun_of_clear hc)
  refine ⟨pc_goOn ((congrFun (congrFun hws i.cl) i.slot).trans (windows_of_issue hi)) (by simpa using hlt) _ _, fun h r => ?_⟩
  exact reg_of_windows ((windows_goOn _ _ _ _).trans hws) _ _ _ _

end

/-! ### The partial of a RED (R141, R383) -/

/-- No transaction leaves for a window that is not open. -/
theorem redSend_of_not_waiting {s : State} {pa : Nat} (h : s.peerWaits pa = false) (die op : Nat) (b : Word) :
    s.redSend die pa op b = none := by
  rcases Bool.and_eq_false_iff.1 h with hpeer | hwindow
  · simp [State.redSend, hpeer]
  · rw [Option.isSome_eq_false_iff, Option.isNone_iff_eq_none] at hwindow
    simp [State.redSend, hwindow]

/-- Without dirty bytes that it names a flush does nothing. -/
theorem flush_of_clean {s : State} {c : Nat} {p : Nat → Nat → Bool} (h : (s.cl c).dirtyCells p = []) : s.flush c p = s := by
  have hnone : (s.cl c).dirtyCells (fun pa a => p pa a && !s.heldBack pa) = [] := by
    refine List.filterMap_eq_nil_iff.2 fun (a, b) hx => ?_
    have hx := List.filterMap_eq_nil_iff.1 h (a, b) hx
    cases b with
    | none => rfl
    | some b =>
      have hp : p a b.asid = false := by simpa using hx
      simp [hp]
  simp [State.flush, hnone]

theorem redPartial_of_no_partial {s : State} (hp : s.partials = []) (d asid pa op : Nat) (v : DWord) :
    s.redPartial d asid pa op v = { s with partials := [⟨d, pa, op, v, [asid]⟩] } := by
  simp [State.redPartial, hp]

theorem rdcTrim_of_room {s : State} {d : Nat} (h : (atD s.rdc d []).length + s.partials.length ≤ 131072) (line : Nat) :
    s.rdcTrim d line = s := if_pos h

/-- A RED to a PHASE word with no dirty byte in its cluster's L1 leaves memory alone and is its die's one partial. -/
theorem redLane_phase {s : State} {i : Iss} {l : Lane} {va pa : Nat} (op : Nat) (ht : l.tgt = .mem va)
    (hw : s.Warm i.cl i.team.space va) (hpeer : s.peerWaits pa = false) (hsram : isSram pa = false)
    (hclean : (s.cl i.cl).dirtyCells (fun a _ => a / 8 == pa / 8) = []) (hp : s.partials = [])
    (hroom : (atD s.rdc (s.dieOf i.cl) []).length < 131072) :
    (s.redLane i op (l, .at pa 0)).mem = s.mem ∧ (s.redLane i op (l, .at pa 0)).partials
      = [⟨s.dieOf i.cl, pa, op, BitVec.ofNat 64 (i.src 2 l.h).1, [i.team.space]⟩] := by
  have hva : l.va = va := by rw [Lane.va, ht]
  have hback := recall_bookkept hp none ((List.range l.n).map (pa + ·))
  have htrim : s.redLane i op (l, .at pa 0) = State.rdcTrim { s.recall none ((List.range l.n).map (pa + ·)) with
      partials := [⟨s.dieOf i.cl, pa, op, BitVec.ofNat 64 (i.src 2 l.h).1, [i.team.space]⟩] } (s.dieOf i.cl) (pa / 256) := by
    simp only [State.redLane, redSend_of_not_waiting hpeer, hva, markDirty_of_warm hw, flush_of_clean hclean, hsram]
    rw [redPartial_of_no_partial (hback.partials.trans hp)]
    rfl
  rw [htrim, rdcTrim_of_room (by rw [hback.rdc]; exact hroom)]
  exact ⟨hback.mem, rfl⟩

theorem dirty_modCl (s : State) (c : Nat) {g : Cluster → Cluster} (hg : ∀ k, (g k).dirty = k.dirty) :
    ((s.modCl c g).cl c).dirty = (s.cl c).dirty := by
  by_cases hc : c < s.clusters.length
  · rw [State.cl_modCl _ _ _ hc, hg]
  · rw [State.modCl_of_ge _ _ _ (Nat.le_of_not_lt hc)]

/-- What comes before the lanes' operations changes clusters and device registers alone, and of its cluster not the L1. -/
theorem begun_outside {s : State} {i : Iss} {gs : List (Lane × Got)} (hsel : s.regFld 0x980 0 5 = 0)
    (hload : ∀ g ∈ gs, s.loading i g.1.h = false) (n : Nat) :
    s.SameOutside (begun s i n gs) ∧ ((begun s i n gs).cl i.cl).dirty = (s.cl i.cl).dirty := by
  obtain ⟨k, hk⟩ := begun_of_quiet hsel hload n
  obtain ⟨hout, -⟩ := State.frame_account s i
  have hcount : s.SameOutside ((s.account i).countCl i.cl 0x114 k) := by
    unfold State.countCl
    split
    · unfold State.SameOutside at hout ⊢
      rw [hout]
      rfl
    · exact hout
  have hdirty : (((s.account i).countCl i.cl 0x114 k).cl i.cl).dirty = (s.cl i.cl).dirty := by
    rw [cl_countCl, dirty_account]
  rw [hk]
  unfold State.scrPort
  dsimp only
  split
  · exact ⟨hcount, hdirty⟩
  · refine ⟨?_, (dirty_modCl _ _ (by exact fun _ => rfl)).trans hdirty⟩
    unfold State.SameOutside at hcount ⊢
    rw [hcount]
    rfl

section
variable {s t : State} (h : s.SameOutside t)
include h

theorem mem_of_outside : t.mem = s.mem := by rw [h]
theorem partials_of_outside : t.partials = s.partials := by rw [h]
theorem rdc_of_outside : t.rdc = s.rdc := by rw [h]
theorem dieOf_of_outside (c : Nat) : t.dieOf c = s.dieOf c := by rw [h]; rfl
theorem peerWaits_of_outside (pa : Nat) : t.peerWaits pa = s.peerWaits pa := by rw [h]; rfl

theorem warm_of_outside {c asid va : Nat} (hw : s.Warm c asid va) : t.Warm c asid va := by
  have hfind : t.tlbFind c asid va = s.tlbFind c asid va := by rw [h]; rfl
  rwa [State.Warm, hfind]

end

/-- RED of one fibre to a PHASE word. -/
theorem performed_red_phase {t : State} {i : Iss} {h n va pa : Nat} (f : Fields) (hc : Clear t i n) (hon : i.on = [h])
    (ht : (i.lane n h).tgt = .mem va) (hpa : t.paOf i.cl i.team.space va 2 = some (pa, 0)) (hsram : isSram pa = false)
    (hclean : (t.cl i.cl).dirtyCells (fun a _ => a / 8 == pa / 8) = []) (hroom : (atD t.rdc (t.dieOf i.cl) []).length < 131072) :
    (performed t i n (lanes t i n) (redStep f i)).mem = t.mem ∧ (performed t i n (lanes t i n) (redStep f i)).partials
      = [⟨t.dieOf i.cl, pa, f.sc.toNat, BitVec.ofNat 64 (i.src 2 h).1, [i.team.space]⟩] := by
  have hload := not_loading_of_clear hc
  obtain ⟨-, ⟨hpart, hsel, -, hquiet⟩, hpeer⟩ := hc
  have hl : i.lane n h ∈ i.on.map (i.lane n) := by rw [hon]; exact List.mem_singleton_self _
  have hwarm : t.Warm i.cl i.team.space va := by
    have hlane := hquiet _ hl
    rw [ht] at hlane
    exact hlane.1
  have hgs : lanes t i n = [(i.lane n h, .at pa 0)] := by
    rw [lanes, translated, hon, List.map_singleton, List.map_singleton, gotLane_of_warm ht hwarm hpa]
  obtain ⟨hout, hdirty⟩ := begun_outside hsel hload n
  have hgone := (State.frame_goOn (operated (begun t i n (lanes t i n)) (lanes t i n) (redStep f i)) i i.stall fun _ => i.next).1
  obtain ⟨hmem, hpartials⟩ := redLane_phase (s := begun t i n (lanes t i n)) (l := i.lane n h) f.sc.toNat ht
    (warm_of_outside hout hwarm) ((peerWaits_of_outside hout pa).trans (hpeer _ hl va pa 0 ht hpa)) hsram
    (by rw [Cluster.dirtyCells, hdirty]; exact hclean) ((partials_of_outside hout).trans hpart) (by rw [rdc_of_outside hout, dieOf_of_outside hout]; exact hroom)
  have hone : operated (begun t i n (lanes t i n)) (lanes t i n) (redStep f i)
      = (begun t i n (lanes t i n)).redLane i f.sc.toNat (i.lane n h, .at pa 0) :=
    congrArg (operated (begun t i n (lanes t i n)) · (redStep f i)) hgs
  refine ⟨(mem_of_outside hgone).trans ?_, (partials_of_outside hgone).trans ?_⟩
  · rw [hone, hmem, mem_of_outside hout]
  · rw [hone, hpartials, dieOf_of_outside hout]
    rfl

/-! ### The obligation -/

/-- Settles O46: the lanes are performed in position order once they may proceed; quiet lanes may, and go on with the registers'
windows but for destinations; partials and LIVE words are combined at home in one act. -/
theorem atomicInstructions : Obligations.AtomicInstructions := by
  refine ⟨fun s t u i f gs => ⟨fun hi hcheck hlater hheld hopen => ?_, fun hi hcheck hlater hheld hopen => ?_,
    fun hi hcheck hlater hheld => ?_⟩, fun s t i f hn hlt => ⟨fun hi hc hscope => ?_, fun hi hc hscope => ?_, fun hi hc => ?_,
    fun h va pa hi hc hon ht hpa hsram hclean hroom => ?_⟩, fun t p hl hm => ⟨fun a hp ha hw => touch_partial hp ha hw,
    fun hp => (mergeOne_poisoned hl hp).mem, fun hp => ?_⟩, fun t c pa cls n tab g hp hl he hroom _ hcls hm => ?_,
    MemoryOperations.memOp_eq⟩
  · exact (exec_atom hi).trans (congrArg _ (atomIssue_open hcheck hlater hheld hopen))
  · exact (exec_atomc hi).trans (congrArg _ (atomIssue_open hcheck hlater hheld hopen))
  · exact (exec_red hi).trans (congrArg _ (atomIssue_open hcheck hlater hheld (.inr fun _ _ => rfl)))
  · exact ⟨_, (exec_atom hi).trans (congrArg _ (atomIssue_of_clear hc hscope)),
      performed_of_clear hi.of hlt hc (emptiesDests_atomLane i (f.m 0) _)⟩
  · exact ⟨_, (exec_atomc hi).trans (congrArg _ (atomIssue_of_clear hc hscope)),
      performed_of_clear hi.of hlt hc (emptiesDests_atomLane i (f.m 0) _)⟩
  · exact ⟨_, (exec_red hi).trans (congrArg _ (atomIssue_of_clear hc fun _ _ => rfl)), performed_red_of_clear hi.of hlt hc f⟩
  · exact ⟨_, (exec_red hi).trans (congrArg _ (atomIssue_of_clear hc fun _ _ => rfl)),
      performed_red_phase f hc hon ht hpa hsram hclean hroom⟩
  · exact homeByte_mergeOne hl hp hm
  · subst hcls
    refine ⟨fun hpois => ?_, fun hpois => ?_⟩
    · obtain ⟨hold, hpoison, hkept⟩ := atHome_poisoned hp hl he hroom tab g hpois
      exact ⟨hold, hpoison, hkept.mem⟩
    · obtain ⟨hold, hpoison, hin, hout⟩ := homeByte_atHome hp hl he hroom tab g hpois hm
      exact ⟨hold, hpoison, fun k hk _ => hin k hk, hout⟩

end Sys2Proof.Proofs.AtomicInstructions
end
